-- ==== Sys2Proof/Word.lean ====
section
/-!
DEFINITION. Word.lean: the widths of the NX2 as Lean types.
-/

namespace Sys2Proof

/-- A 64-bit word: the width of every integer register, address and CSR (04 R94, 08 R215). -/
abbrev Word := BitVec 64

/-- One byte of memory. -/
abbrev Byte := BitVec 8

/-- One instruction word (02 R26). -/
abbrev IWord := BitVec 32

/-- The number of a g, f or v register. -/
abbrev Reg := BitVec 5

/-- The number of a mask register m0 to m7 or of a mask selector (02 R39). -/
abbrev MaskReg := BitVec 3

/-- The number of a tile t0 to t7 or of an accumulator a0 to a7 (06 R162, R186). -/
abbrev TileReg := BitVec 3

/-- The contents of one vector register: 8,192 bits (05 R124). -/
abbrev VWord := BitVec 8192

/-- The contents of one mask register: 1,024 bits (05 R125). -/
abbrev MWord := BitVec 1024

/-- The contents of one tile: 16 rows of 1,024 bytes (06 R162). -/
abbrev TWord := BitVec 131072

end Sys2Proof
end

