-- ==== Sys2Proof/Machine/Bits.lean ====
section
/-!
DEFINITION. Machine/Bits.lean: fields of words, extension, and bytes in little-endian order (00 R2).
-/

namespace Sys2Proof.Machine

/-- Bits `hi` down to `lo` of a word, as a number. -/
def bitsNat (w : Word) (hi lo : Nat) : Nat := (w.toNat >>> lo) % 2 ^ (hi + 1 - lo)

/-- Bit `i` of a word. -/
def bitAt (w : Word) (i : Nat) : Bool := w.toNat.testBit i

/-- The word with bits `hi` down to `lo` replaced by the low bits of `v`. -/
def setBits (w : Word) (hi lo v : Nat) : Word :=
  let n := hi + 1 - lo
  let mask : Word := BitVec.ofNat 64 ((2 ^ n - 1) <<< lo)
  (w &&& ~~~mask) ||| (BitVec.ofNat 64 ((v % 2 ^ n) <<< lo))

/-- The number read as an `n`-bit two's complement value. -/
def signedOf (n x : Nat) : Int :=
  let y := x % 2 ^ n
  if n = 0 then 0 else if y < 2 ^ (n - 1) then (y : Int) else (y : Int) - (2 ^ n : Nat)

/-- An integer modulo 2^n, as a number. -/
def wrapNat (n : Nat) (x : Int) : Nat := (x % ((2 ^ n : Nat) : Int)).toNat

/-- An integer modulo 2^64, as a word. -/
def wordOfInt (x : Int) : Word := BitVec.ofInt 64 x

/-- sext(x[n-1:0], n) as a word (00 R3). -/
def sextNat (n x : Nat) : Word := BitVec.ofInt 64 (signedOf n x)

/-- zext(x[n-1:0], n) as a word. -/
def zextNat (n x : Nat) : Word := BitVec.ofNat 64 (x % 2 ^ n)

/-- A 16-bit immediate, sign-extended. -/
def sext16 (i : BitVec 16) : Word := i.signExtend 64

/-- 1 for true and 0 for false. -/
def boolWord (b : Bool) : Word := if b then 1 else 0

/-- The `n` bytes of a number, least significant first (00 R2). -/
def bytesOf : Nat → Nat → List Byte
  | 0, _ => []
  | n + 1, x => BitVec.ofNat 8 x :: bytesOf n (x / 256)

/-- The number whose bytes these are, least significant first (00 R2). -/
def natOfBytes : List Byte → Nat
  | [] => 0
  | b :: bs => b.toNat + 256 * natOfBytes bs

/-- The numbers from `a`, `n` of them, ascending. -/
def rangeFrom (a n : Nat) : List Nat := (List.range n).map (a + ·)

/-- The least multiple of `n` not below `x`. -/
def alignUp (x n : Nat) : Nat := (x + n - 1) / n * n

/-- How many bits of the low `n` bits of `x` are one. -/
def popcount : Nat → Nat → Nat
  | 0, _ => 0
  | n + 1, x => x % 2 + popcount n (x / 2)

/-- The number of trailing zero bits of the low `n` bits of `x`, at most `n`. -/
def trailingZeros : Nat → Nat → Nat
  | 0, _ => 0
  | n + 1, x => if x % 2 = 1 then 0 else 1 + trailingZeros n (x / 2)

/-- The number of leading zero bits of the `n`-bit number `x`. -/
def leadingZeros : Nat → Nat → Nat
  | 0, _ => 0
  | n + 1, x => if x.testBit n then 0 else 1 + leadingZeros n x

end Sys2Proof.Machine
end

