-- ==== Sys2Proof/Syntax.lean ====
section
/-!
DEFINITION. Syntax.lean: the operand kinds of the NXA instruction words and `Instr`, the one inductive of every
operation and event of spec/opcode_table.json.  The operands of an encoded form are the fields of its word (02 R30 to
R41); the operands of an event name the strand, core or other agent that it concerns.
-/

namespace Sys2Proof

/-- Element types (02 R38).  `b64` is read as f64 by the floating-point forms. -/
inductive Et where
  | b8 | b16 | b32 | b64 | f16 | bf16 | f32 | nf
  deriving DecidableEq, Repr

/-- Width codes of SEXT and ZEXT (04 R95). -/
inductive Width where
  | w8 | w16 | w32
  deriving DecidableEq, Repr

/-- Precisions of the FPU forms (02 R43). -/
inductive Prec where
  | f32 | f64
  deriving DecidableEq, Repr

/-- Rounding codes of the FPU forms (02 R40). -/
inductive Rnd where
  | dyn | rne | rtz | rdn | rup
  deriving DecidableEq, Repr

/-- Rounding codes of the vector conversions (03, Conversion instructions). -/
inductive VRnd where
  | dyn | rne | rtz | rsr
  deriving DecidableEq, Repr

/-- Sign modes of FSGN (04 R112). -/
inductive SgnMode where
  | copy | inverse | xor
  deriving DecidableEq, Repr

/-- Floating-point types of FCVT (03 R79). -/
inductive FType where
  | f64 | f16 | bf16 | f32
  deriving DecidableEq, Repr

/-- Integer widths of the vector conversions (03 R79). -/
inductive IntW where
  | b8 | b16 | b32 | b64
  deriving DecidableEq, Repr

/-- Scopes (02 R41). -/
inductive Scope where
  | strand | core | cluster | die | module | system
  deriving DecidableEq, Repr

/-- Widths of the AMO and RED forms (02 R43): 32-bit or f32, 64-bit or f64, a bf16 pair. -/
inductive AmoWidth where
  | w32 | w64 | pair
  deriving DecidableEq, Repr

/-- Element types of VREDM (11 R304). -/
inductive RedType where
  | b32 | b64 | f32 | f64
  deriving DecidableEq, Repr

/-- Destinations of MDRAIN (06 R189). -/
inductive DrainKind where
  | address | tile
  deriving DecidableEq, Repr

/-- Conditions of WAITV (11 R299). -/
inductive WaitCond where
  | eq | ne | geu | ges
  deriving DecidableEq, Repr

/-- Levels of PREF (08 R234). -/
inductive PrefLevel where
  | l1 | near | rim
  deriving DecidableEq, Repr

/-- What a host does at an offset of a window: a read of some bytes, or a write (12 R313, 17 R391, R392). -/
inductive HostAccess where
  | read (size : Nat)
  | write (bytes : List Byte)
  deriving DecidableEq, Repr

/-- What a debugger does (17 R402, R403): it halts a strand, or writes a register of a strand, its pc, or a byte of memory at a physical
address. -/
inductive DebugAct where
  | halt (k : Nat)
  | writeG (k : Nat) (r : Reg) (x : Word)
  | writeF (k : Nat) (r : Reg) (x : Word)
  | writeV (k : Nat) (r : Reg) (x : VWord)
  | writeM (k : Nat) (r : MaskReg) (x : MWord)
  | writePc (k : Nat) (x : Word)
  | writeMem (pa : Nat) (b : Byte)
  deriving DecidableEq, Repr

/-- A request for measurements: the block, 0xFF for all or 0 for their count, and the nonce (17 R400, log entry 23). -/
structure MeasRequest where
  block : BitVec 8
  nonce : BitVec 256
  deriving DecidableEq, Repr

/-- Every operation and event of the opcode table, one constructor for each row. -/
inductive Instr where
  /-- ADD (R96): Writes the 64-bit sum of g[a] and g[b] to g[d]. -/
  | add (d a b : Reg)
  /-- SUB (R96): Writes g[a] minus g[b], modulo 2^64, to g[d]. -/
  | sub (d a b : Reg)
  /-- AND (R96): Writes the bitwise AND of g[a] and g[b] to g[d]. -/
  | and (d a b : Reg)
  /-- OR (R96): Writes the bitwise OR of g[a] and g[b] to g[d]. -/
  | or (d a b : Reg)
  /-- XOR (R96): Writes the bitwise XOR of g[a] and g[b] to g[d]. -/
  | xor (d a b : Reg)
  /-- SHL (R96): Shifts g[a] left by g[b][5:0] bits. -/
  | shl (d a b : Reg)
  /-- SHR (R96): Shifts g[a] right by g[b][5:0] bits with zero fill. -/
  | shr (d a b : Reg)
  /-- SAR (R96): Shifts g[a] right by g[b][5:0] bits with sign fill. -/
  | sar (d a b : Reg)
  /-- MUL (R96): Writes the low 64 bits of the product of g[a] and g[b]. -/
  | mul (d a b : Reg)
  /-- MULH (R96): Writes the high 64 bits of the signed product. -/
  | mulh (d a b : Reg)
  /-- MULHZ (R96): Writes the high 64 bits of the unsigned product. -/
  | mulhz (d a b : Reg)
  /-- DIV (R97): Writes the signed quotient truncated towards zero, with fixed results for division by zero and overflow. -/
  | div (d a b : Reg)
  /-- DIVZ (R97): Writes the unsigned quotient, or all ones for division by zero. -/
  | divz (d a b : Reg)
  /-- REM (R97): Writes the signed remainder, which takes the sign of the dividend. -/
  | rem (d a b : Reg)
  /-- REMZ (R97): Writes the unsigned remainder. -/
  | remz (d a b : Reg)
  /-- MIN (R96): Writes the signed lesser of g[a] and g[b]. -/
  | min (d a b : Reg)
  /-- MAX (R96): Writes the signed greater of g[a] and g[b]. -/
  | max (d a b : Reg)
  /-- SLT (R96): Writes 1 when g[a] is less than g[b] as signed values, else 0. -/
  | slt (d a b : Reg)
  /-- SLTZ (R96): Writes 1 when g[a] is less than g[b] as unsigned values, else 0. -/
  | sltz (d a b : Reg)
  /-- CLZ (R96): Writes the number of leading zero bits of g[a]. -/
  | clz (d a : Reg)
  /-- CTZ (R96): Writes the number of trailing zero bits of g[a]. -/
  | ctz (d a : Reg)
  /-- POPC (R96): Writes the number of one bits of g[a]. -/
  | popc (d a : Reg)
  /-- SEXT (R96): Sign-extends the low 8, 16 or 32 bits of g[a], as selected by the width code in field b. -/
  | sext (d a : Reg) (n : Width)
  /-- ZEXT (R96): Zero-extends the low 8, 16 or 32 bits of g[a], as selected by the width code in field b. -/
  | zext (d a : Reg) (n : Width)
  /-- CSEL (R96): Writes g[b] to g[d] when g[a] is not zero, and otherwise keeps g[d]. -/
  | csel (d a b : Reg)
  /-- BFX (R98): Extracts the bit field that g[b] describes from g[a], with sign or zero extension. -/
  | bfx (d a b : Reg)
  /-- BFI (R98): Inserts the low bits of g[a] into the field of g[d] that g[b] describes. -/
  | bfi (d a b : Reg)
  /-- LEA (R96): Writes g[a] plus g[b] shifted left by the scale s. -/
  | lea (d a b : Reg) (s : BitVec 3)
  /-- ADDW (R96): Writes the sign-extended low 32 bits of g[a] plus g[b]. -/
  | addw (d a b : Reg)
  /-- ADDI (R99): Adds the sign-extended immediate to g[a]. -/
  | addi (d a : Reg) (i : BitVec 16)
  /-- ANDI (R99): ANDs g[a] with the zero-extended immediate. -/
  | andi (d a : Reg) (i : BitVec 16)
  /-- ORI (R99): ORs g[a] with the zero-extended immediate. -/
  | ori (d a : Reg) (i : BitVec 16)
  /-- XORI (R99): XORs g[a] with the zero-extended immediate. -/
  | xori (d a : Reg) (i : BitVec 16)
  /-- SLTI (R99): Writes 1 when g[a] is less than the sign-extended immediate as signed values. -/
  | slti (d a : Reg) (i : BitVec 16)
  /-- SHLI (R100): Shifts g[a] left by an immediate amount. -/
  | shli (d a : Reg) (s : BitVec 6)
  /-- SHRI (R100): Shifts g[a] right by an immediate amount with zero fill. -/
  | shri (d a : Reg) (s : BitVec 6)
  /-- SARI (R100): Shifts g[a] right by an immediate amount with sign fill. -/
  | sari (d a : Reg) (s : BitVec 6)
  /-- LDHI (R101): Sets g[d] to the sign-extended immediate shifted left by 16. -/
  | ldhi (d : Reg) (i : BitVec 16)
  /-- ADPC (R101): Sets g[d] to pc plus the sign-extended immediate shifted left by 16. -/
  | adpc (d : Reg) (i : BitVec 16)
  /-- LADDR (R202): Builds the L-space address of an offset in the carve of the core whose coordinates the immediate gives. -/
  | laddr (d a : Reg) (die : BitVec 2) (row col : BitVec 4)
  /-- LADDR_NEAR (R202): Builds the L-space address of an offset in a core at a signed row and column distance from the own core, raising LOCAL_RANGE off the die. -/
  | laddrNear (d a : Reg) (dy dx : BitVec 4)
  /-- BMANY (R103): Branches when at least one of mask bits 0 to VL-1 is 1. -/
  | bmany (m : MaskReg) (o : BitVec 16)
  /-- BMALL (R103): Branches when every one of mask bits 0 to VL-1 is 1. -/
  | bmall (m : MaskReg) (o : BitVec 16)
  /-- BMNONE (R103): Branches when none of mask bits 0 to VL-1 is 1. -/
  | bmnone (m : MaskReg) (o : BitVec 16)
  /-- BEQ (R102): Branches when g[a] equals g[b]. -/
  | beq (a b : Reg) (o : BitVec 16)
  /-- BNE (R102): Branches when g[a] differs from g[b]. -/
  | bne (a b : Reg) (o : BitVec 16)
  /-- BLT (R102): Branches when g[a] is less than g[b] as signed values. -/
  | blt (a b : Reg) (o : BitVec 16)
  /-- BGE (R102): Branches when g[a] is at least g[b] as signed values. -/
  | bge (a b : Reg) (o : BitVec 16)
  /-- BLO (R102): Branches when g[a] is less than g[b] as unsigned values. -/
  | blo (a b : Reg) (o : BitVec 16)
  /-- BHS (R102): Branches when g[a] is at least g[b] as unsigned values. -/
  | bhs (a b : Reg) (o : BitVec 16)
  /-- JAL (R104): Writes pc+4 to g[d] and jumps by a 21-bit word offset. -/
  | jal (d : Reg) (o : BitVec 21)
  /-- JALR (R104): Jumps to g[a] plus the immediate and writes the link, raising MISALIGN for a target that is not a multiple of 4. -/
  | jalr (d a : Reg) (i : BitVec 16)
  /-- LB (R105): Loads a sign-extended byte. -/
  | lb (d a : Reg) (i : BitVec 16)
  /-- LH (R105): Loads a sign-extended halfword. -/
  | lh (d a : Reg) (i : BitVec 16)
  /-- LW (R105): Loads a sign-extended word. -/
  | lw (d a : Reg) (i : BitVec 16)
  /-- LD (R105): Loads a doubleword. -/
  | ld (d a : Reg) (i : BitVec 16)
  /-- LBZ (R105): Loads a zero-extended byte. -/
  | lbz (d a : Reg) (i : BitVec 16)
  /-- LHZ (R105): Loads a zero-extended halfword. -/
  | lhz (d a : Reg) (i : BitVec 16)
  /-- LWZ (R105): Loads a zero-extended word. -/
  | lwz (d a : Reg) (i : BitVec 16)
  /-- SB (R105): Stores the low byte of g[d]. -/
  | sb (d a : Reg) (i : BitVec 16)
  /-- SH (R105): Stores the low halfword of g[d]. -/
  | sh (d a : Reg) (i : BitVec 16)
  /-- SW (R105): Stores the low word of g[d]. -/
  | sw (d a : Reg) (i : BitVec 16)
  /-- SD (R105): Stores g[d] as a doubleword. -/
  | sd (d a : Reg) (i : BitVec 16)
  /-- FLW (R105): Loads a word into f[d], boxed with ones, and raises POISON at the load for poisoned data. -/
  | flw (d a : Reg) (i : BitVec 16)
  /-- FLD (R105): Loads a doubleword into f[d]. -/
  | fld (d a : Reg) (i : BitVec 16)
  /-- FSW (R105): Stores f[d][31:0]. -/
  | fsw (d a : Reg) (i : BitVec 16)
  /-- FSD (R105): Stores f[d] as a doubleword. -/
  | fsd (d a : Reg) (i : BitVec 16)
  /-- FADD (R109): Rounds the sum of f[a] and f[b] once into the precision. -/
  | fadd (d a b : Reg) (r : Rnd) (p : Prec)
  /-- FSUB (R109): Rounds the difference of f[a] and f[b] once. -/
  | fsub (d a b : Reg) (r : Rnd) (p : Prec)
  /-- FMUL (R109): Rounds the product of f[a] and f[b] once. -/
  | fmul (d a b : Reg) (r : Rnd) (p : Prec)
  /-- FDIV (R109): Rounds the quotient of f[a] and f[b] once, setting DZ for a finite non-zero value divided by zero. -/
  | fdiv (d a b : Reg) (r : Rnd) (p : Prec)
  /-- FSQRT (R109): Rounds the square root of f[a] once. -/
  | fsqrt (d a : Reg) (r : Rnd) (p : Prec)
  /-- FMA (R109): Rounds f[a] times f[b] plus f[d] once. -/
  | fma (d a b : Reg) (r : Rnd) (p : Prec)
  /-- FMIN (R110): Returns the lesser operand, ordering -0 below +0 and preferring a non-NaN operand. -/
  | fmin (d a b : Reg) (p : Prec)
  /-- FMAX (R110): Returns the greater operand, ordering -0 below +0 and preferring a non-NaN operand. -/
  | fmax (d a b : Reg) (p : Prec)
  /-- FEQ (R111): Writes 1 to g[d] when f[a] equals f[b]. -/
  | feq (d a b : Reg) (p : Prec)
  /-- FLT (R111): Writes 1 to g[d] when f[a] is less than f[b], setting NV for any NaN. -/
  | flt (d a b : Reg) (p : Prec)
  /-- FLE (R111): Writes 1 to g[d] when f[a] is at most f[b], setting NV for any NaN. -/
  | fle (d a b : Reg) (p : Prec)
  /-- FSGN (R112): Writes f[a] with a new sign bit chosen by the sign mode. -/
  | fsgn (d a b : Reg) (s : SgnMode) (p : Prec)
  /-- FCLASS (R113): Writes a kind code, the sign and the box state of f[a] to g[d]. -/
  | fclass (d a : Reg) (p : Prec)
  /-- FCVT (R80): Converts f[a] between floating-point formats, rounding once. -/
  | fcvt (d a : Reg) (dst src : FType) (r : Rnd)
  /-- FCVTI (R81): Converts f[a] to a 32- or 64-bit signed or unsigned integer, clamping out-of-range values with NV. -/
  | fcvti (d a : Reg) (wide z : Bool) (r : Rnd) (p : Prec)
  /-- FCVTF (R82): Converts the integer in g[a] to floating point in f[d]. -/
  | fcvtf (d a : Reg) (wide z : Bool) (r : Rnd) (p : Prec)
  /-- FMVGF (R114): Moves bits from g[a] to f[d], boxed for the f32 form. -/
  | fmvgf (d a : Reg) (p : Prec)
  /-- FMVFG (R114): Moves bits from f[a] to g[d], sign-extended from 32 bits for the f32 form. -/
  | fmvfg (d a : Reg) (p : Prec)
  /-- VADD (R132): Adds elements modulo 2^w. -/
  | vadd (d a b : Reg) (k : MaskReg) (e : Et)
  /-- VSUB (R132): Subtracts elements modulo 2^w. -/
  | vsub (d a b : Reg) (k : MaskReg) (e : Et)
  /-- VMUL (R132): Writes the low w bits of each element product. -/
  | vmul (d a b : Reg) (k : MaskReg) (e : Et)
  /-- VMULH (R132): Writes the high w bits of each signed element product. -/
  | vmulh (d a b : Reg) (k : MaskReg) (e : Et)
  /-- VMULHZ (R132): Writes the high w bits of each unsigned element product. -/
  | vmulhz (d a b : Reg) (k : MaskReg) (e : Et)
  /-- VMIN (R132): Writes the signed lesser of each element pair. -/
  | vmin (d a b : Reg) (k : MaskReg) (e : Et)
  /-- VMAX (R132): Writes the signed greater of each element pair. -/
  | vmax (d a b : Reg) (k : MaskReg) (e : Et)
  /-- VMINZ (R132): Writes the unsigned lesser of each element pair. -/
  | vminz (d a b : Reg) (k : MaskReg) (e : Et)
  /-- VMAXZ (R132): Writes the unsigned greater of each element pair. -/
  | vmaxz (d a b : Reg) (k : MaskReg) (e : Et)
  /-- VAND (R132): ANDs elements. -/
  | vand (d a b : Reg) (k : MaskReg) (e : Et)
  /-- VOR (R132): ORs elements. -/
  | vor (d a b : Reg) (k : MaskReg) (e : Et)
  /-- VXOR (R132): XORs elements. -/
  | vxor (d a b : Reg) (k : MaskReg) (e : Et)
  /-- VSHL (R132): Shifts each element left by b mod w. -/
  | vshl (d a b : Reg) (k : MaskReg) (e : Et)
  /-- VSHR (R132): Shifts each element right with zero fill. -/
  | vshr (d a b : Reg) (k : MaskReg) (e : Et)
  /-- VSAR (R132): Shifts each element right with sign fill. -/
  | vsar (d a b : Reg) (k : MaskReg) (e : Et)
  /-- VSADD (R133): Adds signed elements with saturation, setting SAT on a clamp. -/
  | vsadd (d a b : Reg) (k : MaskReg) (e : Et)
  /-- VSSUB (R133): Subtracts signed elements with saturation, setting SAT on a clamp. -/
  | vssub (d a b : Reg) (k : MaskReg) (e : Et)
  /-- VMACC (R132): Adds the product of a and b into each destination element. -/
  | vmacc (d a b : Reg) (k : MaskReg) (e : Et)
  /-- VDOT4 (R134): Adds the four signed byte products of each 32-bit element pair into the destination. -/
  | vdot4 (d a b : Reg) (k : MaskReg)
  /-- VNARROW (R135): Narrows elements to half width by wrap or by one of three clamps. -/
  | vnarrow (d a : Reg) (m : BitVec 2) (k : MaskReg) (e : Et)
  /-- VWIDEN (R135): Widens elements to double width by sign or zero extension. -/
  | vwiden (d a : Reg) (x : Bool) (k : MaskReg) (e : Et)
  /-- VADD_SCALAR (R131): VADD with the scalar g[b] as every b element. -/
  | vaddScalar (d a b : Reg) (k : MaskReg) (e : Et)
  /-- VSUB_SCALAR (R131): VSUB with the scalar g[b]. -/
  | vsubScalar (d a b : Reg) (k : MaskReg) (e : Et)
  /-- VMUL_SCALAR (R131): VMUL with the scalar g[b]. -/
  | vmulScalar (d a b : Reg) (k : MaskReg) (e : Et)
  /-- VMULH_SCALAR (R131): VMULH with the scalar g[b]. -/
  | vmulhScalar (d a b : Reg) (k : MaskReg) (e : Et)
  /-- VMULHZ_SCALAR (R131): VMULHZ with the scalar g[b]. -/
  | vmulhzScalar (d a b : Reg) (k : MaskReg) (e : Et)
  /-- VMIN_SCALAR (R131): VMIN with the scalar g[b]. -/
  | vminScalar (d a b : Reg) (k : MaskReg) (e : Et)
  /-- VMAX_SCALAR (R131): VMAX with the scalar g[b]. -/
  | vmaxScalar (d a b : Reg) (k : MaskReg) (e : Et)
  /-- VMINZ_SCALAR (R131): VMINZ with the scalar g[b]. -/
  | vminzScalar (d a b : Reg) (k : MaskReg) (e : Et)
  /-- VMAXZ_SCALAR (R131): VMAXZ with the scalar g[b]. -/
  | vmaxzScalar (d a b : Reg) (k : MaskReg) (e : Et)
  /-- VAND_SCALAR (R131): VAND with the scalar g[b]. -/
  | vandScalar (d a b : Reg) (k : MaskReg) (e : Et)
  /-- VOR_SCALAR (R131): VOR with the scalar g[b]. -/
  | vorScalar (d a b : Reg) (k : MaskReg) (e : Et)
  /-- VXOR_SCALAR (R131): VXOR with the scalar g[b]. -/
  | vxorScalar (d a b : Reg) (k : MaskReg) (e : Et)
  /-- VSHL_SCALAR (R131): VSHL with the shift amount taken from g[b]. -/
  | vshlScalar (d a b : Reg) (k : MaskReg) (e : Et)
  /-- VSHR_SCALAR (R131): VSHR with the shift amount taken from g[b]. -/
  | vshrScalar (d a b : Reg) (k : MaskReg) (e : Et)
  /-- VSAR_SCALAR (R131): VSAR with the shift amount taken from g[b]. -/
  | vsarScalar (d a b : Reg) (k : MaskReg) (e : Et)
  /-- VSADD_SCALAR (R131): VSADD with the scalar g[b]. -/
  | vsaddScalar (d a b : Reg) (k : MaskReg) (e : Et)
  /-- VSSUB_SCALAR (R131): VSSUB with the scalar g[b]. -/
  | vssubScalar (d a b : Reg) (k : MaskReg) (e : Et)
  /-- VMACC_SCALAR (R131): VMACC with the scalar g[b]. -/
  | vmaccScalar (d a b : Reg) (k : MaskReg) (e : Et)
  /-- VDOT4_SCALAR (R134): VDOT4 with the four bytes of g[b][31:0] as every b element. -/
  | vdot4Scalar (d a b : Reg) (k : MaskReg)
  /-- VFADD (R136): Adds floating-point elements with one rounding by FSTAT's mode. -/
  | vfadd (d a b : Reg) (k : MaskReg) (e : Et)
  /-- VFSUB (R136): Subtracts floating-point elements. -/
  | vfsub (d a b : Reg) (k : MaskReg) (e : Et)
  /-- VFMUL (R136): Multiplies floating-point elements. -/
  | vfmul (d a b : Reg) (k : MaskReg) (e : Et)
  /-- VFDIV (R136): Divides floating-point elements. -/
  | vfdiv (d a b : Reg) (k : MaskReg) (e : Et)
  /-- VFSQRT (R136): Takes the square root of each element. -/
  | vfsqrt (d a : Reg) (k : MaskReg) (e : Et)
  /-- VFMA (R136): Computes a times b plus d with one rounding per element. -/
  | vfma (d a b : Reg) (k : MaskReg) (e : Et)
  /-- VFMS (R136): Computes a times b minus d with one rounding per element. -/
  | vfms (d a b : Reg) (k : MaskReg) (e : Et)
  /-- VFNMA (R136): Computes minus a times b plus d with one rounding per element. -/
  | vfnma (d a b : Reg) (k : MaskReg) (e : Et)
  /-- VFMIN (R136): Writes the lesser of each element pair under the FMIN rules. -/
  | vfmin (d a b : Reg) (k : MaskReg) (e : Et)
  /-- VFMAX (R136): Writes the greater of each element pair under the FMAX rules. -/
  | vfmax (d a b : Reg) (k : MaskReg) (e : Et)
  /-- VFRCPE (R137): Writes a truncated reciprocal estimate of each element. -/
  | vfrcpe (d a : Reg) (k : MaskReg) (e : Et)
  /-- VFRSQE (R137): Writes a truncated reciprocal square-root estimate of each element. -/
  | vfrsqe (d a : Reg) (k : MaskReg) (e : Et)
  /-- VFCVT (R83): Converts vector elements between floating-point and nf formats. -/
  | vfcvt (d a : Reg) (r : VRnd) (src : Et) (k : MaskReg) (e : Et)
  /-- VFCVTI (R83): Converts floating-point elements to integer elements. -/
  | vfcvti (d a : Reg) (r : VRnd) (z : Bool) (w : IntW) (k : MaskReg) (e : Et)
  /-- VFCVTF (R83): Converts integer elements to floating-point elements. -/
  | vfcvtf (d a : Reg) (r : VRnd) (z : Bool) (w : IntW) (k : MaskReg) (e : Et)
  /-- VFSCALE (R84): Multiplies each element by 2 to the power of the matching signed integer element of v[b]. -/
  | vfscale (d a b : Reg) (k : MaskReg) (e : Et)
  /-- VFMXQ (R85): Quantises elements into nf codes with an E8M0 scale per MX block. -/
  | vfmxq (d a : Reg) (r : VRnd) (n : BitVec 2) (k : MaskReg) (e : Et)
  /-- VFSGN (R138): Writes a with sign(a) XOR sign(b), keeping payloads. -/
  | vfsgn (d a b : Reg) (k : MaskReg) (e : Et)
  /-- VFADD_SCALAR (R131): VFADD with f[b] as every b element. -/
  | vfaddScalar (d a b : Reg) (k : MaskReg) (e : Et)
  /-- VFSUB_SCALAR (R131): VFSUB with the scalar f[b]. -/
  | vfsubScalar (d a b : Reg) (k : MaskReg) (e : Et)
  /-- VFMUL_SCALAR (R131): VFMUL with the scalar f[b]. -/
  | vfmulScalar (d a b : Reg) (k : MaskReg) (e : Et)
  /-- VFDIV_SCALAR (R131): VFDIV with the scalar f[b]. -/
  | vfdivScalar (d a b : Reg) (k : MaskReg) (e : Et)
  /-- VFMA_SCALAR (R131): VFMA with the scalar f[b]. -/
  | vfmaScalar (d a b : Reg) (k : MaskReg) (e : Et)
  /-- VFMS_SCALAR (R131): VFMS with the scalar f[b]. -/
  | vfmsScalar (d a b : Reg) (k : MaskReg) (e : Et)
  /-- VFNMA_SCALAR (R131): VFNMA with the scalar f[b]. -/
  | vfnmaScalar (d a b : Reg) (k : MaskReg) (e : Et)
  /-- VFMIN_SCALAR (R131): VFMIN with the scalar f[b]. -/
  | vfminScalar (d a b : Reg) (k : MaskReg) (e : Et)
  /-- VFMAX_SCALAR (R131): VFMAX with the scalar f[b]. -/
  | vfmaxScalar (d a b : Reg) (k : MaskReg) (e : Et)
  /-- VFSCALE_SCALAR (R84): VFSCALE with k taken from f[b][31:0] for every element. -/
  | vfscaleScalar (d a b : Reg) (k : MaskReg) (e : Et)
  /-- VFSGN_SCALAR (R138): VFSGN with the sign of f[b]. -/
  | vfsgnScalar (d a b : Reg) (k : MaskReg) (e : Et)
  /-- VCMPEQ (R139): Sets mask bits where elements are equal. -/
  | vcmpeq (d : MaskReg) (a b : Reg) (k : MaskReg) (e : Et)
  /-- VCMPNE (R139): Sets mask bits where elements differ. -/
  | vcmpne (d : MaskReg) (a b : Reg) (k : MaskReg) (e : Et)
  /-- VCMPLT (R139): Sets mask bits where a is signed-less than b. -/
  | vcmplt (d : MaskReg) (a b : Reg) (k : MaskReg) (e : Et)
  /-- VCMPLE (R139): Sets mask bits where a is signed-at-most b. -/
  | vcmple (d : MaskReg) (a b : Reg) (k : MaskReg) (e : Et)
  /-- VCMPLO (R139): Sets mask bits where a is unsigned-less than b. -/
  | vcmplo (d : MaskReg) (a b : Reg) (k : MaskReg) (e : Et)
  /-- VCMPLS (R139): Sets mask bits where a is unsigned-at-most b. -/
  | vcmpls (d : MaskReg) (a b : Reg) (k : MaskReg) (e : Et)
  /-- VFCMPEQ (R139): Sets mask bits where floating elements are equal. -/
  | vfcmpeq (d : MaskReg) (a b : Reg) (k : MaskReg) (e : Et)
  /-- VFCMPLT (R139): Sets mask bits where floating a is less than b. -/
  | vfcmplt (d : MaskReg) (a b : Reg) (k : MaskReg) (e : Et)
  /-- VFCMPLE (R139): Sets mask bits where floating a is at most b. -/
  | vfcmple (d : MaskReg) (a b : Reg) (k : MaskReg) (e : Et)
  /-- MAND (R140): ANDs two masks over the active elements. -/
  | mand (d a b k : MaskReg) (e : Et)
  /-- MOR (R140): ORs two masks over the active elements. -/
  | mor (d a b k : MaskReg) (e : Et)
  /-- MXOR (R140): XORs two masks over the active elements. -/
  | mxor (d a b k : MaskReg) (e : Et)
  /-- MANDN (R140): Computes ma AND NOT mb over the active elements. -/
  | mandn (d a b k : MaskReg) (e : Et)
  /-- MPOPC (R141): Counts the active elements whose source mask bit is 1. -/
  | mpopc (d : Reg) (a k : MaskReg) (e : Et)
  /-- MFIRST (R141): Writes the index of the first active set mask bit, or -1. -/
  | mfirst (d : Reg) (a k : MaskReg) (e : Et)
  /-- MTOFIRST (R141): Sets mask bits up to and including the first set bit. -/
  | mtofirst (d a k : MaskReg) (e : Et)
  /-- MBEFORE (R141): Sets mask bits before the first set bit. -/
  | mbefore (d a k : MaskReg) (e : Et)
  /-- MFROMG (R142): Writes g[a] into 64 bits of a mask selected by g[b][3:0]. -/
  | mfromg (d : MaskReg) (a b : Reg)
  /-- MTOG (R142): Reads 64 bits of a mask, selected by g[b][3:0], into g[d]. -/
  | mtog (d : Reg) (a : MaskReg) (b : Reg)
  /-- VSLIDEUP (R143): Moves elements up by the offset in g[b]. -/
  | vslideup (d a b : Reg) (k : MaskReg) (e : Et)
  /-- VSLIDEDN (R143): Moves elements down by the offset in g[b], filling with zero. -/
  | vslidedn (d a b : Reg) (k : MaskReg) (e : Et)
  /-- VPERM (R143): Gathers elements of v[a] by the indices in v[b]. -/
  | vperm (d a b : Reg) (k : MaskReg) (e : Et)
  /-- VCOMPRESS (R144): Packs the active elements to the bottom of v[d]. -/
  | vcompress (d a : Reg) (k : MaskReg) (e : Et)
  /-- VEXPAND (R144): Spreads consecutive elements of v[a] to the active positions. -/
  | vexpand (d a : Reg) (k : MaskReg) (e : Et)
  /-- VMERGE (R146): Selects each element from v[a] or v[b] by the mask. -/
  | vmerge (d a b : Reg) (k : MaskReg) (e : Et)
  /-- VSPLAT (R147): Writes one scalar value into every active element. -/
  | vsplat (d b : Reg) (k : MaskReg) (e : Et)
  /-- VEXTR (R147): Extracts element g[b] of v[a] into a scalar register. -/
  | vextr (d a b : Reg) (e : Et)
  /-- VZIP (R143): Interleaves the elements of v[a] and v[b]. -/
  | vzip (d a b : Reg) (k : MaskReg) (e : Et)
  /-- VUNZIP (R143): Takes the even elements of the concatenation of v[a] and v[b]. -/
  | vunzip (d a b : Reg) (k : MaskReg) (e : Et)
  /-- VIOTA (R145): Writes each element the count of earlier set mask bits. -/
  | viota (d : Reg) (a k : MaskReg) (e : Et)
  /-- VBFLY (R143): Exchanges elements at the XOR distance g[b]. -/
  | vbfly (d a b : Reg) (k : MaskReg) (e : Et)
  /-- VREDSUM (R148): Sums the active elements by the fixed tree and adds the start value g[b]. -/
  | vredsum (d a b : Reg) (k : MaskReg) (e : Et)
  /-- VREDMAX (R148): Takes the signed maximum of the active elements and g[b]. -/
  | vredmax (d a b : Reg) (k : MaskReg) (e : Et)
  /-- VREDMIN (R148): Takes the signed minimum of the active elements and g[b]. -/
  | vredmin (d a b : Reg) (k : MaskReg) (e : Et)
  /-- VFREDSUM (R149): Sums floating elements by the fixed tree and adds the start f[b]. -/
  | vfredsum (d a b : Reg) (k : MaskReg) (e : Et)
  /-- VFREDMAX (R149): Takes the floating maximum of the active elements and f[b]. -/
  | vfredmax (d a b : Reg) (k : MaskReg) (e : Et)
  /-- VSCAN (R150): Forms an inclusive running sum over the active elements, starting from g[b]. -/
  | vscan (d a b : Reg) (k : MaskReg) (e : Et)
  /-- VHASH (R152): Hashes each element XOR the matching element of v[b] with MIX. -/
  | vhash (d a b : Reg) (k : MaskReg) (e : Et)
  /-- VPART (R153): Extracts the bit field that g[b] describes from each element as a partition number. -/
  | vpart (d a b : Reg) (k : MaskReg) (e : Et)
  /-- VCONFLICT (R154): Counts, for each element, the earlier active elements with an equal value. -/
  | vconflict (d a : Reg) (k : MaskReg) (e : Et)
  /-- VMATCHB (R155): Sets mask bits where a byte matches any of the eight bytes of g[b]. -/
  | vmatchb (d : MaskReg) (a b : Reg) (k : MaskReg)
  /-- VSTRLD (R157): Fills the prefix of each string stub from its text. -/
  | vstrld (d a : Reg) (k : MaskReg)
  /-- VSTRCMP (R157): Compares pairs of strings by their stubs and texts, writing the order and the first differing index. -/
  | vstrcmp (d a b : Reg) (k : MaskReg)
  /-- VSTRHASH (R157): Hashes each whole string with MIX. -/
  | vstrhash (d a : Reg) (k : MaskReg)
  /-- VRAND (R161): Draws a random value for every position and advances RNGCTR by n. -/
  | vrand (d : Reg) (k : MaskReg) (e : Et)
  /-- SETVL (R128): Sets VL to the lesser of u(g[a]) and VLMAX of the type, and returns it. -/
  | setvl (d a : Reg) (e : Et)
  /-- SETVLI (R128): Sets VL to the lesser of the immediate count and VLMAX, and returns it. -/
  | setvli (d : Reg) (u : BitVec 11) (e : Et)
  /-- VLD (R206): Loads unit-stride elements as an ordered form from ESTART. -/
  | vld (d a : Reg) (k : MaskReg) (e : Et)
  /-- VLDS (R206): Loads elements at a signed byte stride. -/
  | vlds (d a s : Reg) (k : MaskReg) (e : Et)
  /-- VLDX (R209): Gathers elements at indexed addresses under mk AND FMASK. -/
  | vldx (d a x : Reg) (k : MaskReg) (e : Et)
  /-- VLDSEG (R206): Loads segments of F fields into F consecutive registers. -/
  | vldseg (d a : Reg) (f : BitVec 3) (k : MaskReg) (e : Et)
  /-- VLDFF (R208): Loads unit-stride elements and trims VL at any fault after the first active element. -/
  | vldff (d a : Reg) (k : MaskReg) (e : Et)
  /-- VST (R206): Stores unit-stride elements as an ordered form. -/
  | vst (d a : Reg) (k : MaskReg) (e : Et)
  /-- VSTS (R206): Stores elements at a signed byte stride. -/
  | vsts (d a s : Reg) (k : MaskReg) (e : Et)
  /-- VSTX (R209): Scatters elements to indexed addresses. -/
  | vstx (d a x : Reg) (k : MaskReg) (e : Et)
  /-- VSTSEG (R206): Stores segments of F fields from F consecutive registers. -/
  | vstseg (d a : Reg) (f : BitVec 3) (k : MaskReg) (e : Et)
  /-- VPST (R382): Twin-stores each element into the plain and the transposed layout of the region's STAGING slot. -/
  | vpst (d a : Reg) (k : MaskReg) (e : Et)
  /-- TZERO (R170): Zeroes every byte of a tile. -/
  | tzero (d : TileReg)
  /-- TLD (R171): Loads 1 to 16 rows of a tile from strided memory. -/
  | tld (d : TileReg) (a b : Reg) (n : BitVec 4)
  /-- TST (R171): Stores 1 to 16 rows of a tile to strided memory. -/
  | tst (d : TileReg) (a b : Reg) (n : BitVec 4)
  /-- TMOVVT (R170): Copies all 1,024 bytes of v[a] into one tile row. -/
  | tmovvt (d : TileReg) (a b : Reg)
  /-- TMOVTV (R170): Copies one tile row into v[d]. -/
  | tmovtv (d : Reg) (a : TileReg) (b : Reg)
  /-- TOPA (R172): Accumulates the 16 x 256 BF16 outer product of two vectors into a tile as FP32. -/
  | topa (d : TileReg) (a b : Reg) (z : Bool)
  /-- TSAVE (R173): Writes the strand's dirty tiles to its save area and optionally gives up the file. -/
  | tsave (r : Bool)
  /-- TRESTORE (R173): Claims the tile file and fills every absent tile at once. -/
  | trestore
  /-- MLEASE (R177): Requests a mill lease of trays, shape, regions and budget, waiting or answering busy. -/
  | mlease (d a b : Reg) (w : Bool)
  /-- MRELEASE (R180): Queues the end of the core's lease behind earlier mill commands. -/
  | mrelease
  /-- MFMT (R182): Queues a new format context for the lease. -/
  | mfmt (a : Reg)
  /-- PLANT (R183): Queues the planting of a tray range from memory or tiles by a plant descriptor. -/
  | plant (a b : Reg) (t : Bool)
  /-- MMA (R187): Queues a block-fixed-point product of tile rows through the panel into an accumulator region. -/
  | mma (d a : TileReg) (b : Reg) (n z : Bool) (r : BitVec 4)
  /-- MMAS (R187): Queues a product of A rows read from memory through the panel into an accumulator region. -/
  | mmas (d : TileReg) (a b : Reg) (n z : Bool) (r : BitVec 4)
  /-- MZERO (R188): Queues the zeroing of an accumulator region. -/
  | mzero (d : TileReg)
  /-- MDRAIN (R189): Queues the conversion and write of accumulator rows to memory or a tile, returning a token. -/
  | mdrain (d a b : Reg) (r : BitVec 4) (c : Bool) (k : DrainKind)
  /-- MCHAIN (R190): Moves a 256-value slice of an accumulator into a vector register. -/
  | mchain (d : Reg) (a : TileReg) (b : Reg) (c : Bool)
  /-- MCOLL (R191): Hands accumulator rows as a contribution to a collective on q2. -/
  | mcoll (d a : Reg) (b : TileReg) (r : BitVec 4) (c : Bool)
  /-- MSTAT (R192): Returns the state of the core's mill queue and lease. -/
  | mstat (d : Reg)
  /-- AMOSWAP (R302): Atomically swaps a memory word with g[b] at its home. -/
  | amoswap (d a b : Reg) (s : Scope) (r q : Bool) (w : AmoWidth)
  /-- AMOADD (R302): Atomically adds g[b] to a memory word, returning the old value. -/
  | amoadd (d a b : Reg) (s : Scope) (r q : Bool) (w : AmoWidth)
  /-- AMOAND (R302): Atomically ANDs g[b] into a memory word. -/
  | amoand (d a b : Reg) (s : Scope) (r q : Bool) (w : AmoWidth)
  /-- AMOOR (R302): Atomically ORs g[b] into a memory word. -/
  | amoor (d a b : Reg) (s : Scope) (r q : Bool) (w : AmoWidth)
  /-- AMOXOR (R302): Atomically XORs g[b] into a memory word. -/
  | amoxor (d a b : Reg) (s : Scope) (r q : Bool) (w : AmoWidth)
  /-- AMOMIN (R302): Atomically writes the signed lesser of the word and g[b]. -/
  | amomin (d a b : Reg) (s : Scope) (r q : Bool) (w : AmoWidth)
  /-- AMOMAX (R302): Atomically writes the signed greater of the word and g[b]. -/
  | amomax (d a b : Reg) (s : Scope) (r q : Bool) (w : AmoWidth)
  /-- AMOCAS (R302): Atomically writes g[b] when the word equals g[d], returning the old value. -/
  | amocas (d a b : Reg) (s : Scope) (r q : Bool) (w : AmoWidth)
  /-- AMOFADD (R302): Atomically adds a floating value by RNE, returning the old value. -/
  | amofadd (d a b : Reg) (s : Scope) (r q : Bool) (w : AmoWidth)
  /-- REDADD (R303): Sends an integer add to the home of a location as a remote write returning nothing. -/
  | redadd (a b : Reg) (s : Scope) (r : Bool) (w : AmoWidth)
  /-- REDMIN (R303): Sends a signed minimum to the home of a location. -/
  | redmin (a b : Reg) (s : Scope) (r : Bool) (w : AmoWidth)
  /-- REDMAX (R303): Sends a signed maximum to the home of a location. -/
  | redmax (a b : Reg) (s : Scope) (r : Bool) (w : AmoWidth)
  /-- REDFADD (R303): Sends a floating add, rounded RNE, to the home of a location. -/
  | redfadd (a b : Reg) (s : Scope) (r : Bool) (w : AmoWidth)
  /-- REDFMAX (R303): Sends a floating maximum to the home of a location. -/
  | redfmax (a b : Reg) (s : Scope) (r : Bool) (w : AmoWidth)
  /-- VREDM (R304): Adds vector elements into memory at indexed addresses, one RED per element. -/
  | vredm (d a b : Reg) (s : Scope) (r : Bool) (t : RedType)
  /-- BINIT (R288): Sets a barrier's target and binding and clears its counts. -/
  | binit (a : Reg)
  /-- BARR (R289): Arrives c times at a barrier and returns the local phase. -/
  | barr (d a : Reg) (c : BitVec 8)
  /-- BEXP (R290): Posts expected bytes to a barrier's home, optionally arriving, and waits for the reply. -/
  | bexp (d a : Reg) (r : Bool)
  /-- BWAIT (R291): Sleeps while the barrier's local phase equals g[d][0]. -/
  | bwait (d a : Reg)
  /-- BTEST_CNT (R292): Returns the barrier's counts word, from the home for a bound barrier. -/
  | btestCnt (d a : Reg)
  /-- BTEST_FLG (R292): Returns the barrier's local flags word. -/
  | btestFlg (d a : Reg)
  /-- BDOM_RECT (R286): Defines a domain of the issuing core as a rectangle of cores. -/
  | bdomRect (a : Reg) (j : BitVec 6)
  /-- BDOM_LIST (R286): Defines a domain of the issuing core from a list in memory. -/
  | bdomList (a : Reg) (j : BitVec 6)
  /-- EVWAIT (R295): Sleeps until an event line's GEN differs from g[d][63:32]. -/
  | evwait (d a : Reg)
  /-- EVSIG (R296): Signals an event line, advancing GEN and setting or adding to DATA. -/
  | evsig (d a : Reg) (x : Bool)
  /-- EVLOCK (R297): Takes a ticket on a mutex line and sleeps until served. -/
  | evlock (d a : Reg) (t : Bool)
  /-- EVUNLOCK (R298): Releases a mutex line owned by the issuing strand. -/
  | evunlock (a : Reg)
  /-- WAITV (R299): Sleeps until up to 64 memory words meet a condition. -/
  | waitv (d a b : Reg) (k : MaskReg) (l : Bool) (c : WaitCond)
  /-- CPQ (R257): Enqueues a four-word copy or collective request, stalling while the queue is full. -/
  | cpq (d a : Reg)
  /-- CPQT (R257): Enqueues a request, or returns a busy status when the queue is full. -/
  | cpqt (d a : Reg)
  /-- QFENCE (R259): Stalls until the strand's earlier entries in the named queues have completed. -/
  | qfence (m : BitVec 4)
  /-- QSTAT_OCC (R260): Returns the occupancy and oldest sequence number of a queue. -/
  | qstatOcc (d : Reg) (q : BitVec 2)
  /-- QSTAT_FADDR (R260): Returns the failing address of the strand's latest faulted entry in a queue. -/
  | qstatFaddr (d : Reg) (q : BitVec 2)
  /-- QSTAT_FCAUSE (R260): Returns the sequence number and cause of the latest faulted entry. -/
  | qstatFcause (d : Reg) (q : BitVec 2)
  /-- GCAST (R258): Multicasts part of the scratchpad to the cores of named gang members via q0. -/
  | gcast (d a b : Reg)
  /-- FENCE (R270): Orders the strand's earlier and later accesses by its acquire, release and store-to-load kinds at a scope. -/
  | fence (s r q : Bool) (c : Scope)
  /-- FENCEI (R280): Acts as a full fence and discards the strand's fetched instruction words. -/
  | fencei (c : Scope)
  /-- SEEDPUT (R320): Enqueues a copy of a seed record in the partition's queue of its clamped priority. -/
  | seedput (d a : Reg)
  /-- SEEDYIELD (R321): Ends the running seed and enqueues its continuation. -/
  | seedyield (d a : Reg)
  /-- SEEDEND (R322): Ends the strand after its remote writes and queue entries finish, decrementing its harvest. -/
  | seedend
  /-- NESTGO (R323): Hands a copy of a nest record to the partition's walker. -/
  | nestgo (d a : Reg)
  /-- PRIO (R324): Sets PRIOCUR, clamped to CEIL, and returns the old priority. -/
  | prio (d a : Reg)
  /-- SLOTWAIT (R369): Sleeps until a tick in, or at the start of, an owned slot. -/
  | slotwait (d : Reg) (n : Bool)
  /-- TOKB (R377): Adopts the current policy version at a token boundary. -/
  | tokb (d : Reg)
  /-- VERSTAGE (R378): Opens a FREE slot of a region as STAGING for a new version. -/
  | verstage (d a b : Reg)
  /-- VERPUB (R379): Publishes every region staged at a version and makes it current. -/
  | verpub (d a : Reg)
  /-- VERQ_CUR (R381): Returns the current version and NONE. -/
  | verqCur (d : Reg)
  /-- VERQ_REG (R381): Returns the slot states of a region. -/
  | verqReg (d a : Reg)
  /-- VERQ_SLOT (R381): Returns the version and state of one slot. -/
  | verqSlot (d a : Reg)
  /-- MARK (R388): Reports a progress marker to the tier engine and raises SCHED_MISS for an unmet hard entry due by it. -/
  | mark (a : Reg) (w : Bool)
  /-- TTGO (R387): Checks, installs and activates a timetable with an initial marker. -/
  | ttgo (d a b : Reg)
  /-- TTSTAT_ST (R390): Returns the tier engine's overall state and latest marker. -/
  | ttstatSt (d : Reg)
  /-- TTSTAT_ENT (R390): Returns the marker, cause and state of one timetable entry. -/
  | ttstatEnt (d a : Reg)
  /-- TTSTAT_FADDR (R390): Returns the failing address of the least-indexed failed entry. -/
  | ttstatFaddr (d : Reg)
  /-- PIN (R233): Makes a retention register pinned over a range and grants it rim ways. -/
  | pin (d a b : Reg) (w r : BitVec 3)
  /-- UNPIN (R233): Makes a retention register inactive and releases its grant. -/
  | unpin (r : BitVec 3)
  /-- HINTEF (R233): Makes a retention register evict-first over a range. -/
  | hintef (a b : Reg) (r : BitVec 3)
  /-- PREF (R234): Prefetches a G-space range towards a tier without faulting. -/
  | pref (a b : Reg) (x : Bool) (l : PrefLevel)
  /-- CFLUSH_WB (R235): Writes dirty lines of a range to their home and keeps them clean. -/
  | cflushWb (a b : Reg)
  /-- CFLUSH_WBI (R235): Writes back dirty lines of a range and invalidates every copy. -/
  | cflushWbi (a b : Reg)
  /-- CFLUSH_INV (R235): Invalidates every copy of the lines of a range without write-back. -/
  | cflushInv (a b : Reg)
  /-- ALLOC (R237): Takes a block of the size class for g[a] bytes from the partition heap. -/
  | alloc (d a : Reg)
  /-- FREE (R237): Returns a block to its size class of the partition heap. -/
  | free (a b : Reg)
  /-- ECALL (R332): Raises ECALL_USER or ECALL_SUP after completing. -/
  | ecall
  /-- EBREAK (R333): Raises BREAK after completing, or halts for the debugger. -/
  | ebreak
  /-- ERET (R334): Returns from a supervisor or firmware handler, or ends a supervisor strand. -/
  | eret
  /-- CSRRD (R115): Reads a CSR into g[d]. -/
  | csrrd (d : Reg) (c : BitVec 12)
  /-- CSRWR (R115): Writes g[a] into the writable fields of a CSR and returns the old value. -/
  | csrwr (d a : Reg) (c : BitVec 12)
  /-- CSRSET (R115): ORs g[a] into a CSR and returns the old value. -/
  | csrset (d a : Reg) (c : BitVec 12)
  /-- CSRCLR (R115): Clears the bits of g[a] in a CSR and returns the old value. -/
  | csrclr (d a : Reg) (c : BitVec 12)
  /-- TLBINV_PAGE (R230): Removes TLB entries translating one VA in the scope. -/
  | tlbinvPage (a : Reg) (s : Scope)
  /-- TLBINV_CID (R230): Removes non-global TLB entries of one CID in the scope. -/
  | tlbinvCid (a : Reg) (s : Scope)
  /-- TLBINV_CTX (R230): Removes every non-global TLB entry in the scope. -/
  | tlbinvCtx (a : Reg) (s : Scope)
  /-- TLBINV_ALL (R230): Removes every TLB entry in the scope. -/
  | tlbinvAll (a : Reg) (s : Scope)
  /-- RDTIME (R118): Reads GTIME. -/
  | rdtime (d : Reg)
  /-- RDCYC (R118): Reads the core's cycle counter. -/
  | rdcyc (d : Reg)
  /-- USER_RETURN (R329): A user-mode CSR write that clears UCAUSE.ACTIVE returns to UEPC. -/
  | userReturn (k : Nat)
  /-- SPADWAYS_WRITE (R198): A write of SPADWAYS carves or returns slice ways, stalling until taken ways are cleaned. -/
  | spadwaysWrite (core : Nat) (value : Word)
  /-- PRIOCEIL_WRITE (R306): A write that lowers CEIL lowers PRIOCUR of every strand of the context above it. -/
  | prioceilWrite (core : Nat) (value : Word)
  /-- DIVERSION_TABLE_WRITE (R349): A write of DIVBASE or DIVCOUNT makes the core read its diversion table. -/
  | diversionTableWrite (core : Nat) (count : Bool) (value : Word)
  /-- DBGCTL_WRITE (R402): A write of DBGCTL requests a debug level, refused where the security state denies it. -/
  | dbgctlWrite (value : Word)
  /-- SPAN_SWITCH (R341): At the SWITCHAT tick the core stops the departing context, saves it to its husk and switches in NEXTCID. -/
  | spanSwitch (core : Nat)
  /-- TIMER (R357): At the SWITCHAT tick with NEXTCID.TIMER set, the core raises the TIMER interrupt and switches nothing. -/
  | timer (core : Nat)
  /-- ASYNC_EVENT_TAKE (R330): A pending asynchronous event is taken in supervisor mode by the lowest open slot, or by a new supervisor strand. -/
  | asyncEventTake (core : Nat)
  /-- ELEMENT_PROGRESS_TIMER (R212): The element-progress timer reaches PTIMERLIM and stops the outstanding vector memory instruction. -/
  | elementProgressTimer (k elem kind port : Nat)
  /-- SEED_DISPATCH (R318): An idle seed-pool slot takes the queue head or nest iteration chosen by the arbitration rule. -/
  | seedDispatch (k : Nat)
  /-- LOAD_DATA_RETURN (R93): Outstanding load or AMO data returns and writes its register, with a poison mark on an uncorrectable error. -/
  | loadDataReturn (k : Nat) (reg : Reg)
  /-- ACKNOWLEDGEMENT (R203): A remote-write message is acknowledged and the sender's USC falls by 1. -/
  | acknowledgement (i : Nat)
  /-- REMOTE_WRITE_ARRIVAL (R276): A store, RED or copy-write message reaches its home and is performed, diverted, refused or discarded. -/
  | remoteWriteArrival (i : Nat)
  /-- HELD_READ (R277): A scratchpad load reaching a home with no context of its partition is held or recorded until the merge. -/
  | heldRead (i : Nat)
  /-- AMO_ARRIVAL (R301): An AMO request is performed as one step at its home memory port. -/
  | amoArrival (i : Nat)
  /-- MESSAGE_RETRY (R351): A sender retries a message refused by a full shadow image after a delay. -/
  | messageRetry (i : Nat)
  /-- BARRIER_ARRIVAL (R287): An arrival message is applied to the barrier at its home and the fire condition is checked. -/
  | barrierArrival (i : Nat)
  /-- EXPECTATION (R290): An expectation is applied at the barrier's home and answered with the phase. -/
  | expectation (i : Nat)
  /-- BYTE_SUBTRACTION (R256): A byte subtraction from a queue entry reduces the barrier's count at its home. -/
  | byteSubtraction (i : Nat)
  /-- PHASE_MESSAGE (R287): A domain home's new PHASE reaches a member core and sets its mirror. -/
  | phaseMessage (i : Nat)
  /-- BEXP_REPLY (R290): The home's reply to a BEXP arrives and completes the instruction, or raises BAR_OVF. -/
  | bexpReply (k : Nat)
  /-- BWAIT_WAKE (R291): A change of the local phase wakes a strand asleep in BWAIT. -/
  | bwaitWake (k : Nat)
  /-- EVWAIT_WAKE (R295): A write to a watched event line wakes EVWAIT to compare again. -/
  | evwaitWake (k : Nat)
  /-- EVLOCK_WAKE (R297): A write to a mutex line wakes EVLOCK, which takes the lock when SERVE reaches its ticket. -/
  | evlockWake (k : Nat)
  /-- WAITV_WAKE (R299): A write to a monitored line wakes WAITV to compare its words again. -/
  | waitvWake (k : Nat)
  /-- SLOTWAIT_WAKE (R369): GTIME reaches the awaited slot tick and SLOTWAIT returns it. -/
  | slotwaitWake (k : Nat)
  /-- EVENT_LINE_UPDATE (R296): An EVSIG reaches the event line's unit and updates GEN and DATA as one step. -/
  | eventLineUpdate (i : Nat)
  /-- COPY_CHUNK (R254): A queue entry performs its next chunk of up to 2 KiB and, at its end or on a fault, writes its token. -/
  | copyChunk (core queue : Nat)
  /-- COLLECTIVE_PERFORM (R262): When all members have joined, the collective engine checks and performs the reduce-scatter or all-gather. -/
  | collectivePerform (cluster : Nat)
  /-- LEASE_GRANT (R178): A waiting lease request is granted when trays and memory are free and none ranks ahead. -/
  | leaseGrant (cluster : Nat)
  /-- BUDGET_EXPIRY (R179): A lease's budget is spent and it is renewed or displaced. -/
  | budgetExpiry (core : Nat)
  /-- MILL_COMMAND_PERFORM (R193): The next queued q3 command is performed under the lease. -/
  | millCommandPerform (core : Nat)
  /-- MCHAIN_LANDING (R190): The accumulator slice lands in the vector register and clears its pending mark. -/
  | mchainLanding (k : Nat) (reg : Reg)
  /-- SLOTTED_INJECTION (R367): A slotted message begins injection at a tick of an owned slot. -/
  | slottedInjection (core : Nat)
  /-- SHARE_REFILL (R364): Every 1,024 ticks each partition's token bucket at each port is refilled and idle refills pooled. -/
  | shareRefill
  /-- LOAD_MONITOR_WINDOW (R361): At the end of each 4,096-tick window a die's load monitor turns two-phase routing on or off. -/
  | loadMonitorWindow (die : Nat)
  /-- TT_ENTRY_BEGIN (R385): A pending timetable entry begins once its marker and overlap conditions hold. -/
  | ttEntryBegin (part entry : Nat)
  /-- TT_ENTRY_COMPLETE (R385): An in-flight timetable entry becomes met or failed. -/
  | ttEntryComplete (part entry : Nat)
  /-- HOST_SEED_WRITE (R313): A 64-byte host write to a seed window is checked and enqueued whole. -/
  | hostSeedWrite (port offset : Nat) (x : HostAccess)
  /-- SEM_TAKE (R394): A load at offset 0 of a semaphore cell returns the word and takes a free cell. -/
  | semTake (agent : BitVec 16) (cell : Nat)
  /-- SEM_RELEASE (R394): A store of 0 by the owner frees a semaphore cell. -/
  | semRelease (agent : BitVec 16) (cell : Nat) (value : Word)
  /-- MAILBOX_WRITE (R395): A store to a core's mailbox raises HOST or CORE_MSG there. -/
  | mailboxWrite (core : Nat) (sender : BitVec 16) (value : Word)
  /-- BARRIER_WINDOW_ARRIVE (R293): A store at offset 16 of the barrier window arrives that many times. -/
  | barrierWindowArrive (core bar : Nat) (value : Word)
  /-- BARRIER_WINDOW_EXPECT (R293): A store at offset 24 of the barrier window posts an expectation. -/
  | barrierWindowExpect (core bar : Nat) (value : Word)
  /-- EVENT_LINE_INIT (R294): An 8-byte store at offset 0 of a line replaces its word. -/
  | eventLineInit (line : Nat) (value : Word)
  /-- EVENT_LINE_SIGNAL (R294): A store at offset 8 of an event line signals it as EVSIG does. -/
  | eventLineSignal (line : Nat) (value : Word)
  /-- HOST_HDM_WRITE (R275): A host write to the HDM window becomes visible after back-invalidation of module replicas. -/
  | hostHdmWrite (port offset : Nat) (x : HostAccess)
  /-- FW_CREATE_PARTITION (R397): Firmware function 1 creates a partition from a descriptor. -/
  | fwCreatePartition (k : Nat)
  /-- FW_SET_SHARE_WEIGHT (R397): Firmware function 2 sets a partition's share weight. -/
  | fwSetShareWeight (k : Nat)
  /-- FW_DESTROY_PARTITION (R397): Firmware function 3 destroys a partition. -/
  | fwDestroyPartition (k : Nat)
  /-- FW_SET_POWER_STATE (R401): Firmware function 4 moves the module or clusters to a power state. -/
  | fwSetPowerState (k : Nat)
  /-- FW_DEBUG_GRANT (R402): Firmware function 5 verifies a signed debug grant. -/
  | fwDebugGrant (k : Nat)
  /-- FW_START_CHIPLET_CORE (R399): Firmware function 6 starts a chiplet core at an entry address. -/
  | fwStartChipletCore (k : Nat)
  /-- RESET (R398): At reset the boot ROM verifies and measures four stages, then releases the compute dies. -/
  | reset
  /-- POWER_WAKE (R401): Host traffic, a mailbox store or the wake tick returns the module from retention. -/
  | powerWake
  /-- SUPPLY_SAG (R404): A supply sag stretches a cluster's clock and counts stretched cycles. -/
  | supplySag (cluster : Nat)
  /-- TAMPER (R396): A tamper event enters firmware mode and locks the security state. -/
  | tamper (k : Nat)
  /-- DEBUG_HALT (R403): A debug halt takes a strand into firmware mode between instructions. -/
  | debugHalt (x : DebugAct)
  /-- GET_VERSION (R400): An SPDM GET_VERSION request is answered by Salhal. -/
  | getVersion (port : Nat)
  /-- GET_CAPABILITIES (R400): An SPDM GET_CAPABILITIES request is answered. -/
  | getCapabilities (port : Nat)
  /-- NEGOTIATE_ALGORITHMS (R400): An SPDM NEGOTIATE_ALGORITHMS request is answered. -/
  | negotiateAlgorithms (port : Nat)
  /-- GET_DIGESTS (R400): An SPDM GET_DIGESTS request is answered. -/
  | getDigests (port : Nat)
  /-- GET_CERTIFICATE (R400): An SPDM GET_CERTIFICATE request is answered. -/
  | getCertificate (port slot offset length : Nat)
  /-- CHALLENGE (R400): An SPDM CHALLENGE request is answered with an ML-DSA-87 signature. -/
  | challenge (port : Nat) (nonce : BitVec 256)
  /-- GET_MEASUREMENTS (R400): An SPDM GET_MEASUREMENTS request returns MEAS0-MEAS3 and SECSTAT. -/
  | getMeasurements (port : Nat) (r : MeasRequest)
  /-- KEY_EXCHANGE (R400): An SPDM KEY_EXCHANGE request opens a session. -/
  | keyExchange (port : Nat)
  /-- FINISH (R400): An SPDM FINISH request completes session set-up. -/
  | finish (port : Nat)
  /-- END_SESSION (R400): An SPDM END_SESSION request ends a session. -/
  | endSession (port : Nat)
  /-- UNASSIGNED_INSTRUCTION_WORD (R29): A fetched word whose major, or whose function or mode value within its major, is unassigned raises ILLEGAL with reason code 0 or 1. -/
  | unassignedInstructionWord (w : IWord)
  /-- LONG_LATENCY_RESULT (R92): A DIV, DIVZ, REM or REMZ result is written to g[d] 4 to 66 cycles after issue and clears its pending mark. -/
  | longLatencyResult (k : Nat) (reg : Reg)
  /-- TLBINV_COMPLETE (R230): An issued TLB invalidation is removed from every TLB in its scope and the accesses translated with the old entries have been performed or discarded. -/
  | tlbinvComplete (i : Nat)
  /-- HOST_LINK_TRAINING (R391): A host port trains, or loses and retrains, its PCIe 6.0 or CXL 3.1 link at some width and rate. -/
  | hostLinkTraining (port : Nat)
  /-- SUPPLY_SAG_END (R404): A cluster's supply sag ends and its clock stops being stretched. -/
  | supplySagEnd (cluster : Nat)
  deriving DecidableEq, Repr

end Sys2Proof
end

