-- ==== Sys2Proof/WellFormed.lean ====
section
/-!
DEFINITION. WellFormed.lean: which operand values an instruction accepts (02 R28, check 4).  A word whose fields name any
other value raises ILLEGAL with reason code 3; MDRAIN to a tile reserves field a, and raises reason code 2 (06 R189).
-/

namespace Sys2Proof

/-- The integer widths b8 to b64 (02 R38, codes 000 to 011). -/
def Et.isInt : Et → Bool
  | .b8 | .b16 | .b32 | .b64 => true
  | _ => false

/-- The floating-point types f64, f16, bf16 and f32 (02 R38, codes 011 to 110). -/
def Et.isFloat : Et → Bool
  | .b64 | .f16 | .bf16 | .f32 => true
  | _ => false

/-- The bytes of an element in a vector register (05 R124). -/
def Et.bytes : Et → Nat
  | .b8 | .nf => 1
  | .b16 | .f16 | .bf16 => 2
  | .b32 | .f32 => 4
  | .b64 => 8

/-- The bytes of an integer element of a vector conversion. -/
def IntW.bytes : IntW → Nat
  | .b8 => 1
  | .b16 => 2
  | .b32 => 4
  | .b64 => 8

/-- The CSR numbers that are assigned: the user range (04 R119), the supervisor range (13 R336) and the firmware range
(17 R396). -/
def Csr.assigned (c : Nat) : Bool :=
  [0x000, 0x001, 0x003, 0x004, 0x00C, 0x010, 0x011, 0x018].contains c || (0x008 ≤ c && c ≤ 0x00B) ||
  (0x020 ≤ c && c ≤ 0x024) || (0x040 ≤ c && c ≤ 0x04F) || (0x060 ≤ c && c ≤ 0x065) ||
  (0x100 ≤ c && c ≤ 0x107) || (0x110 ≤ c && c ≤ 0x115) || c == 0x118 || (0x120 ≤ c && c ≤ 0x122) ||
  [0x130, 0x131, 0x140, 0x141, 0x150, 0x151].contains c ||
  (0x200 ≤ c && c ≤ 0x203) || [0x210, 0x211, 0x218].contains c || (0x220 ≤ c && c ≤ 0x227)

/-- The CSRs whose every field is RO (04 R116): USC, VERADOPT, STRANDID, COREID, GANGID, PARTID, PRIOCUR, UDELEG,
TOWNER, SECSTAT, STRETCH and IDENT0 to IDENT7. -/
def Csr.readOnly (c : Nat) : Bool :=
  [0x004, 0x018, 0x065, 0x115, 0x210, 0x218].contains c || (0x020 ≤ c && c ≤ 0x024) || (0x220 ≤ c && c ≤ 0x227)

/-- The operands of `i` are values that the instruction accepts. -/
def Instr.wf : Instr → Bool
  | .vadd _ _ _ _ e => e.isInt
  | .vsub _ _ _ _ e => e.isInt
  | .vmul _ _ _ _ e => e.isInt
  | .vmulh _ _ _ _ e => e.isInt
  | .vmulhz _ _ _ _ e => e.isInt
  | .vmin _ _ _ _ e => e.isInt
  | .vmax _ _ _ _ e => e.isInt
  | .vminz _ _ _ _ e => e.isInt
  | .vmaxz _ _ _ _ e => e.isInt
  | .vand _ _ _ _ e => e.isInt
  | .vor _ _ _ _ e => e.isInt
  | .vxor _ _ _ _ e => e.isInt
  | .vshl _ _ _ _ e => e.isInt
  | .vshr _ _ _ _ e => e.isInt
  | .vsar _ _ _ _ e => e.isInt
  | .vsadd _ _ _ _ e => e.isInt
  | .vssub _ _ _ _ e => e.isInt
  | .vmacc _ _ _ _ e => e.isInt
  | .vaddScalar _ _ _ _ e => e.isInt
  | .vsubScalar _ _ _ _ e => e.isInt
  | .vmulScalar _ _ _ _ e => e.isInt
  | .vmulhScalar _ _ _ _ e => e.isInt
  | .vmulhzScalar _ _ _ _ e => e.isInt
  | .vminScalar _ _ _ _ e => e.isInt
  | .vmaxScalar _ _ _ _ e => e.isInt
  | .vminzScalar _ _ _ _ e => e.isInt
  | .vmaxzScalar _ _ _ _ e => e.isInt
  | .vandScalar _ _ _ _ e => e.isInt
  | .vorScalar _ _ _ _ e => e.isInt
  | .vxorScalar _ _ _ _ e => e.isInt
  | .vshlScalar _ _ _ _ e => e.isInt
  | .vshrScalar _ _ _ _ e => e.isInt
  | .vsarScalar _ _ _ _ e => e.isInt
  | .vsaddScalar _ _ _ _ e => e.isInt
  | .vssubScalar _ _ _ _ e => e.isInt
  | .vmaccScalar _ _ _ _ e => e.isInt
  | .vnarrow _ _ _ _ e => e.isInt && e != .b64
  | .vwiden _ _ _ _ e => e.isInt && e != .b8
  | .vfadd _ _ _ _ e => e.isFloat
  | .vfsub _ _ _ _ e => e.isFloat
  | .vfmul _ _ _ _ e => e.isFloat
  | .vfdiv _ _ _ _ e => e.isFloat
  | .vfsqrt _ _ _ e => e.isFloat
  | .vfma _ _ _ _ e => e.isFloat
  | .vfms _ _ _ _ e => e.isFloat
  | .vfnma _ _ _ _ e => e.isFloat
  | .vfmin _ _ _ _ e => e.isFloat
  | .vfmax _ _ _ _ e => e.isFloat
  | .vfrcpe _ _ _ e => e.isFloat
  | .vfrsqe _ _ _ e => e.isFloat
  | .vfscale _ _ _ _ e => e.isFloat
  | .vfsgn _ _ _ _ e => e.isFloat
  | .vfaddScalar _ _ _ _ e => e.isFloat
  | .vfsubScalar _ _ _ _ e => e.isFloat
  | .vfmulScalar _ _ _ _ e => e.isFloat
  | .vfdivScalar _ _ _ _ e => e.isFloat
  | .vfmaScalar _ _ _ _ e => e.isFloat
  | .vfmsScalar _ _ _ _ e => e.isFloat
  | .vfnmaScalar _ _ _ _ e => e.isFloat
  | .vfminScalar _ _ _ _ e => e.isFloat
  | .vfmaxScalar _ _ _ _ e => e.isFloat
  | .vfscaleScalar _ _ _ _ e => e.isFloat
  | .vfsgnScalar _ _ _ _ e => e.isFloat
  | .vfcvt d a _ src _ e => (e.isFloat || e == .nf) && (src.isFloat || src == .nf) && !(e == .nf && src == .nf) &&
      (d != a || e.bytes == src.bytes)
  | .vfcvti d a _ _ w _ e => e.isFloat && (d != a || e.bytes == w.bytes)
  | .vfcvtf d a _ _ w _ e => e.isFloat && (d != a || e.bytes == w.bytes)
  | .vfmxq _ _ _ _ _ e => e.isFloat && e != .b64
  | .vcmpeq d _ _ _ e => e.isInt && d != 0
  | .vcmpne d _ _ _ e => e.isInt && d != 0
  | .vcmplt d _ _ _ e => e.isInt && d != 0
  | .vcmple d _ _ _ e => e.isInt && d != 0
  | .vcmplo d _ _ _ e => e.isInt && d != 0
  | .vcmpls d _ _ _ e => e.isInt && d != 0
  | .vfcmpeq d _ _ _ e => e.isFloat && d != 0
  | .vfcmplt d _ _ _ e => e.isFloat && d != 0
  | .vfcmple d _ _ _ e => e.isFloat && d != 0
  | .mand d _ _ _ _ => d != 0
  | .mor d _ _ _ _ => d != 0
  | .mxor d _ _ _ _ => d != 0
  | .mandn d _ _ _ _ => d != 0
  | .mtofirst d _ _ _ => d != 0
  | .mbefore d _ _ _ => d != 0
  | .mfromg d _ _ => d != 0
  | .vextr _ _ _ e => e != .nf
  | .vredsum _ _ _ _ e => e.isInt
  | .vredmax _ _ _ _ e => e.isInt
  | .vredmin _ _ _ _ e => e.isInt
  | .vscan _ _ _ _ e => e.isInt
  | .vpart _ _ _ _ e => e.isInt
  | .vconflict _ _ _ e => e.isInt
  | .vrand _ _ e => e.isInt
  | .vfredsum _ _ _ _ e => e.isFloat
  | .vfredmax _ _ _ _ e => e.isFloat
  | .vhash _ _ _ _ e => e == .b32 || e == .b64
  | .vmatchb d _ _ _ => d != 0
  | .setvl _ _ e => e != .nf
  | .setvli _ _ e => e != .nf
  | .vldx d _ x _ _ => d != x
  | .vldseg d _ f _ _ => f != 0 && d.toNat + f.toNat ≤ 31
  | .vstseg d _ f _ _ => f != 0 && d.toNat + f.toNat ≤ 31
  | .mdrain _ a _ _ _ k => k != .tile || a == 0
  | .mcoll _ a _ _ _ => a != 0 && a.toNat % 4 == 0
  | .amoswap _ _ _ _ _ _ w => w != .pair
  | .amoadd _ _ _ _ _ _ w => w != .pair
  | .amoand _ _ _ _ _ _ w => w != .pair
  | .amoor _ _ _ _ _ _ w => w != .pair
  | .amoxor _ _ _ _ _ _ w => w != .pair
  | .amomin _ _ _ _ _ _ w => w != .pair
  | .amomax _ _ _ _ _ _ w => w != .pair
  | .amocas _ _ _ _ _ _ w => w != .pair
  | .redadd _ _ _ _ w => w != .pair
  | .redmin _ _ _ _ w => w != .pair
  | .redmax _ _ _ _ w => w != .pair
  | .redfmax _ _ _ _ w => w != .pair
  | .cpq _ a => a != 0 && a.toNat % 4 == 0
  | .cpqt _ a => a != 0 && a.toNat % 4 == 0
  | .gcast _ a _ => a != 0 && a.toNat % 2 == 0
  | .fence s r q _ => s || r || q
  | .csrrd _ c => Csr.assigned c.toNat
  | .csrwr _ _ c => Csr.assigned c.toNat && !Csr.readOnly c.toNat
  | .csrset _ a c => Csr.assigned c.toNat && (a == 0 || !Csr.readOnly c.toNat)
  | .csrclr _ a c => Csr.assigned c.toNat && (a == 0 || !Csr.readOnly c.toNat)
  | .tlbinvPage _ s => s != .strand
  | .tlbinvCid _ s => s != .strand
  | .tlbinvCtx _ s => s != .strand
  | .tlbinvAll _ s => s != .strand
  | _ => true

end Sys2Proof
end

