-- ==== Sys2Proof/Decode.lean ====
section
/-!
DEFINITION. Decode.lean: from instruction words to instructions and back (02 R26 to R43).  `decode` is total and applies
the decode checks of R28 in their order; the checks that need the strand's mode and core (reason codes 4 and 5) are made
by the meanings.  `encode` writes the word of a well-formed instruction from the same layouts.
-/

namespace Sys2Proof

/-- The upper part of a word that is split in two. -/
def BitField.upper (m n : Nat) (x : BitVec (m + n)) : BitVec m := x.extractLsb' n m

/-- The lower part of a word that is split in two. -/
def BitField.lower (m n : Nat) (x : BitVec (m + n)) : BitVec n := x.extractLsb' 0 n

/-- The word whose upper part is `x` and whose lower part is `y`. -/
def BitField.join (m n : Nat) (x : BitVec m) (y : BitVec n) : BitVec (m + n) := x ++ y

@[simp] theorem BitField.upper_join (m n : Nat) (x : BitVec m) (y : BitVec n) :
    BitField.upper m n (BitField.join m n x y) = x := by
  simp [BitField.upper, BitField.join, BitVec.extractLsb'_append_eq_left]

@[simp] theorem BitField.lower_join (m n : Nat) (x : BitVec m) (y : BitVec n) :
    BitField.lower m n (BitField.join m n x y) = y := by
  simp [BitField.lower, BitField.join, BitVec.extractLsb'_append_eq_right]

/-- A one-bit field as a truth value. -/
def bit (x : BitVec 1) : Bool := x == 1#1

@[simp] theorem bit_ofBool (b : Bool) : bit (BitVec.ofBool b) = b := by
  cases b <;> rfl

/-- The checks of 02 R28 that decoding makes: `major` and `function` are reason codes 0 and 1, `reserved` is 2 and
`operand` is 3. -/
inductive DecodeError where
  | major | function | reserved | operand
  deriving DecidableEq, Repr

/-- The reason code of a failed check (02 R28). -/
def DecodeError.reason : DecodeError → Nat
  | .major => 0
  | .function => 1
  | .reserved => 2
  | .operand => 3

/-- Check 3 of 02 R28: the reserved fields are zero. -/
def zeroed (c : Bool) (x : Except DecodeError Instr) : Except DecodeError Instr :=
  if c then x else .error .reserved

/-- Check 4 of 02 R28 on a condition. -/
def accept (c : Bool) (x : Except DecodeError Instr) : Except DecodeError Instr :=
  if c then x else .error .operand

/-- Check 4 of 02 R28 on a code that may have no value. -/
def field {α : Type} (o : Option α) (k : α → Except DecodeError Instr) : Except DecodeError Instr :=
  match o with
  | some x => k x
  | none => .error .operand

/-- The fields of the RR layout of the ALU and FPU majors: fn as 3, 2 and 6 bits (02 R30, R43). -/
structure Rr326 where
  d : BitVec 5
  a : BitVec 5
  b : BitVec 5
  x : BitVec 3
  y : BitVec 2
  z : BitVec 6
  deriving DecidableEq, Repr

/-- The fields as the 26 bits below the major. -/
def Rr326.pack (x : Rr326) : BitVec 26 :=
  BitField.join 5 21 x.d (BitField.join 5 16 x.a (BitField.join 5 11 x.b (BitField.join 3 8 x.x (BitField.join 2 6 x.y x.z))))

/-- The fields of 26 bits. -/
def Rr326.unpack (r : BitVec 26) : Rr326 :=
  let r1 := BitField.lower 5 21 r
  let r2 := BitField.lower 5 16 r1
  let r3 := BitField.lower 5 11 r2
  let r4 := BitField.lower 3 8 r3
  let r5 := BitField.lower 2 6 r4
  { d := BitField.upper 5 21 r, a := BitField.upper 5 16 r1, b := BitField.upper 5 11 r2, x := BitField.upper 3 8 r3, y := BitField.upper 2 6 r4, z := r5 }

@[simp] theorem Rr326.unpack_pack (x : Rr326) : Rr326.unpack (Rr326.pack x) = x := by
  simp [Rr326.unpack, Rr326.pack]

/-- The fields of the RR layout of the AMO and RED majors: scope, release, acquire, width and function (02 R43). -/
structure RrAmo where
  d : BitVec 5
  a : BitVec 5
  b : BitVec 5
  s : BitVec 3
  r : BitVec 1
  q : BitVec 1
  w : BitVec 2
  f : BitVec 4
  deriving DecidableEq, Repr

/-- The fields as the 26 bits below the major. -/
def RrAmo.pack (x : RrAmo) : BitVec 26 :=
  BitField.join 5 21 x.d (BitField.join 5 16 x.a (BitField.join 5 11 x.b (BitField.join 3 8 x.s (BitField.join 1 7 x.r (BitField.join 1 6 x.q (BitField.join 2 4 x.w x.f))))))

/-- The fields of 26 bits. -/
def RrAmo.unpack (r : BitVec 26) : RrAmo :=
  let r1 := BitField.lower 5 21 r
  let r2 := BitField.lower 5 16 r1
  let r3 := BitField.lower 5 11 r2
  let r4 := BitField.lower 3 8 r3
  let r5 := BitField.lower 1 7 r4
  let r6 := BitField.lower 1 6 r5
  let r7 := BitField.lower 2 4 r6
  { d := BitField.upper 5 21 r, a := BitField.upper 5 16 r1, b := BitField.upper 5 11 r2, s := BitField.upper 3 8 r3, r := BitField.upper 1 7 r4, q := BitField.upper 1 6 r5, w := BitField.upper 2 4 r6, f := r7 }

@[simp] theorem RrAmo.unpack_pack (x : RrAmo) : RrAmo.unpack (RrAmo.pack x) = x := by
  simp [RrAmo.unpack, RrAmo.pack]

/-- The fields of the RR and TM layouts whose selector is four bits wide: seven bits of modifiers and the function (02 R30, R35). -/
structure Rr74 where
  d : BitVec 5
  a : BitVec 5
  b : BitVec 5
  m : BitVec 7
  f : BitVec 4
  deriving DecidableEq, Repr

/-- The fields as the 26 bits below the major. -/
def Rr74.pack (x : Rr74) : BitVec 26 :=
  BitField.join 5 21 x.d (BitField.join 5 16 x.a (BitField.join 5 11 x.b (BitField.join 7 4 x.m x.f)))

/-- The fields of 26 bits. -/
def Rr74.unpack (r : BitVec 26) : Rr74 :=
  let r1 := BitField.lower 5 21 r
  let r2 := BitField.lower 5 16 r1
  let r3 := BitField.lower 5 11 r2
  let r4 := BitField.lower 7 4 r3
  { d := BitField.upper 5 21 r, a := BitField.upper 5 16 r1, b := BitField.upper 5 11 r2, m := BitField.upper 7 4 r3, f := r4 }

@[simp] theorem Rr74.unpack_pack (x : Rr74) : Rr74.unpack (Rr74.pack x) = x := by
  simp [Rr74.unpack, Rr74.pack]

/-- The fields of the RI layout, and the BR layout with a and b in the first two fields (02 R31, R32). -/
structure Ri where
  d : BitVec 5
  a : BitVec 5
  i : BitVec 16
  deriving DecidableEq, Repr

/-- The fields as the 26 bits below the major. -/
def Ri.pack (x : Ri) : BitVec 26 :=
  BitField.join 5 21 x.d (BitField.join 5 16 x.a x.i)

/-- The fields of 26 bits. -/
def Ri.unpack (r : BitVec 26) : Ri :=
  let r1 := BitField.lower 5 21 r
  let r2 := BitField.lower 5 16 r1
  { d := BitField.upper 5 21 r, a := BitField.upper 5 16 r1, i := r2 }

@[simp] theorem Ri.unpack_pack (x : Ri) : Ri.unpack (Ri.pack x) = x := by
  simp [Ri.unpack, Ri.pack]

/-- The fields of the RI layout of the shift immediates (02 R43). -/
structure Sh where
  d : BitVec 5
  a : BitVec 5
  x : BitVec 8
  y : BitVec 2
  z : BitVec 6
  deriving DecidableEq, Repr

/-- The fields as the 26 bits below the major. -/
def Sh.pack (x : Sh) : BitVec 26 :=
  BitField.join 5 21 x.d (BitField.join 5 16 x.a (BitField.join 8 8 x.x (BitField.join 2 6 x.y x.z)))

/-- The fields of 26 bits. -/
def Sh.unpack (r : BitVec 26) : Sh :=
  let r1 := BitField.lower 5 21 r
  let r2 := BitField.lower 5 16 r1
  let r3 := BitField.lower 8 8 r2
  let r4 := BitField.lower 2 6 r3
  { d := BitField.upper 5 21 r, a := BitField.upper 5 16 r1, x := BitField.upper 8 8 r2, y := BitField.upper 2 6 r3, z := r4 }

@[simp] theorem Sh.unpack_pack (x : Sh) : Sh.unpack (Sh.pack x) = x := by
  simp [Sh.unpack, Sh.pack]

/-- The fields of the RI layout of LADDR (07 R202). -/
structure La where
  d : BitVec 5
  a : BitVec 5
  n : BitVec 1
  u : BitVec 5
  t : BitVec 2
  y : BitVec 4
  x : BitVec 4
  deriving DecidableEq, Repr

/-- The fields as the 26 bits below the major. -/
def La.pack (x : La) : BitVec 26 :=
  BitField.join 5 21 x.d (BitField.join 5 16 x.a (BitField.join 1 15 x.n (BitField.join 5 10 x.u (BitField.join 2 8 x.t (BitField.join 4 4 x.y x.x)))))

/-- The fields of 26 bits. -/
def La.unpack (r : BitVec 26) : La :=
  let r1 := BitField.lower 5 21 r
  let r2 := BitField.lower 5 16 r1
  let r3 := BitField.lower 1 15 r2
  let r4 := BitField.lower 5 10 r3
  let r5 := BitField.lower 2 8 r4
  let r6 := BitField.lower 4 4 r5
  { d := BitField.upper 5 21 r, a := BitField.upper 5 16 r1, n := BitField.upper 1 15 r2, u := BitField.upper 5 10 r3, t := BitField.upper 2 8 r4, y := BitField.upper 4 4 r5, x := r6 }

@[simp] theorem La.unpack_pack (x : La) : La.unpack (La.pack x) = x := by
  simp [La.unpack, La.pack]

/-- The fields of the BR layout of the mask branches (02 R32). -/
structure Bm where
  s : BitVec 5
  z : BitVec 2
  m : BitVec 3
  o : BitVec 16
  deriving DecidableEq, Repr

/-- The fields as the 26 bits below the major. -/
def Bm.pack (x : Bm) : BitVec 26 :=
  BitField.join 5 21 x.s (BitField.join 2 19 x.z (BitField.join 3 16 x.m x.o))

/-- The fields of 26 bits. -/
def Bm.unpack (r : BitVec 26) : Bm :=
  let r1 := BitField.lower 5 21 r
  let r2 := BitField.lower 2 19 r1
  let r3 := BitField.lower 3 16 r2
  { s := BitField.upper 5 21 r, z := BitField.upper 2 19 r1, m := BitField.upper 3 16 r2, o := r3 }

@[simp] theorem Bm.unpack_pack (x : Bm) : Bm.unpack (Bm.pack x) = x := by
  simp [Bm.unpack, Bm.pack]

/-- The fields of the J layout (02 R32). -/
structure J where
  d : BitVec 5
  o : BitVec 21
  deriving DecidableEq, Repr

/-- The fields as the 26 bits below the major. -/
def J.pack (x : J) : BitVec 26 :=
  BitField.join 5 21 x.d x.o

/-- The fields of 26 bits. -/
def J.unpack (r : BitVec 26) : J :=
  let r1 := BitField.lower 5 21 r
  { d := BitField.upper 5 21 r, o := r1 }

@[simp] theorem J.unpack_pack (x : J) : J.unpack (J.pack x) = x := by
  simp [J.unpack, J.pack]

/-- The fields of the VV and VM layouts (02 R33, R34). -/
structure Vv where
  d : BitVec 5
  a : BitVec 5
  b : BitVec 5
  k : BitVec 3
  e : BitVec 3
  f : BitVec 5
  deriving DecidableEq, Repr

/-- The fields as the 26 bits below the major. -/
def Vv.pack (x : Vv) : BitVec 26 :=
  BitField.join 5 21 x.d (BitField.join 5 16 x.a (BitField.join 5 11 x.b (BitField.join 3 8 x.k (BitField.join 3 5 x.e x.f))))

/-- The fields of 26 bits. -/
def Vv.unpack (r : BitVec 26) : Vv :=
  let r1 := BitField.lower 5 21 r
  let r2 := BitField.lower 5 16 r1
  let r3 := BitField.lower 5 11 r2
  let r4 := BitField.lower 3 8 r3
  let r5 := BitField.lower 3 5 r4
  { d := BitField.upper 5 21 r, a := BitField.upper 5 16 r1, b := BitField.upper 5 11 r2, k := BitField.upper 3 8 r3, e := BitField.upper 3 5 r4, f := r5 }

@[simp] theorem Vv.unpack_pack (x : Vv) : Vv.unpack (Vv.pack x) = x := by
  simp [Vv.unpack, Vv.pack]

/-- The fields of the SY layout (02 R36). -/
structure Sy where
  d : BitVec 5
  a : BitVec 5
  x : BitVec 12
  f : BitVec 4
  deriving DecidableEq, Repr

/-- The fields as the 26 bits below the major. -/
def Sy.pack (x : Sy) : BitVec 26 :=
  BitField.join 5 21 x.d (BitField.join 5 16 x.a (BitField.join 12 4 x.x x.f))

/-- The fields of 26 bits. -/
def Sy.unpack (r : BitVec 26) : Sy :=
  let r1 := BitField.lower 5 21 r
  let r2 := BitField.lower 5 16 r1
  let r3 := BitField.lower 12 4 r2
  { d := BitField.upper 5 21 r, a := BitField.upper 5 16 r1, x := BitField.upper 12 4 r2, f := r3 }

@[simp] theorem Sy.unpack_pack (x : Sy) : Sy.unpack (Sy.pack x) = x := by
  simp [Sy.unpack, Sy.pack]

/-- The fields of the VC layout (02 R37). -/
structure Vc where
  d : BitVec 5
  a : BitVec 5
  u : BitVec 11
  e : BitVec 3
  z : BitVec 1
  f : BitVec 1
  deriving DecidableEq, Repr

/-- The fields as the 26 bits below the major. -/
def Vc.pack (x : Vc) : BitVec 26 :=
  BitField.join 5 21 x.d (BitField.join 5 16 x.a (BitField.join 11 5 x.u (BitField.join 3 2 x.e (BitField.join 1 1 x.z x.f))))

/-- The fields of 26 bits. -/
def Vc.unpack (r : BitVec 26) : Vc :=
  let r1 := BitField.lower 5 21 r
  let r2 := BitField.lower 5 16 r1
  let r3 := BitField.lower 11 5 r2
  let r4 := BitField.lower 3 2 r3
  let r5 := BitField.lower 1 1 r4
  { d := BitField.upper 5 21 r, a := BitField.upper 5 16 r1, u := BitField.upper 11 5 r2, e := BitField.upper 3 2 r3, z := BitField.upper 1 1 r4, f := r5 }

@[simp] theorem Vc.unpack_pack (x : Vc) : Vc.unpack (Vc.pack x) = x := by
  simp [Vc.unpack, Vc.pack]

/-- The element type codes (02 R38). -/
def Et.code : Et → BitVec 3
  | .b8 => 0
  | .b16 => 1
  | .b32 => 2
  | .b64 => 3
  | .f16 => 4
  | .bf16 => 5
  | .f32 => 6
  | .nf => 7

/-- The value of a code. -/
def Et.ofCode (x : BitVec 3) : Et :=
  match x.toNat with
  | 0 => .b8
  | 1 => .b16
  | 2 => .b32
  | 3 => .b64
  | 4 => .f16
  | 5 => .bf16
  | 6 => .f32
  | _ => .nf

@[simp] theorem Et.ofCode_code (x : Et) : Et.ofCode x.code = x := by
  cases x <;> rfl

/-- The width codes of SEXT and ZEXT (04 R95). -/
def Width.code : Width → BitVec 5
  | .w8 => 0
  | .w16 => 1
  | .w32 => 2

/-- The value of a code, where the code has one. -/
def Width.ofCode (x : BitVec 5) : Option Width :=
  match x.toNat with
  | 0 => some .w8
  | 1 => some .w16
  | 2 => some .w32
  | _ => none

@[simp] theorem Width.ofCode_code (x : Width) : Width.ofCode x.code = some x := by
  cases x <;> rfl

/-- The precision codes (02 R43). -/
def Prec.code : Prec → BitVec 2
  | .f32 => 0
  | .f64 => 1

/-- The value of a code, where the code has one. -/
def Prec.ofCode (x : BitVec 2) : Option Prec :=
  match x.toNat with
  | 0 => some .f32
  | 1 => some .f64
  | _ => none

@[simp] theorem Prec.ofCode_code (x : Prec) : Prec.ofCode x.code = some x := by
  cases x <;> rfl

/-- The rounding codes of the FPU forms (02 R40, R43). -/
def Rnd.code : Rnd → BitVec 3
  | .dyn => 0
  | .rne => 1
  | .rtz => 2
  | .rdn => 3
  | .rup => 4

/-- The value of a code, where the code has one. -/
def Rnd.ofCode (x : BitVec 3) : Option Rnd :=
  match x.toNat with
  | 0 => some .dyn
  | 1 => some .rne
  | 2 => some .rtz
  | 3 => some .rdn
  | 4 => some .rup
  | _ => none

@[simp] theorem Rnd.ofCode_code (x : Rnd) : Rnd.ofCode x.code = some x := by
  cases x <;> rfl

/-- The rounding codes of the vector conversions (03 R79). -/
def VRnd.code : VRnd → BitVec 2
  | .dyn => 0
  | .rne => 1
  | .rtz => 2
  | .rsr => 3

/-- The value of a code. -/
def VRnd.ofCode (x : BitVec 2) : VRnd :=
  match x.toNat with
  | 0 => .dyn
  | 1 => .rne
  | 2 => .rtz
  | _ => .rsr

@[simp] theorem VRnd.ofCode_code (x : VRnd) : VRnd.ofCode x.code = x := by
  cases x <;> rfl

/-- The sign modes of FSGN (02 R43). -/
def SgnMode.code : SgnMode → BitVec 3
  | .copy => 0
  | .inverse => 1
  | .xor => 2

/-- The value of a code, where the code has one. -/
def SgnMode.ofCode (x : BitVec 3) : Option SgnMode :=
  match x.toNat with
  | 0 => some .copy
  | 1 => some .inverse
  | 2 => some .xor
  | _ => none

@[simp] theorem SgnMode.ofCode_code (x : SgnMode) : SgnMode.ofCode x.code = some x := by
  cases x <;> rfl

/-- The integer widths of the vector conversions (03 R79). -/
def IntW.code : IntW → BitVec 2
  | .b8 => 0
  | .b16 => 1
  | .b32 => 2
  | .b64 => 3

/-- The value of a code. -/
def IntW.ofCode (x : BitVec 2) : IntW :=
  match x.toNat with
  | 0 => .b8
  | 1 => .b16
  | 2 => .b32
  | _ => .b64

@[simp] theorem IntW.ofCode_code (x : IntW) : IntW.ofCode x.code = x := by
  cases x <;> rfl

/-- The scope codes (02 R41). -/
def Scope.code : Scope → BitVec 3
  | .strand => 0
  | .core => 1
  | .cluster => 2
  | .die => 3
  | .module => 4
  | .system => 5

/-- The value of a code, where the code has one. -/
def Scope.ofCode (x : BitVec 3) : Option Scope :=
  match x.toNat with
  | 0 => some .strand
  | 1 => some .core
  | 2 => some .cluster
  | 3 => some .die
  | 4 => some .module
  | 5 => some .system
  | _ => none

@[simp] theorem Scope.ofCode_code (x : Scope) : Scope.ofCode x.code = some x := by
  cases x <;> rfl

/-- The width codes of the AMO and RED forms (02 R43). -/
def AmoWidth.code : AmoWidth → BitVec 2
  | .w32 => 0
  | .w64 => 1
  | .pair => 2

/-- The value of a code, where the code has one. -/
def AmoWidth.ofCode (x : BitVec 2) : Option AmoWidth :=
  match x.toNat with
  | 0 => some .w32
  | 1 => some .w64
  | 2 => some .pair
  | _ => none

@[simp] theorem AmoWidth.ofCode_code (x : AmoWidth) : AmoWidth.ofCode x.code = some x := by
  cases x <;> rfl

/-- The type codes of VREDM (11 R304). -/
def RedType.code : RedType → BitVec 2
  | .b32 => 0
  | .b64 => 1
  | .f32 => 2
  | .f64 => 3

/-- The value of a code. -/
def RedType.ofCode (x : BitVec 2) : RedType :=
  match x.toNat with
  | 0 => .b32
  | 1 => .b64
  | 2 => .f32
  | _ => .f64

@[simp] theorem RedType.ofCode_code (x : RedType) : RedType.ofCode x.code = x := by
  cases x <;> rfl

/-- The kinds of MDRAIN (06 R189). -/
def DrainKind.code : DrainKind → BitVec 2
  | .address => 0
  | .tile => 1

/-- The value of a code, where the code has one. -/
def DrainKind.ofCode (x : BitVec 2) : Option DrainKind :=
  match x.toNat with
  | 0 => some .address
  | 1 => some .tile
  | _ => none

@[simp] theorem DrainKind.ofCode_code (x : DrainKind) : DrainKind.ofCode x.code = some x := by
  cases x <;> rfl

/-- The conditions of WAITV (11 R299). -/
def WaitCond.code : WaitCond → BitVec 3
  | .eq => 0
  | .ne => 1
  | .geu => 2
  | .ges => 3

/-- The value of a code, where the code has one. -/
def WaitCond.ofCode (x : BitVec 3) : Option WaitCond :=
  match x.toNat with
  | 0 => some .eq
  | 1 => some .ne
  | 2 => some .geu
  | 3 => some .ges
  | _ => none

@[simp] theorem WaitCond.ofCode_code (x : WaitCond) : WaitCond.ofCode x.code = some x := by
  cases x <;> rfl

/-- The levels of PREF (08 R234). -/
def PrefLevel.code : PrefLevel → BitVec 2
  | .l1 => 0
  | .near => 1
  | .rim => 2

/-- The value of a code, where the code has one. -/
def PrefLevel.ofCode (x : BitVec 2) : Option PrefLevel :=
  match x.toNat with
  | 0 => some .l1
  | 1 => some .near
  | 2 => some .rim
  | _ => none

@[simp] theorem PrefLevel.ofCode_code (x : PrefLevel) : PrefLevel.ofCode x.code = some x := by
  cases x <;> rfl

/-- The destination codes of FCVT (03 R79). -/
def FType.code : FType → BitVec 3
  | .f64 => 3
  | .f16 => 4
  | .bf16 => 5
  | .f32 => 6

/-- The type of an FCVT destination code, where the code has one. -/
def FType.ofCode (x : BitVec 3) : Option FType :=
  match x.toNat with
  | 3 => some .f64
  | 4 => some .f16
  | 5 => some .bf16
  | 6 => some .f32
  | _ => none

@[simp] theorem FType.ofCode_code (x : FType) : FType.ofCode x.code = some x := by
  cases x <;> rfl

/-- Bits b[4:3] of an FCVT word for its source type (03 R79). -/
def FType.sourceHigh : FType → BitVec 2
  | .f32 | .f64 => 0
  | .f16 => 1
  | .bf16 => 2

/-- Bits fn[7:6] of an FCVT word for its source type (03 R79). -/
def FType.sourcePrec : FType → BitVec 2
  | .f64 => 1
  | _ => 0

/-- The source type that b[4:3] and fn[7:6] of an FCVT word give (03 R79). -/
def FType.ofSource (high prec : BitVec 2) : Option FType :=
  match high.toNat, prec.toNat with
  | 0, 0 => some .f32
  | 0, 1 => some .f64
  | 1, _ => some .f16
  | 2, _ => some .bf16
  | _, _ => none

@[simp] theorem FType.ofSource_code (x : FType) : FType.ofSource x.sourceHigh x.sourcePrec = some x := by
  cases x <;> rfl

@[simp] theorem FType.source_reserved (x : FType) : (x.sourceHigh == 0 || x.sourcePrec == 0) = true := by
  cases x <;> rfl

/-- Check 2 of 02 R28: the function value is within its major's list (02 R42); under majors 0x37 and 0x38 its form also
reads b (02 R43, 05 R131). -/
def functionAssigned (major : Nat) (r : BitVec 26) : Bool :=
  match major with
  | 0x01 => decide ((Rr326.unpack r).z.toNat < 29)
  | 0x07 => decide ((Sh.unpack r).y.toNat < 3)
  | 0x0b => decide ((Bm.unpack r).s.toNat < 3)
  | 0x23 => decide ((Rr326.unpack r).z.toNat < 18)
  | 0x24 => decide ((Vv.unpack r).f.toNat < 21)
  | 0x25 => decide ((Vv.unpack r).f.toNat < 18)
  | 0x26 => decide ((Vv.unpack r).f.toNat < 19)
  | 0x27 => decide ((Vv.unpack r).f.toNat < 18)
  | 0x28 => decide ((Vv.unpack r).f.toNat < 5)
  | 0x29 => decide ((Vv.unpack r).f.toNat < 5)
  | 0x2a => decide ((Rr74.unpack r).f.toNat < 8)
  | 0x2b => decide ((Rr74.unpack r).f.toNat < 11)
  | 0x2c => decide ((RrAmo.unpack r).f.toNat < 9)
  | 0x2d => decide ((RrAmo.unpack r).f.toNat < 6)
  | 0x2e => decide ((Sy.unpack r).f.toNat < 11)
  | 0x2f => decide ((Rr74.unpack r).f.toNat < 5)
  | 0x30 => decide ((Sy.unpack r).f.toNat < 2)
  | 0x31 => decide ((Rr74.unpack r).f.toNat < 6)
  | 0x32 => decide ((Rr74.unpack r).f.toNat < 7)
  | 0x33 => decide ((Rr74.unpack r).f.toNat < 7)
  | 0x34 => decide ((Sy.unpack r).f.toNat < 10)
  | 0x35 => decide ((Vv.unpack r).f.toNat < 8)
  | 0x37 => decide ((Vv.unpack r).f.toNat < 19)
  | 0x38 =>
    let fn := (Vv.unpack r).f.toNat
    decide (fn < 10) && fn != 4 || fn == 15 || fn == 17
  | _ => true

/-- Checks 1 and 2 of 02 R28: reason code 0 where the major is unassigned, 1 where the function is. -/
def unassignedReason (w : IWord) : Option Nat :=
  let major := (BitField.upper 6 26 w).toNat
  if major == 0 || decide (0x39 ≤ major) then some 0
  else if functionAssigned major (BitField.lower 6 26 w) then none
  else some 1

noncomputable section

/-- Major 0x0a (07 R202). -/
def parseLaddr (f : La) : Except DecodeError Instr :=
  if f.n == 0#1 then
    zeroed (f.u == 0) (.ok (.laddr f.d f.a f.t f.y f.x))
  else zeroed (f.u == 0 && f.t == 0) (.ok (.laddrNear f.d f.a f.y f.x))

/-- Major 0x01 (02 R42, R43). -/
def parseAlu (f : Rr326) : Except DecodeError Instr :=
  match f.z.toNat with
  | 0 => zeroed (f.x == 0 && f.y == 0) (.ok (.add f.d f.a f.b))
  | 1 => zeroed (f.x == 0 && f.y == 0) (.ok (.sub f.d f.a f.b))
  | 2 => zeroed (f.x == 0 && f.y == 0) (.ok (.and f.d f.a f.b))
  | 3 => zeroed (f.x == 0 && f.y == 0) (.ok (.or f.d f.a f.b))
  | 4 => zeroed (f.x == 0 && f.y == 0) (.ok (.xor f.d f.a f.b))
  | 5 => zeroed (f.x == 0 && f.y == 0) (.ok (.shl f.d f.a f.b))
  | 6 => zeroed (f.x == 0 && f.y == 0) (.ok (.shr f.d f.a f.b))
  | 7 => zeroed (f.x == 0 && f.y == 0) (.ok (.sar f.d f.a f.b))
  | 8 => zeroed (f.x == 0 && f.y == 0) (.ok (.mul f.d f.a f.b))
  | 9 => zeroed (f.x == 0 && f.y == 0) (.ok (.mulh f.d f.a f.b))
  | 10 => zeroed (f.x == 0 && f.y == 0) (.ok (.mulhz f.d f.a f.b))
  | 11 => zeroed (f.x == 0 && f.y == 0) (.ok (.div f.d f.a f.b))
  | 12 => zeroed (f.x == 0 && f.y == 0) (.ok (.divz f.d f.a f.b))
  | 13 => zeroed (f.x == 0 && f.y == 0) (.ok (.rem f.d f.a f.b))
  | 14 => zeroed (f.x == 0 && f.y == 0) (.ok (.remz f.d f.a f.b))
  | 15 => zeroed (f.x == 0 && f.y == 0) (.ok (.min f.d f.a f.b))
  | 16 => zeroed (f.x == 0 && f.y == 0) (.ok (.max f.d f.a f.b))
  | 17 => zeroed (f.x == 0 && f.y == 0) (.ok (.slt f.d f.a f.b))
  | 18 => zeroed (f.x == 0 && f.y == 0) (.ok (.sltz f.d f.a f.b))
  | 19 => zeroed (f.x == 0 && f.y == 0 && f.b == 0) (.ok (.clz f.d f.a))
  | 20 => zeroed (f.x == 0 && f.y == 0 && f.b == 0) (.ok (.ctz f.d f.a))
  | 21 => zeroed (f.x == 0 && f.y == 0 && f.b == 0) (.ok (.popc f.d f.a))
  | 22 => zeroed (f.x == 0 && f.y == 0) (field (Width.ofCode f.b) fun n => .ok (.sext f.d f.a n))
  | 23 => zeroed (f.x == 0 && f.y == 0) (field (Width.ofCode f.b) fun n => .ok (.zext f.d f.a n))
  | 24 => zeroed (f.x == 0 && f.y == 0) (.ok (.csel f.d f.a f.b))
  | 25 => zeroed (f.x == 0 && f.y == 0) (.ok (.bfx f.d f.a f.b))
  | 26 => zeroed (f.x == 0 && f.y == 0) (.ok (.bfi f.d f.a f.b))
  | 27 => zeroed (f.y == 0) (.ok (.lea f.d f.a f.b f.x))
  | 28 => zeroed (f.x == 0 && f.y == 0) (.ok (.addw f.d f.a f.b))
  | _ => .error .function

/-- Major 0x07 (02 R42, R43). -/
def parseShift (f : Sh) : Except DecodeError Instr :=
  match f.y.toNat with
  | 0 => zeroed (f.x == 0) (.ok (.shli f.d f.a f.z))
  | 1 => zeroed (f.x == 0) (.ok (.shri f.d f.a f.z))
  | 2 => zeroed (f.x == 0) (.ok (.sari f.d f.a f.z))
  | _ => .error .function

/-- Major 0x0b (02 R42, R43). -/
def parseBmask (f : Bm) : Except DecodeError Instr :=
  match f.s.toNat with
  | 0 => zeroed (f.z == 0) (.ok (.bmany f.m f.o))
  | 1 => zeroed (f.z == 0) (.ok (.bmall f.m f.o))
  | 2 => zeroed (f.z == 0) (.ok (.bmnone f.m f.o))
  | _ => .error .function

/-- Major 0x23 (02 R42, R43). -/
def parseFpu (f : Rr326) : Except DecodeError Instr :=
  match f.z.toNat with
  | 0 => field (Prec.ofCode f.y) fun p => field (Rnd.ofCode f.x) fun r => .ok (.fadd f.d f.a f.b r p)
  | 1 => field (Prec.ofCode f.y) fun p => field (Rnd.ofCode f.x) fun r => .ok (.fsub f.d f.a f.b r p)
  | 2 => field (Prec.ofCode f.y) fun p => field (Rnd.ofCode f.x) fun r => .ok (.fmul f.d f.a f.b r p)
  | 3 => field (Prec.ofCode f.y) fun p => field (Rnd.ofCode f.x) fun r => .ok (.fdiv f.d f.a f.b r p)
  | 4 => zeroed (f.b == 0) (field (Prec.ofCode f.y) fun p => field (Rnd.ofCode f.x) fun r => .ok (.fsqrt f.d f.a r p))
  | 5 => field (Prec.ofCode f.y) fun p => field (Rnd.ofCode f.x) fun r => .ok (.fma f.d f.a f.b r p)
  | 6 => zeroed (f.x == 0) (field (Prec.ofCode f.y) fun p => .ok (.fmin f.d f.a f.b p))
  | 7 => zeroed (f.x == 0) (field (Prec.ofCode f.y) fun p => .ok (.fmax f.d f.a f.b p))
  | 8 => zeroed (f.x == 0) (field (Prec.ofCode f.y) fun p => .ok (.feq f.d f.a f.b p))
  | 9 => zeroed (f.x == 0) (field (Prec.ofCode f.y) fun p => .ok (.flt f.d f.a f.b p))
  | 10 => zeroed (f.x == 0) (field (Prec.ofCode f.y) fun p => .ok (.fle f.d f.a f.b p))
  | 11 => field (Prec.ofCode f.y) fun p => field (SgnMode.ofCode f.x) fun s => .ok (.fsgn f.d f.a f.b s p)
  | 12 => zeroed (f.x == 0 && f.b == 0) (field (Prec.ofCode f.y) fun p => .ok (.fclass f.d f.a p))
  | 13 => zeroed (BitField.upper 2 3 f.b == 0 || f.y == 0) (field (FType.ofSource (BitField.upper 2 3 f.b) f.y) fun src =>
      field (FType.ofCode (BitField.lower 2 3 f.b)) fun dst => field (Rnd.ofCode f.x) fun r => .ok (.fcvt f.d f.a dst src r))
  | 14 => zeroed (BitField.upper 3 2 f.b == 0) (field (Prec.ofCode f.y) fun p => field (Rnd.ofCode f.x) fun r =>
      .ok (.fcvti f.d f.a (bit (BitField.upper 1 1 (BitField.lower 3 2 f.b))) (bit (BitField.lower 1 1 (BitField.lower 3 2 f.b))) r p))
  | 15 => zeroed (BitField.upper 3 2 f.b == 0) (field (Prec.ofCode f.y) fun p => field (Rnd.ofCode f.x) fun r =>
      .ok (.fcvtf f.d f.a (bit (BitField.upper 1 1 (BitField.lower 3 2 f.b))) (bit (BitField.lower 1 1 (BitField.lower 3 2 f.b))) r p))
  | 16 => zeroed (f.x == 0 && f.b == 0) (field (Prec.ofCode f.y) fun p => .ok (.fmvgf f.d f.a p))
  | 17 => zeroed (f.x == 0 && f.b == 0) (field (Prec.ofCode f.y) fun p => .ok (.fmvfg f.d f.a p))
  | _ => .error .function

/-- Major 0x24 (02 R42, R43). -/
def parseVint (f : Vv) : Except DecodeError Instr :=
  match f.f.toNat with
  | 0 => .ok (.vadd f.d f.a f.b f.k (Et.ofCode f.e))
  | 1 => .ok (.vsub f.d f.a f.b f.k (Et.ofCode f.e))
  | 2 => .ok (.vmul f.d f.a f.b f.k (Et.ofCode f.e))
  | 3 => .ok (.vmulh f.d f.a f.b f.k (Et.ofCode f.e))
  | 4 => .ok (.vmulhz f.d f.a f.b f.k (Et.ofCode f.e))
  | 5 => .ok (.vmin f.d f.a f.b f.k (Et.ofCode f.e))
  | 6 => .ok (.vmax f.d f.a f.b f.k (Et.ofCode f.e))
  | 7 => .ok (.vminz f.d f.a f.b f.k (Et.ofCode f.e))
  | 8 => .ok (.vmaxz f.d f.a f.b f.k (Et.ofCode f.e))
  | 9 => .ok (.vand f.d f.a f.b f.k (Et.ofCode f.e))
  | 10 => .ok (.vor f.d f.a f.b f.k (Et.ofCode f.e))
  | 11 => .ok (.vxor f.d f.a f.b f.k (Et.ofCode f.e))
  | 12 => .ok (.vshl f.d f.a f.b f.k (Et.ofCode f.e))
  | 13 => .ok (.vshr f.d f.a f.b f.k (Et.ofCode f.e))
  | 14 => .ok (.vsar f.d f.a f.b f.k (Et.ofCode f.e))
  | 15 => .ok (.vsadd f.d f.a f.b f.k (Et.ofCode f.e))
  | 16 => .ok (.vssub f.d f.a f.b f.k (Et.ofCode f.e))
  | 17 => .ok (.vmacc f.d f.a f.b f.k (Et.ofCode f.e))
  | 18 => accept (Et.ofCode f.e == .b32) (.ok (.vdot4 f.d f.a f.b f.k))
  | 19 => zeroed (BitField.upper 3 2 f.b == 0) (.ok (.vnarrow f.d f.a (BitField.lower 3 2 f.b) f.k (Et.ofCode f.e)))
  | 20 => zeroed (BitField.upper 4 1 f.b == 0) (.ok (.vwiden f.d f.a (bit (BitField.lower 4 1 f.b)) f.k (Et.ofCode f.e)))
  | _ => .error .function

/-- Major 0x25 (02 R42, R43). -/
def parseVflt (f : Vv) : Except DecodeError Instr :=
  match f.f.toNat with
  | 0 => .ok (.vfadd f.d f.a f.b f.k (Et.ofCode f.e))
  | 1 => .ok (.vfsub f.d f.a f.b f.k (Et.ofCode f.e))
  | 2 => .ok (.vfmul f.d f.a f.b f.k (Et.ofCode f.e))
  | 3 => .ok (.vfdiv f.d f.a f.b f.k (Et.ofCode f.e))
  | 4 => zeroed (f.b == 0) (.ok (.vfsqrt f.d f.a f.k (Et.ofCode f.e)))
  | 5 => .ok (.vfma f.d f.a f.b f.k (Et.ofCode f.e))
  | 6 => .ok (.vfms f.d f.a f.b f.k (Et.ofCode f.e))
  | 7 => .ok (.vfnma f.d f.a f.b f.k (Et.ofCode f.e))
  | 8 => .ok (.vfmin f.d f.a f.b f.k (Et.ofCode f.e))
  | 9 => .ok (.vfmax f.d f.a f.b f.k (Et.ofCode f.e))
  | 10 => zeroed (f.b == 0) (.ok (.vfrcpe f.d f.a f.k (Et.ofCode f.e)))
  | 11 => zeroed (f.b == 0) (.ok (.vfrsqe f.d f.a f.k (Et.ofCode f.e)))
  | 12 => .ok (.vfcvt f.d f.a (VRnd.ofCode (BitField.upper 2 3 f.b)) (Et.ofCode (BitField.lower 2 3 f.b)) f.k (Et.ofCode f.e))
  | 13 => .ok (.vfcvti f.d f.a (VRnd.ofCode (BitField.upper 2 3 f.b)) (bit (BitField.upper 1 2 (BitField.lower 2 3 f.b)))
      (IntW.ofCode (BitField.lower 1 2 (BitField.lower 2 3 f.b))) f.k (Et.ofCode f.e))
  | 14 => .ok (.vfcvtf f.d f.a (VRnd.ofCode (BitField.upper 2 3 f.b)) (bit (BitField.upper 1 2 (BitField.lower 2 3 f.b)))
      (IntW.ofCode (BitField.lower 1 2 (BitField.lower 2 3 f.b))) f.k (Et.ofCode f.e))
  | 15 => .ok (.vfscale f.d f.a f.b f.k (Et.ofCode f.e))
  | 16 => zeroed (BitField.upper 1 2 (BitField.lower 2 3 f.b) == 0) (.ok (.vfmxq f.d f.a (VRnd.ofCode (BitField.upper 2 3 f.b)) (BitField.lower 1 2 (BitField.lower 2 3 f.b)) f.k (Et.ofCode f.e)))
  | 17 => .ok (.vfsgn f.d f.a f.b f.k (Et.ofCode f.e))
  | _ => .error .function

/-- Major 0x26 (02 R42, R43). -/
def parseVmask (f : Vv) : Except DecodeError Instr :=
  match f.f.toNat with
  | 0 => zeroed (BitField.upper 2 3 f.d == 0) (.ok (.vcmpeq (BitField.lower 2 3 f.d) f.a f.b f.k (Et.ofCode f.e)))
  | 1 => zeroed (BitField.upper 2 3 f.d == 0) (.ok (.vcmpne (BitField.lower 2 3 f.d) f.a f.b f.k (Et.ofCode f.e)))
  | 2 => zeroed (BitField.upper 2 3 f.d == 0) (.ok (.vcmplt (BitField.lower 2 3 f.d) f.a f.b f.k (Et.ofCode f.e)))
  | 3 => zeroed (BitField.upper 2 3 f.d == 0) (.ok (.vcmple (BitField.lower 2 3 f.d) f.a f.b f.k (Et.ofCode f.e)))
  | 4 => zeroed (BitField.upper 2 3 f.d == 0) (.ok (.vcmplo (BitField.lower 2 3 f.d) f.a f.b f.k (Et.ofCode f.e)))
  | 5 => zeroed (BitField.upper 2 3 f.d == 0) (.ok (.vcmpls (BitField.lower 2 3 f.d) f.a f.b f.k (Et.ofCode f.e)))
  | 6 => zeroed (BitField.upper 2 3 f.d == 0) (.ok (.vfcmpeq (BitField.lower 2 3 f.d) f.a f.b f.k (Et.ofCode f.e)))
  | 7 => zeroed (BitField.upper 2 3 f.d == 0) (.ok (.vfcmplt (BitField.lower 2 3 f.d) f.a f.b f.k (Et.ofCode f.e)))
  | 8 => zeroed (BitField.upper 2 3 f.d == 0) (.ok (.vfcmple (BitField.lower 2 3 f.d) f.a f.b f.k (Et.ofCode f.e)))
  | 9 => zeroed (BitField.upper 2 3 f.d == 0 && BitField.upper 2 3 f.a == 0 && BitField.upper 2 3 f.b == 0) (.ok (.mand (BitField.lower 2 3 f.d) (BitField.lower 2 3 f.a) (BitField.lower 2 3 f.b) f.k (Et.ofCode f.e)))
  | 10 => zeroed (BitField.upper 2 3 f.d == 0 && BitField.upper 2 3 f.a == 0 && BitField.upper 2 3 f.b == 0) (.ok (.mor (BitField.lower 2 3 f.d) (BitField.lower 2 3 f.a) (BitField.lower 2 3 f.b) f.k (Et.ofCode f.e)))
  | 11 => zeroed (BitField.upper 2 3 f.d == 0 && BitField.upper 2 3 f.a == 0 && BitField.upper 2 3 f.b == 0) (.ok (.mxor (BitField.lower 2 3 f.d) (BitField.lower 2 3 f.a) (BitField.lower 2 3 f.b) f.k (Et.ofCode f.e)))
  | 12 => zeroed (BitField.upper 2 3 f.d == 0 && BitField.upper 2 3 f.a == 0 && BitField.upper 2 3 f.b == 0) (.ok (.mandn (BitField.lower 2 3 f.d) (BitField.lower 2 3 f.a) (BitField.lower 2 3 f.b) f.k (Et.ofCode f.e)))
  | 13 => zeroed (BitField.upper 2 3 f.a == 0 && f.b == 0) (.ok (.mpopc f.d (BitField.lower 2 3 f.a) f.k (Et.ofCode f.e)))
  | 14 => zeroed (BitField.upper 2 3 f.a == 0 && f.b == 0) (.ok (.mfirst f.d (BitField.lower 2 3 f.a) f.k (Et.ofCode f.e)))
  | 15 => zeroed (BitField.upper 2 3 f.d == 0 && BitField.upper 2 3 f.a == 0 && f.b == 0) (.ok (.mtofirst (BitField.lower 2 3 f.d) (BitField.lower 2 3 f.a) f.k (Et.ofCode f.e)))
  | 16 => zeroed (BitField.upper 2 3 f.d == 0 && BitField.upper 2 3 f.a == 0 && f.b == 0) (.ok (.mbefore (BitField.lower 2 3 f.d) (BitField.lower 2 3 f.a) f.k (Et.ofCode f.e)))
  | 17 => zeroed (BitField.upper 2 3 f.d == 0 && f.k == 0 && f.e == 0) (.ok (.mfromg (BitField.lower 2 3 f.d) f.a f.b))
  | 18 => zeroed (BitField.upper 2 3 f.a == 0 && f.k == 0 && f.e == 0) (.ok (.mtog f.d (BitField.lower 2 3 f.a) f.b))
  | _ => .error .function

/-- Major 0x27 (02 R42, R43). -/
def parseVperm (f : Vv) : Except DecodeError Instr :=
  match f.f.toNat with
  | 0 => .ok (.vslideup f.d f.a f.b f.k (Et.ofCode f.e))
  | 1 => .ok (.vslidedn f.d f.a f.b f.k (Et.ofCode f.e))
  | 2 => .ok (.vperm f.d f.a f.b f.k (Et.ofCode f.e))
  | 3 => zeroed (f.b == 0) (.ok (.vcompress f.d f.a f.k (Et.ofCode f.e)))
  | 4 => zeroed (f.b == 0) (.ok (.vexpand f.d f.a f.k (Et.ofCode f.e)))
  | 5 => .ok (.vmerge f.d f.a f.b f.k (Et.ofCode f.e))
  | 6 => zeroed (f.a == 0) (.ok (.vsplat f.d f.b f.k (Et.ofCode f.e)))
  | 7 => zeroed (f.k == 0) (.ok (.vextr f.d f.a f.b (Et.ofCode f.e)))
  | 8 => .ok (.vzip f.d f.a f.b f.k (Et.ofCode f.e))
  | 9 => .ok (.vunzip f.d f.a f.b f.k (Et.ofCode f.e))
  | 10 => zeroed (BitField.upper 2 3 f.a == 0 && f.b == 0) (.ok (.viota f.d (BitField.lower 2 3 f.a) f.k (Et.ofCode f.e)))
  | 11 => .ok (.vbfly f.d f.a f.b f.k (Et.ofCode f.e))
  | 12 => .ok (.vredsum f.d f.a f.b f.k (Et.ofCode f.e))
  | 13 => .ok (.vredmax f.d f.a f.b f.k (Et.ofCode f.e))
  | 14 => .ok (.vredmin f.d f.a f.b f.k (Et.ofCode f.e))
  | 15 => .ok (.vfredsum f.d f.a f.b f.k (Et.ofCode f.e))
  | 16 => .ok (.vfredmax f.d f.a f.b f.k (Et.ofCode f.e))
  | 17 => .ok (.vscan f.d f.a f.b f.k (Et.ofCode f.e))
  | _ => .error .function

/-- Major 0x28 (02 R42, R43). -/
def parseVload (f : Vv) : Except DecodeError Instr :=
  match f.f.toNat with
  | 0 => zeroed (f.b == 0) (.ok (.vld f.d f.a f.k (Et.ofCode f.e)))
  | 1 => .ok (.vlds f.d f.a f.b f.k (Et.ofCode f.e))
  | 2 => .ok (.vldx f.d f.a f.b f.k (Et.ofCode f.e))
  | 3 => zeroed (BitField.lower 3 2 f.b == 0) (.ok (.vldseg f.d f.a (BitField.upper 3 2 f.b) f.k (Et.ofCode f.e)))
  | 4 => zeroed (f.b == 0) (.ok (.vldff f.d f.a f.k (Et.ofCode f.e)))
  | _ => .error .function

/-- Major 0x29 (02 R42, R43). -/
def parseVstore (f : Vv) : Except DecodeError Instr :=
  match f.f.toNat with
  | 0 => zeroed (f.b == 0) (.ok (.vst f.d f.a f.k (Et.ofCode f.e)))
  | 1 => .ok (.vsts f.d f.a f.b f.k (Et.ofCode f.e))
  | 2 => .ok (.vstx f.d f.a f.b f.k (Et.ofCode f.e))
  | 3 => zeroed (BitField.lower 3 2 f.b == 0) (.ok (.vstseg f.d f.a (BitField.upper 3 2 f.b) f.k (Et.ofCode f.e)))
  | 4 => zeroed (f.b == 0) (.ok (.vpst f.d f.a f.k (Et.ofCode f.e)))
  | _ => .error .function

/-- Major 0x2a (02 R42, R43). -/
def parseTile (f : Rr74) : Except DecodeError Instr :=
  match f.f.toNat with
  | 0 => zeroed (BitField.upper 2 3 f.d == 0 && f.a == 0 && f.b == 0 && f.m == 0) (.ok (.tzero (BitField.lower 2 3 f.d)))
  | 1 => zeroed (BitField.upper 2 3 f.d == 0 && BitField.lower 4 3 f.m == 0) (.ok (.tld (BitField.lower 2 3 f.d) f.a f.b (BitField.upper 4 3 f.m)))
  | 2 => zeroed (BitField.upper 2 3 f.d == 0 && BitField.lower 4 3 f.m == 0) (.ok (.tst (BitField.lower 2 3 f.d) f.a f.b (BitField.upper 4 3 f.m)))
  | 3 => zeroed (BitField.upper 2 3 f.d == 0 && f.m == 0) (.ok (.tmovvt (BitField.lower 2 3 f.d) f.a f.b))
  | 4 => zeroed (BitField.upper 2 3 f.a == 0 && f.m == 0) (.ok (.tmovtv f.d (BitField.lower 2 3 f.a) f.b))
  | 5 => zeroed (BitField.upper 2 3 f.d == 0 && BitField.upper 6 1 f.m == 0) (.ok (.topa (BitField.lower 2 3 f.d) f.a f.b (bit (BitField.lower 6 1 f.m))))
  | 6 => zeroed (f.d == 0 && f.a == 0 && f.b == 0 && BitField.upper 6 1 f.m == 0) (.ok (.tsave (bit (BitField.lower 6 1 f.m))))
  | 7 => zeroed (f.d == 0 && f.a == 0 && f.b == 0 && f.m == 0) (.ok .trestore)
  | _ => .error .function

/-- Major 0x2b (02 R42, R43). -/
def parseMill (f : Rr74) : Except DecodeError Instr :=
  match f.f.toNat with
  | 0 => zeroed (BitField.upper 6 1 f.m == 0) (.ok (.mlease f.d f.a f.b (bit (BitField.lower 6 1 f.m))))
  | 1 => zeroed (f.d == 0 && f.a == 0 && f.b == 0 && f.m == 0) (.ok .mrelease)
  | 2 => zeroed (f.d == 0 && f.b == 0 && f.m == 0) (.ok (.mfmt f.a))
  | 3 => zeroed (f.d == 0 && BitField.upper 6 1 f.m == 0) (.ok (.plant f.a f.b (bit (BitField.lower 6 1 f.m))))
  | 4 => zeroed (BitField.upper 2 3 f.d == 0 && BitField.upper 2 3 f.a == 0 && BitField.lower 4 1 (BitField.lower 1 5 (BitField.lower 1 6 f.m)) == 0) (.ok (.mma (BitField.lower 2 3 f.d) (BitField.lower 2 3 f.a) f.b (bit (BitField.upper 1 6 f.m)) (bit (BitField.upper 1 5 (BitField.lower 1 6 f.m))) (BitField.upper 4 1 (BitField.lower 1 5 (BitField.lower 1 6 f.m)))))
  | 5 => zeroed (BitField.upper 2 3 f.d == 0 && BitField.lower 4 1 (BitField.lower 1 5 (BitField.lower 1 6 f.m)) == 0) (.ok (.mmas (BitField.lower 2 3 f.d) f.a f.b (bit (BitField.upper 1 6 f.m)) (bit (BitField.upper 1 5 (BitField.lower 1 6 f.m))) (BitField.upper 4 1 (BitField.lower 1 5 (BitField.lower 1 6 f.m)))))
  | 6 => zeroed (BitField.upper 2 3 f.d == 0 && f.a == 0 && f.b == 0 && f.m == 0) (.ok (.mzero (BitField.lower 2 3 f.d)))
  | 7 => field (DrainKind.ofCode (BitField.lower 1 2 (BitField.lower 4 3 f.m))) fun k =>
      zeroed (k != .tile || f.a == 0)
        (.ok (.mdrain f.d f.a f.b (BitField.upper 4 3 f.m) (bit (BitField.upper 1 2 (BitField.lower 4 3 f.m))) k))
  | 8 => zeroed (BitField.upper 2 3 f.a == 0 && BitField.upper 4 3 f.m == 0 && BitField.lower 1 2 (BitField.lower 4 3 f.m) == 0) (.ok (.mchain f.d (BitField.lower 2 3 f.a) f.b (bit (BitField.upper 1 2 (BitField.lower 4 3 f.m)))))
  | 9 => zeroed (BitField.upper 2 3 f.b == 0 && BitField.lower 1 2 (BitField.lower 4 3 f.m) == 0) (.ok (.mcoll f.d f.a (BitField.lower 2 3 f.b) (BitField.upper 4 3 f.m) (bit (BitField.upper 1 2 (BitField.lower 4 3 f.m)))))
  | 10 => zeroed (f.a == 0 && f.b == 0 && f.m == 0) (.ok (.mstat f.d))
  | _ => .error .function

/-- Major 0x2c (02 R42, R43). -/
def parseAmo (f : RrAmo) : Except DecodeError Instr :=
  match f.f.toNat with
  | 0 => field (Scope.ofCode f.s) fun s => field (AmoWidth.ofCode f.w) fun w =>
      .ok (.amoswap f.d f.a f.b s (bit f.r) (bit f.q) w)
  | 1 => field (Scope.ofCode f.s) fun s => field (AmoWidth.ofCode f.w) fun w =>
      .ok (.amoadd f.d f.a f.b s (bit f.r) (bit f.q) w)
  | 2 => field (Scope.ofCode f.s) fun s => field (AmoWidth.ofCode f.w) fun w =>
      .ok (.amoand f.d f.a f.b s (bit f.r) (bit f.q) w)
  | 3 => field (Scope.ofCode f.s) fun s => field (AmoWidth.ofCode f.w) fun w =>
      .ok (.amoor f.d f.a f.b s (bit f.r) (bit f.q) w)
  | 4 => field (Scope.ofCode f.s) fun s => field (AmoWidth.ofCode f.w) fun w =>
      .ok (.amoxor f.d f.a f.b s (bit f.r) (bit f.q) w)
  | 5 => field (Scope.ofCode f.s) fun s => field (AmoWidth.ofCode f.w) fun w =>
      .ok (.amomin f.d f.a f.b s (bit f.r) (bit f.q) w)
  | 6 => field (Scope.ofCode f.s) fun s => field (AmoWidth.ofCode f.w) fun w =>
      .ok (.amomax f.d f.a f.b s (bit f.r) (bit f.q) w)
  | 7 => field (Scope.ofCode f.s) fun s => field (AmoWidth.ofCode f.w) fun w =>
      .ok (.amocas f.d f.a f.b s (bit f.r) (bit f.q) w)
  | 8 => field (Scope.ofCode f.s) fun s => field (AmoWidth.ofCode f.w) fun w =>
      .ok (.amofadd f.d f.a f.b s (bit f.r) (bit f.q) w)
  | _ => .error .function

/-- Major 0x2d (02 R42, R43). -/
def parseRed (f : RrAmo) : Except DecodeError Instr :=
  match f.f.toNat with
  | 0 => zeroed (f.d == 0 && f.q == 0) (field (Scope.ofCode f.s) fun s => field (AmoWidth.ofCode f.w) fun w =>
      .ok (.redadd f.a f.b s (bit f.r) w))
  | 1 => zeroed (f.d == 0 && f.q == 0) (field (Scope.ofCode f.s) fun s => field (AmoWidth.ofCode f.w) fun w =>
      .ok (.redmin f.a f.b s (bit f.r) w))
  | 2 => zeroed (f.d == 0 && f.q == 0) (field (Scope.ofCode f.s) fun s => field (AmoWidth.ofCode f.w) fun w =>
      .ok (.redmax f.a f.b s (bit f.r) w))
  | 3 => zeroed (f.d == 0 && f.q == 0) (field (Scope.ofCode f.s) fun s => field (AmoWidth.ofCode f.w) fun w =>
      .ok (.redfadd f.a f.b s (bit f.r) w))
  | 4 => zeroed (f.d == 0 && f.q == 0) (field (Scope.ofCode f.s) fun s => field (AmoWidth.ofCode f.w) fun w =>
      .ok (.redfmax f.a f.b s (bit f.r) w))
  | 5 => zeroed (f.q == 0) (field (Scope.ofCode f.s) fun s => .ok (.vredm f.d f.a f.b s (bit f.r) (RedType.ofCode f.w)))
  | _ => .error .function

/-- Major 0x2e (02 R42, R43). -/
def parseSync (f : Sy) : Except DecodeError Instr :=
  match f.f.toNat with
  | 0 => zeroed (f.d == 0 && f.x == 0) (.ok (.binit f.a))
  | 1 => zeroed (BitField.upper 4 8 f.x == 0) (.ok (.barr f.d f.a (BitField.lower 4 8 f.x)))
  | 2 => zeroed (BitField.upper 11 1 f.x == 0) (.ok (.bexp f.d f.a (bit (BitField.lower 11 1 f.x))))
  | 3 => zeroed (f.x == 0) (.ok (.bwait f.d f.a))
  | 4 => zeroed (BitField.upper 11 1 f.x == 0) (if bit (BitField.lower 11 1 f.x) then .ok (.btestFlg f.d f.a) else .ok (.btestCnt f.d f.a))
  | 5 => zeroed (f.d == 0 && BitField.upper 5 7 f.x == 0) (if bit (BitField.upper 1 6 (BitField.lower 5 7 f.x)) then .ok (.bdomList f.a (BitField.lower 1 6 (BitField.lower 5 7 f.x))) else .ok (.bdomRect f.a (BitField.lower 1 6 (BitField.lower 5 7 f.x))))
  | 6 => zeroed (f.x == 0) (.ok (.evwait f.d f.a))
  | 7 => zeroed (BitField.upper 11 1 f.x == 0) (.ok (.evsig f.d f.a (bit (BitField.lower 11 1 f.x))))
  | 8 => zeroed (BitField.upper 11 1 f.x == 0) (.ok (.evlock f.d f.a (bit (BitField.lower 11 1 f.x))))
  | 9 => zeroed (f.d == 0 && f.x == 0) (.ok (.evunlock f.a))
  | 10 => field (WaitCond.ofCode (BitField.lower 1 3 (BitField.lower 3 4 (BitField.lower 5 7 f.x)))) fun c =>
      .ok (.waitv f.d f.a (BitField.upper 5 7 f.x) (BitField.upper 3 4 (BitField.lower 5 7 f.x)) (bit (BitField.upper 1 3 (BitField.lower 3 4 (BitField.lower 5 7 f.x)))) c)
  | _ => .error .function

/-- Major 0x2f (02 R42, R43). -/
def parseQueue (f : Rr74) : Except DecodeError Instr :=
  match f.f.toNat with
  | 0 => zeroed (f.b == 0 && f.m == 0) (.ok (.cpq f.d f.a))
  | 1 => zeroed (f.b == 0 && f.m == 0) (.ok (.cpqt f.d f.a))
  | 2 => zeroed (f.d == 0 && f.a == 0 && f.b == 0 && BitField.upper 3 4 f.m == 0) (.ok (.qfence (BitField.lower 3 4 f.m)))
  | 3 => zeroed (f.a == 0 && f.b == 0 && BitField.upper 3 4 f.m == 0) (match ((BitField.upper 2 2 (BitField.lower 3 4 f.m))).toNat with
      | 0 => .ok (.qstatOcc f.d (BitField.lower 2 2 (BitField.lower 3 4 f.m)))
      | 1 => .ok (.qstatFaddr f.d (BitField.lower 2 2 (BitField.lower 3 4 f.m)))
      | 2 => .ok (.qstatFcause f.d (BitField.lower 2 2 (BitField.lower 3 4 f.m)))
      | _ => .error .operand)
  | 4 => zeroed (f.m == 0) (.ok (.gcast f.d f.a f.b))
  | _ => .error .function

/-- Major 0x30 (02 R42, R43). -/
def parseFence (f : Sy) : Except DecodeError Instr :=
  match f.f.toNat with
  | 0 => zeroed (f.d == 0 && f.a == 0 && BitField.upper 6 6 f.x == 0) (field (Scope.ofCode (BitField.lower 1 3 (BitField.lower 1 4 (BitField.lower 1 5 (BitField.lower 6 6 f.x))))) fun c =>
      .ok (.fence (bit (BitField.upper 1 5 (BitField.lower 6 6 f.x))) (bit (BitField.upper 1 4 (BitField.lower 1 5 (BitField.lower 6 6 f.x)))) (bit (BitField.upper 1 3 (BitField.lower 1 4 (BitField.lower 1 5 (BitField.lower 6 6 f.x))))) c))
  | 1 => zeroed (f.d == 0 && f.a == 0 && BitField.upper 9 3 f.x == 0) (field (Scope.ofCode (BitField.lower 9 3 f.x)) fun c => .ok (.fencei c))
  | _ => .error .function

/-- Major 0x31 (02 R42, R43). -/
def parseWork (f : Rr74) : Except DecodeError Instr :=
  match f.f.toNat with
  | 0 => zeroed (f.b == 0 && f.m == 0) (.ok (.seedput f.d f.a))
  | 1 => zeroed (f.b == 0 && f.m == 0) (.ok (.seedyield f.d f.a))
  | 2 => zeroed (f.d == 0 && f.a == 0 && f.b == 0 && f.m == 0) (.ok .seedend)
  | 3 => zeroed (f.b == 0 && f.m == 0) (.ok (.nestgo f.d f.a))
  | 4 => zeroed (f.b == 0 && f.m == 0) (.ok (.prio f.d f.a))
  | 5 => zeroed (f.a == 0 && f.b == 0 && BitField.upper 6 1 f.m == 0) (.ok (.slotwait f.d (bit (BitField.lower 6 1 f.m))))
  | _ => .error .function

/-- Major 0x32 (02 R42, R43). -/
def parseVers (f : Rr74) : Except DecodeError Instr :=
  match f.f.toNat with
  | 0 => zeroed (f.a == 0 && f.b == 0 && f.m == 0) (.ok (.tokb f.d))
  | 1 => zeroed (f.m == 0) (.ok (.verstage f.d f.a f.b))
  | 2 => zeroed (f.b == 0 && f.m == 0) (.ok (.verpub f.d f.a))
  | 3 => zeroed (f.b == 0 && BitField.upper 5 2 f.m == 0) (match (BitField.lower 5 2 f.m).toNat with
      | 0 => zeroed (f.a == 0) (.ok (.verqCur f.d))
      | 1 => .ok (.verqReg f.d f.a)
      | 2 => .ok (.verqSlot f.d f.a)
      | _ => .error .operand)
  | 4 => zeroed (f.d == 0 && f.b == 0 && BitField.upper 6 1 f.m == 0) (.ok (.mark f.a (bit (BitField.lower 6 1 f.m))))
  | 5 => zeroed (f.m == 0) (.ok (.ttgo f.d f.a f.b))
  | 6 => zeroed (f.b == 0 && BitField.upper 5 2 f.m == 0) (match (BitField.lower 5 2 f.m).toNat with
      | 0 => zeroed (f.a == 0) (.ok (.ttstatSt f.d))
      | 1 => .ok (.ttstatEnt f.d f.a)
      | 2 => zeroed (f.a == 0) (.ok (.ttstatFaddr f.d))
      | _ => .error .operand)
  | _ => .error .function

/-- Major 0x33 (02 R42, R43). -/
def parseMemh (f : Rr74) : Except DecodeError Instr :=
  match f.f.toNat with
  | 0 => zeroed (BitField.upper 1 6 f.m == 0) (.ok (.pin f.d f.a f.b (BitField.upper 3 3 (BitField.lower 1 6 f.m)) (BitField.lower 3 3 (BitField.lower 1 6 f.m))))
  | 1 => zeroed (f.d == 0 && f.a == 0 && f.b == 0 && BitField.upper 4 3 f.m == 0) (.ok (.unpin (BitField.lower 4 3 f.m)))
  | 2 => zeroed (f.d == 0 && BitField.upper 4 3 f.m == 0) (.ok (.hintef f.a f.b (BitField.lower 4 3 f.m)))
  | 3 => zeroed (f.d == 0 && BitField.upper 4 3 f.m == 0) (field (PrefLevel.ofCode (BitField.lower 1 2 (BitField.lower 4 3 f.m))) fun l =>
      .ok (.pref f.a f.b (bit (BitField.upper 1 2 (BitField.lower 4 3 f.m))) l))
  | 4 => zeroed (f.d == 0 && BitField.upper 5 2 f.m == 0) (match (BitField.lower 5 2 f.m).toNat with
      | 0 => .ok (.cflushWb f.a f.b)
      | 1 => .ok (.cflushWbi f.a f.b)
      | 2 => .ok (.cflushInv f.a f.b)
      | _ => .error .operand)
  | 5 => zeroed (f.b == 0 && f.m == 0) (.ok (.alloc f.d f.a))
  | 6 => zeroed (f.d == 0 && f.m == 0) (.ok (.free f.a f.b))
  | _ => .error .function

/-- Major 0x34 (02 R42, R43).  DEDUCED (log entry 27): TLBINV.ctx and TLBINV.all accept any field a, since 08 R230 writes `ga` for
every kind and reserves d alone. -/
def parseSys (f : Sy) : Except DecodeError Instr :=
  match f.f.toNat with
  | 0 => zeroed (f.d == 0 && f.a == 0 && f.x == 0) (.ok .ecall)
  | 1 => zeroed (f.d == 0 && f.a == 0 && f.x == 0) (.ok .ebreak)
  | 2 => zeroed (f.d == 0 && f.a == 0 && f.x == 0) (.ok .eret)
  | 3 => zeroed (f.a == 0) (.ok (.csrrd f.d f.x))
  | 4 => .ok (.csrwr f.d f.a f.x)
  | 5 => .ok (.csrset f.d f.a f.x)
  | 6 => .ok (.csrclr f.d f.a f.x)
  | 7 => zeroed (f.d == 0 && BitField.upper 6 6 f.x == 0 && BitField.upper 1 3 (BitField.lower 2 4 (BitField.lower 6 6 f.x)) == 0) (field (Scope.ofCode (BitField.lower 1 3 (BitField.lower 2 4 (BitField.lower 6 6 f.x)))) fun s =>
      match (BitField.upper 2 4 (BitField.lower 6 6 f.x)).toNat with
      | 0 => .ok (.tlbinvPage f.a s)
      | 1 => .ok (.tlbinvCid f.a s)
      | 2 => .ok (.tlbinvCtx f.a s)
      | _ => .ok (.tlbinvAll f.a s))
  | 8 => zeroed (f.a == 0 && f.x == 0) (.ok (.rdtime f.d))
  | 9 => zeroed (f.a == 0 && f.x == 0) (.ok (.rdcyc f.d))
  | _ => .error .function

/-- Major 0x35 (02 R42, R43). -/
def parseVdb (f : Vv) : Except DecodeError Instr :=
  match f.f.toNat with
  | 0 => .ok (.vhash f.d f.a f.b f.k (Et.ofCode f.e))
  | 1 => .ok (.vpart f.d f.a f.b f.k (Et.ofCode f.e))
  | 2 => zeroed (f.b == 0) (.ok (.vconflict f.d f.a f.k (Et.ofCode f.e)))
  | 3 => zeroed (BitField.upper 2 3 f.d == 0) (accept (Et.ofCode f.e == .b8) (.ok (.vmatchb (BitField.lower 2 3 f.d) f.a f.b f.k)))
  | 4 => zeroed (f.b == 0) (accept (Et.ofCode f.e == .b64) (.ok (.vstrld f.d f.a f.k)))
  | 5 => accept (Et.ofCode f.e == .b64) (.ok (.vstrcmp f.d f.a f.b f.k))
  | 6 => zeroed (f.b == 0) (accept (Et.ofCode f.e == .b64) (.ok (.vstrhash f.d f.a f.k)))
  | 7 => zeroed (f.a == 0 && f.b == 0) (.ok (.vrand f.d f.k (Et.ofCode f.e)))
  | _ => .error .function

/-- Major 0x36 (02 R42, R43). -/
def parseVcfg (f : Vc) : Except DecodeError Instr :=
  match f.f.toNat with
  | 0 => zeroed (f.u == 0 && f.z == 0) (.ok (.setvl f.d f.a (Et.ofCode f.e)))
  | 1 => zeroed (f.a == 0 && f.z == 0) (.ok (.setvli f.d f.u (Et.ofCode f.e)))
  | _ => .error .function

/-- Major 0x37 (02 R42, R43). -/
def parseVintScalar (f : Vv) : Except DecodeError Instr :=
  match f.f.toNat with
  | 0 => .ok (.vaddScalar f.d f.a f.b f.k (Et.ofCode f.e))
  | 1 => .ok (.vsubScalar f.d f.a f.b f.k (Et.ofCode f.e))
  | 2 => .ok (.vmulScalar f.d f.a f.b f.k (Et.ofCode f.e))
  | 3 => .ok (.vmulhScalar f.d f.a f.b f.k (Et.ofCode f.e))
  | 4 => .ok (.vmulhzScalar f.d f.a f.b f.k (Et.ofCode f.e))
  | 5 => .ok (.vminScalar f.d f.a f.b f.k (Et.ofCode f.e))
  | 6 => .ok (.vmaxScalar f.d f.a f.b f.k (Et.ofCode f.e))
  | 7 => .ok (.vminzScalar f.d f.a f.b f.k (Et.ofCode f.e))
  | 8 => .ok (.vmaxzScalar f.d f.a f.b f.k (Et.ofCode f.e))
  | 9 => .ok (.vandScalar f.d f.a f.b f.k (Et.ofCode f.e))
  | 10 => .ok (.vorScalar f.d f.a f.b f.k (Et.ofCode f.e))
  | 11 => .ok (.vxorScalar f.d f.a f.b f.k (Et.ofCode f.e))
  | 12 => .ok (.vshlScalar f.d f.a f.b f.k (Et.ofCode f.e))
  | 13 => .ok (.vshrScalar f.d f.a f.b f.k (Et.ofCode f.e))
  | 14 => .ok (.vsarScalar f.d f.a f.b f.k (Et.ofCode f.e))
  | 15 => .ok (.vsaddScalar f.d f.a f.b f.k (Et.ofCode f.e))
  | 16 => .ok (.vssubScalar f.d f.a f.b f.k (Et.ofCode f.e))
  | 17 => .ok (.vmaccScalar f.d f.a f.b f.k (Et.ofCode f.e))
  | 18 => accept (Et.ofCode f.e == .b32) (.ok (.vdot4Scalar f.d f.a f.b f.k))
  | _ => .error .function

/-- Major 0x38 (02 R42, R43). -/
def parseVfltScalar (f : Vv) : Except DecodeError Instr :=
  match f.f.toNat with
  | 0 => .ok (.vfaddScalar f.d f.a f.b f.k (Et.ofCode f.e))
  | 1 => .ok (.vfsubScalar f.d f.a f.b f.k (Et.ofCode f.e))
  | 2 => .ok (.vfmulScalar f.d f.a f.b f.k (Et.ofCode f.e))
  | 3 => .ok (.vfdivScalar f.d f.a f.b f.k (Et.ofCode f.e))
  | 5 => .ok (.vfmaScalar f.d f.a f.b f.k (Et.ofCode f.e))
  | 6 => .ok (.vfmsScalar f.d f.a f.b f.k (Et.ofCode f.e))
  | 7 => .ok (.vfnmaScalar f.d f.a f.b f.k (Et.ofCode f.e))
  | 8 => .ok (.vfminScalar f.d f.a f.b f.k (Et.ofCode f.e))
  | 9 => .ok (.vfmaxScalar f.d f.a f.b f.k (Et.ofCode f.e))
  | 15 => .ok (.vfscaleScalar f.d f.a f.b f.k (Et.ofCode f.e))
  | 17 => .ok (.vfsgnScalar f.d f.a f.b f.k (Et.ofCode f.e))
  | _ => .error .function

/-- The operation a word names, or the first decode check that it fails (02 R28, checks 1 to 3 and the operand codes of
check 4). -/
def parse (w : IWord) : Except DecodeError Instr :=
  let r := BitField.lower 6 26 w
  match (BitField.upper 6 26 w).toNat with
  | 0x01 => parseAlu (Rr326.unpack r)
  | 0x02 => let f := Ri.unpack r; .ok (.addi f.d f.a f.i)
  | 0x03 => let f := Ri.unpack r; .ok (.andi f.d f.a f.i)
  | 0x04 => let f := Ri.unpack r; .ok (.ori f.d f.a f.i)
  | 0x05 => let f := Ri.unpack r; .ok (.xori f.d f.a f.i)
  | 0x06 => let f := Ri.unpack r; .ok (.slti f.d f.a f.i)
  | 0x07 => parseShift (Sh.unpack r)
  | 0x08 => let f := Ri.unpack r; zeroed (f.a == 0) (.ok (.ldhi f.d f.i))
  | 0x09 => let f := Ri.unpack r; zeroed (f.a == 0) (.ok (.adpc f.d f.i))
  | 0x0a => parseLaddr (La.unpack r)
  | 0x0b => parseBmask (Bm.unpack r)
  | 0x0c => let f := Ri.unpack r; .ok (.beq f.d f.a f.i)
  | 0x0d => let f := Ri.unpack r; .ok (.bne f.d f.a f.i)
  | 0x0e => let f := Ri.unpack r; .ok (.blt f.d f.a f.i)
  | 0x0f => let f := Ri.unpack r; .ok (.bge f.d f.a f.i)
  | 0x10 => let f := Ri.unpack r; .ok (.blo f.d f.a f.i)
  | 0x11 => let f := Ri.unpack r; .ok (.bhs f.d f.a f.i)
  | 0x12 => let f := J.unpack r; .ok (.jal f.d f.o)
  | 0x13 => let f := Ri.unpack r; .ok (.jalr f.d f.a f.i)
  | 0x14 => let f := Ri.unpack r; .ok (.lb f.d f.a f.i)
  | 0x15 => let f := Ri.unpack r; .ok (.lh f.d f.a f.i)
  | 0x16 => let f := Ri.unpack r; .ok (.lw f.d f.a f.i)
  | 0x17 => let f := Ri.unpack r; .ok (.ld f.d f.a f.i)
  | 0x18 => let f := Ri.unpack r; .ok (.lbz f.d f.a f.i)
  | 0x19 => let f := Ri.unpack r; .ok (.lhz f.d f.a f.i)
  | 0x1a => let f := Ri.unpack r; .ok (.lwz f.d f.a f.i)
  | 0x1b => let f := Ri.unpack r; .ok (.sb f.d f.a f.i)
  | 0x1c => let f := Ri.unpack r; .ok (.sh f.d f.a f.i)
  | 0x1d => let f := Ri.unpack r; .ok (.sw f.d f.a f.i)
  | 0x1e => let f := Ri.unpack r; .ok (.sd f.d f.a f.i)
  | 0x1f => let f := Ri.unpack r; .ok (.flw f.d f.a f.i)
  | 0x20 => let f := Ri.unpack r; .ok (.fld f.d f.a f.i)
  | 0x21 => let f := Ri.unpack r; .ok (.fsw f.d f.a f.i)
  | 0x22 => let f := Ri.unpack r; .ok (.fsd f.d f.a f.i)
  | 0x23 => parseFpu (Rr326.unpack r)
  | 0x24 => parseVint (Vv.unpack r)
  | 0x25 => parseVflt (Vv.unpack r)
  | 0x26 => parseVmask (Vv.unpack r)
  | 0x27 => parseVperm (Vv.unpack r)
  | 0x28 => parseVload (Vv.unpack r)
  | 0x29 => parseVstore (Vv.unpack r)
  | 0x2a => parseTile (Rr74.unpack r)
  | 0x2b => parseMill (Rr74.unpack r)
  | 0x2c => parseAmo (RrAmo.unpack r)
  | 0x2d => parseRed (RrAmo.unpack r)
  | 0x2e => parseSync (Sy.unpack r)
  | 0x2f => parseQueue (Rr74.unpack r)
  | 0x30 => parseFence (Sy.unpack r)
  | 0x31 => parseWork (Rr74.unpack r)
  | 0x32 => parseVers (Rr74.unpack r)
  | 0x33 => parseMemh (Rr74.unpack r)
  | 0x34 => parseSys (Sy.unpack r)
  | 0x35 => parseVdb (Vv.unpack r)
  | 0x36 => parseVcfg (Vc.unpack r)
  | 0x37 => parseVintScalar (Vv.unpack r)
  | 0x38 => parseVfltScalar (Vv.unpack r)
  | _ => .error .major
/-- Decoding (02 R28): an unassigned word is the operation UNASSIGNED_INSTRUCTION_WORD, whose meaning takes ILLEGAL; a word
that fails check 3 or 4 is an error with its reason code. -/
def decode (w : IWord) : Except DecodeError Instr :=
  match unassignedReason w with
  | some _ => .ok (.unassignedInstructionWord w)
  | none =>
    match parse w with
    | .ok i => if i.wf then .ok i else .error .operand
    | .error e => .error e

end

/-- The word of an instruction; an event has none, and neither has a word that is assigned. -/
def encode : Instr → Option IWord
  | .add d a b => some (BitField.join 6 26 0x1 (Rr326.pack ⟨d, a, b, 0, 0, 0⟩))
  | .sub d a b => some (BitField.join 6 26 0x1 (Rr326.pack ⟨d, a, b, 0, 0, 1⟩))
  | .and d a b => some (BitField.join 6 26 0x1 (Rr326.pack ⟨d, a, b, 0, 0, 2⟩))
  | .or d a b => some (BitField.join 6 26 0x1 (Rr326.pack ⟨d, a, b, 0, 0, 3⟩))
  | .xor d a b => some (BitField.join 6 26 0x1 (Rr326.pack ⟨d, a, b, 0, 0, 4⟩))
  | .shl d a b => some (BitField.join 6 26 0x1 (Rr326.pack ⟨d, a, b, 0, 0, 5⟩))
  | .shr d a b => some (BitField.join 6 26 0x1 (Rr326.pack ⟨d, a, b, 0, 0, 6⟩))
  | .sar d a b => some (BitField.join 6 26 0x1 (Rr326.pack ⟨d, a, b, 0, 0, 7⟩))
  | .mul d a b => some (BitField.join 6 26 0x1 (Rr326.pack ⟨d, a, b, 0, 0, 8⟩))
  | .mulh d a b => some (BitField.join 6 26 0x1 (Rr326.pack ⟨d, a, b, 0, 0, 9⟩))
  | .mulhz d a b => some (BitField.join 6 26 0x1 (Rr326.pack ⟨d, a, b, 0, 0, 10⟩))
  | .div d a b => some (BitField.join 6 26 0x1 (Rr326.pack ⟨d, a, b, 0, 0, 11⟩))
  | .divz d a b => some (BitField.join 6 26 0x1 (Rr326.pack ⟨d, a, b, 0, 0, 12⟩))
  | .rem d a b => some (BitField.join 6 26 0x1 (Rr326.pack ⟨d, a, b, 0, 0, 13⟩))
  | .remz d a b => some (BitField.join 6 26 0x1 (Rr326.pack ⟨d, a, b, 0, 0, 14⟩))
  | .min d a b => some (BitField.join 6 26 0x1 (Rr326.pack ⟨d, a, b, 0, 0, 15⟩))
  | .max d a b => some (BitField.join 6 26 0x1 (Rr326.pack ⟨d, a, b, 0, 0, 16⟩))
  | .slt d a b => some (BitField.join 6 26 0x1 (Rr326.pack ⟨d, a, b, 0, 0, 17⟩))
  | .sltz d a b => some (BitField.join 6 26 0x1 (Rr326.pack ⟨d, a, b, 0, 0, 18⟩))
  | .clz d a => some (BitField.join 6 26 0x1 (Rr326.pack ⟨d, a, 0, 0, 0, 19⟩))
  | .ctz d a => some (BitField.join 6 26 0x1 (Rr326.pack ⟨d, a, 0, 0, 0, 20⟩))
  | .popc d a => some (BitField.join 6 26 0x1 (Rr326.pack ⟨d, a, 0, 0, 0, 21⟩))
  | .sext d a n => some (BitField.join 6 26 0x1 (Rr326.pack ⟨d, a, n.code, 0, 0, 22⟩))
  | .zext d a n => some (BitField.join 6 26 0x1 (Rr326.pack ⟨d, a, n.code, 0, 0, 23⟩))
  | .csel d a b => some (BitField.join 6 26 0x1 (Rr326.pack ⟨d, a, b, 0, 0, 24⟩))
  | .bfx d a b => some (BitField.join 6 26 0x1 (Rr326.pack ⟨d, a, b, 0, 0, 25⟩))
  | .bfi d a b => some (BitField.join 6 26 0x1 (Rr326.pack ⟨d, a, b, 0, 0, 26⟩))
  | .lea d a b s => some (BitField.join 6 26 0x1 (Rr326.pack ⟨d, a, b, s, 0, 27⟩))
  | .addw d a b => some (BitField.join 6 26 0x1 (Rr326.pack ⟨d, a, b, 0, 0, 28⟩))
  | .addi d a i => some (BitField.join 6 26 0x2 (Ri.pack ⟨d, a, i⟩))
  | .andi d a i => some (BitField.join 6 26 0x3 (Ri.pack ⟨d, a, i⟩))
  | .ori d a i => some (BitField.join 6 26 0x4 (Ri.pack ⟨d, a, i⟩))
  | .xori d a i => some (BitField.join 6 26 0x5 (Ri.pack ⟨d, a, i⟩))
  | .slti d a i => some (BitField.join 6 26 0x6 (Ri.pack ⟨d, a, i⟩))
  | .shli d a s => some (BitField.join 6 26 0x7 (Sh.pack ⟨d, a, 0, 0, s⟩))
  | .shri d a s => some (BitField.join 6 26 0x7 (Sh.pack ⟨d, a, 0, 1, s⟩))
  | .sari d a s => some (BitField.join 6 26 0x7 (Sh.pack ⟨d, a, 0, 2, s⟩))
  | .ldhi d i => some (BitField.join 6 26 0x8 (Ri.pack ⟨d, 0, i⟩))
  | .adpc d i => some (BitField.join 6 26 0x9 (Ri.pack ⟨d, 0, i⟩))
  | .laddr d a die row col => some (BitField.join 6 26 0xa (La.pack ⟨d, a, 0, 0, die, row, col⟩))
  | .laddrNear d a dy dx => some (BitField.join 6 26 0xa (La.pack ⟨d, a, 1, 0, 0, dy, dx⟩))
  | .bmany m o => some (BitField.join 6 26 0xb (Bm.pack ⟨0, 0, m, o⟩))
  | .bmall m o => some (BitField.join 6 26 0xb (Bm.pack ⟨1, 0, m, o⟩))
  | .bmnone m o => some (BitField.join 6 26 0xb (Bm.pack ⟨2, 0, m, o⟩))
  | .beq a b o => some (BitField.join 6 26 0xc (Ri.pack ⟨a, b, o⟩))
  | .bne a b o => some (BitField.join 6 26 0xd (Ri.pack ⟨a, b, o⟩))
  | .blt a b o => some (BitField.join 6 26 0xe (Ri.pack ⟨a, b, o⟩))
  | .bge a b o => some (BitField.join 6 26 0xf (Ri.pack ⟨a, b, o⟩))
  | .blo a b o => some (BitField.join 6 26 0x10 (Ri.pack ⟨a, b, o⟩))
  | .bhs a b o => some (BitField.join 6 26 0x11 (Ri.pack ⟨a, b, o⟩))
  | .jal d o => some (BitField.join 6 26 0x12 (J.pack ⟨d, o⟩))
  | .jalr d a i => some (BitField.join 6 26 0x13 (Ri.pack ⟨d, a, i⟩))
  | .lb d a i => some (BitField.join 6 26 0x14 (Ri.pack ⟨d, a, i⟩))
  | .lh d a i => some (BitField.join 6 26 0x15 (Ri.pack ⟨d, a, i⟩))
  | .lw d a i => some (BitField.join 6 26 0x16 (Ri.pack ⟨d, a, i⟩))
  | .ld d a i => some (BitField.join 6 26 0x17 (Ri.pack ⟨d, a, i⟩))
  | .lbz d a i => some (BitField.join 6 26 0x18 (Ri.pack ⟨d, a, i⟩))
  | .lhz d a i => some (BitField.join 6 26 0x19 (Ri.pack ⟨d, a, i⟩))
  | .lwz d a i => some (BitField.join 6 26 0x1a (Ri.pack ⟨d, a, i⟩))
  | .sb d a i => some (BitField.join 6 26 0x1b (Ri.pack ⟨d, a, i⟩))
  | .sh d a i => some (BitField.join 6 26 0x1c (Ri.pack ⟨d, a, i⟩))
  | .sw d a i => some (BitField.join 6 26 0x1d (Ri.pack ⟨d, a, i⟩))
  | .sd d a i => some (BitField.join 6 26 0x1e (Ri.pack ⟨d, a, i⟩))
  | .flw d a i => some (BitField.join 6 26 0x1f (Ri.pack ⟨d, a, i⟩))
  | .fld d a i => some (BitField.join 6 26 0x20 (Ri.pack ⟨d, a, i⟩))
  | .fsw d a i => some (BitField.join 6 26 0x21 (Ri.pack ⟨d, a, i⟩))
  | .fsd d a i => some (BitField.join 6 26 0x22 (Ri.pack ⟨d, a, i⟩))
  | .fadd d a b r p => some (BitField.join 6 26 0x23 (Rr326.pack ⟨d, a, b, r.code, p.code, 0⟩))
  | .fsub d a b r p => some (BitField.join 6 26 0x23 (Rr326.pack ⟨d, a, b, r.code, p.code, 1⟩))
  | .fmul d a b r p => some (BitField.join 6 26 0x23 (Rr326.pack ⟨d, a, b, r.code, p.code, 2⟩))
  | .fdiv d a b r p => some (BitField.join 6 26 0x23 (Rr326.pack ⟨d, a, b, r.code, p.code, 3⟩))
  | .fsqrt d a r p => some (BitField.join 6 26 0x23 (Rr326.pack ⟨d, a, 0, r.code, p.code, 4⟩))
  | .fma d a b r p => some (BitField.join 6 26 0x23 (Rr326.pack ⟨d, a, b, r.code, p.code, 5⟩))
  | .fmin d a b p => some (BitField.join 6 26 0x23 (Rr326.pack ⟨d, a, b, 0, p.code, 6⟩))
  | .fmax d a b p => some (BitField.join 6 26 0x23 (Rr326.pack ⟨d, a, b, 0, p.code, 7⟩))
  | .feq d a b p => some (BitField.join 6 26 0x23 (Rr326.pack ⟨d, a, b, 0, p.code, 8⟩))
  | .flt d a b p => some (BitField.join 6 26 0x23 (Rr326.pack ⟨d, a, b, 0, p.code, 9⟩))
  | .fle d a b p => some (BitField.join 6 26 0x23 (Rr326.pack ⟨d, a, b, 0, p.code, 10⟩))
  | .fsgn d a b s p => some (BitField.join 6 26 0x23 (Rr326.pack ⟨d, a, b, s.code, p.code, 11⟩))
  | .fclass d a p => some (BitField.join 6 26 0x23 (Rr326.pack ⟨d, a, 0, 0, p.code, 12⟩))
  | .fcvt d a dst src r => some (BitField.join 6 26 0x23 (Rr326.pack ⟨d, a, BitField.join 2 3 src.sourceHigh dst.code, r.code, src.sourcePrec, 13⟩))
  | .fcvti d a wide z r p => some (BitField.join 6 26 0x23 (Rr326.pack ⟨d, a, BitField.join 3 2 0#3 (BitField.join 1 1 (BitVec.ofBool wide) (BitVec.ofBool z)), r.code, p.code, 14⟩))
  | .fcvtf d a wide z r p => some (BitField.join 6 26 0x23 (Rr326.pack ⟨d, a, BitField.join 3 2 0#3 (BitField.join 1 1 (BitVec.ofBool wide) (BitVec.ofBool z)), r.code, p.code, 15⟩))
  | .fmvgf d a p => some (BitField.join 6 26 0x23 (Rr326.pack ⟨d, a, 0, 0, p.code, 16⟩))
  | .fmvfg d a p => some (BitField.join 6 26 0x23 (Rr326.pack ⟨d, a, 0, 0, p.code, 17⟩))
  | .vadd d a b k e => some (BitField.join 6 26 0x24 (Vv.pack ⟨d, a, b, k, e.code, 0⟩))
  | .vsub d a b k e => some (BitField.join 6 26 0x24 (Vv.pack ⟨d, a, b, k, e.code, 1⟩))
  | .vmul d a b k e => some (BitField.join 6 26 0x24 (Vv.pack ⟨d, a, b, k, e.code, 2⟩))
  | .vmulh d a b k e => some (BitField.join 6 26 0x24 (Vv.pack ⟨d, a, b, k, e.code, 3⟩))
  | .vmulhz d a b k e => some (BitField.join 6 26 0x24 (Vv.pack ⟨d, a, b, k, e.code, 4⟩))
  | .vmin d a b k e => some (BitField.join 6 26 0x24 (Vv.pack ⟨d, a, b, k, e.code, 5⟩))
  | .vmax d a b k e => some (BitField.join 6 26 0x24 (Vv.pack ⟨d, a, b, k, e.code, 6⟩))
  | .vminz d a b k e => some (BitField.join 6 26 0x24 (Vv.pack ⟨d, a, b, k, e.code, 7⟩))
  | .vmaxz d a b k e => some (BitField.join 6 26 0x24 (Vv.pack ⟨d, a, b, k, e.code, 8⟩))
  | .vand d a b k e => some (BitField.join 6 26 0x24 (Vv.pack ⟨d, a, b, k, e.code, 9⟩))
  | .vor d a b k e => some (BitField.join 6 26 0x24 (Vv.pack ⟨d, a, b, k, e.code, 10⟩))
  | .vxor d a b k e => some (BitField.join 6 26 0x24 (Vv.pack ⟨d, a, b, k, e.code, 11⟩))
  | .vshl d a b k e => some (BitField.join 6 26 0x24 (Vv.pack ⟨d, a, b, k, e.code, 12⟩))
  | .vshr d a b k e => some (BitField.join 6 26 0x24 (Vv.pack ⟨d, a, b, k, e.code, 13⟩))
  | .vsar d a b k e => some (BitField.join 6 26 0x24 (Vv.pack ⟨d, a, b, k, e.code, 14⟩))
  | .vsadd d a b k e => some (BitField.join 6 26 0x24 (Vv.pack ⟨d, a, b, k, e.code, 15⟩))
  | .vssub d a b k e => some (BitField.join 6 26 0x24 (Vv.pack ⟨d, a, b, k, e.code, 16⟩))
  | .vmacc d a b k e => some (BitField.join 6 26 0x24 (Vv.pack ⟨d, a, b, k, e.code, 17⟩))
  | .vdot4 d a b k => some (BitField.join 6 26 0x24 (Vv.pack ⟨d, a, b, k, Et.b32.code, 18⟩))
  | .vnarrow d a m k e => some (BitField.join 6 26 0x24 (Vv.pack ⟨d, a, BitField.join 3 2 0#3 m, k, e.code, 19⟩))
  | .vwiden d a x k e => some (BitField.join 6 26 0x24 (Vv.pack ⟨d, a, BitField.join 4 1 0#4 (BitVec.ofBool x), k, e.code, 20⟩))
  | .vaddScalar d a b k e => some (BitField.join 6 26 0x37 (Vv.pack ⟨d, a, b, k, e.code, 0⟩))
  | .vsubScalar d a b k e => some (BitField.join 6 26 0x37 (Vv.pack ⟨d, a, b, k, e.code, 1⟩))
  | .vmulScalar d a b k e => some (BitField.join 6 26 0x37 (Vv.pack ⟨d, a, b, k, e.code, 2⟩))
  | .vmulhScalar d a b k e => some (BitField.join 6 26 0x37 (Vv.pack ⟨d, a, b, k, e.code, 3⟩))
  | .vmulhzScalar d a b k e => some (BitField.join 6 26 0x37 (Vv.pack ⟨d, a, b, k, e.code, 4⟩))
  | .vminScalar d a b k e => some (BitField.join 6 26 0x37 (Vv.pack ⟨d, a, b, k, e.code, 5⟩))
  | .vmaxScalar d a b k e => some (BitField.join 6 26 0x37 (Vv.pack ⟨d, a, b, k, e.code, 6⟩))
  | .vminzScalar d a b k e => some (BitField.join 6 26 0x37 (Vv.pack ⟨d, a, b, k, e.code, 7⟩))
  | .vmaxzScalar d a b k e => some (BitField.join 6 26 0x37 (Vv.pack ⟨d, a, b, k, e.code, 8⟩))
  | .vandScalar d a b k e => some (BitField.join 6 26 0x37 (Vv.pack ⟨d, a, b, k, e.code, 9⟩))
  | .vorScalar d a b k e => some (BitField.join 6 26 0x37 (Vv.pack ⟨d, a, b, k, e.code, 10⟩))
  | .vxorScalar d a b k e => some (BitField.join 6 26 0x37 (Vv.pack ⟨d, a, b, k, e.code, 11⟩))
  | .vshlScalar d a b k e => some (BitField.join 6 26 0x37 (Vv.pack ⟨d, a, b, k, e.code, 12⟩))
  | .vshrScalar d a b k e => some (BitField.join 6 26 0x37 (Vv.pack ⟨d, a, b, k, e.code, 13⟩))
  | .vsarScalar d a b k e => some (BitField.join 6 26 0x37 (Vv.pack ⟨d, a, b, k, e.code, 14⟩))
  | .vsaddScalar d a b k e => some (BitField.join 6 26 0x37 (Vv.pack ⟨d, a, b, k, e.code, 15⟩))
  | .vssubScalar d a b k e => some (BitField.join 6 26 0x37 (Vv.pack ⟨d, a, b, k, e.code, 16⟩))
  | .vmaccScalar d a b k e => some (BitField.join 6 26 0x37 (Vv.pack ⟨d, a, b, k, e.code, 17⟩))
  | .vdot4Scalar d a b k => some (BitField.join 6 26 0x37 (Vv.pack ⟨d, a, b, k, Et.b32.code, 18⟩))
  | .vfadd d a b k e => some (BitField.join 6 26 0x25 (Vv.pack ⟨d, a, b, k, e.code, 0⟩))
  | .vfsub d a b k e => some (BitField.join 6 26 0x25 (Vv.pack ⟨d, a, b, k, e.code, 1⟩))
  | .vfmul d a b k e => some (BitField.join 6 26 0x25 (Vv.pack ⟨d, a, b, k, e.code, 2⟩))
  | .vfdiv d a b k e => some (BitField.join 6 26 0x25 (Vv.pack ⟨d, a, b, k, e.code, 3⟩))
  | .vfsqrt d a k e => some (BitField.join 6 26 0x25 (Vv.pack ⟨d, a, 0, k, e.code, 4⟩))
  | .vfma d a b k e => some (BitField.join 6 26 0x25 (Vv.pack ⟨d, a, b, k, e.code, 5⟩))
  | .vfms d a b k e => some (BitField.join 6 26 0x25 (Vv.pack ⟨d, a, b, k, e.code, 6⟩))
  | .vfnma d a b k e => some (BitField.join 6 26 0x25 (Vv.pack ⟨d, a, b, k, e.code, 7⟩))
  | .vfmin d a b k e => some (BitField.join 6 26 0x25 (Vv.pack ⟨d, a, b, k, e.code, 8⟩))
  | .vfmax d a b k e => some (BitField.join 6 26 0x25 (Vv.pack ⟨d, a, b, k, e.code, 9⟩))
  | .vfrcpe d a k e => some (BitField.join 6 26 0x25 (Vv.pack ⟨d, a, 0, k, e.code, 10⟩))
  | .vfrsqe d a k e => some (BitField.join 6 26 0x25 (Vv.pack ⟨d, a, 0, k, e.code, 11⟩))
  | .vfcvt d a r src k e => some (BitField.join 6 26 0x25 (Vv.pack ⟨d, a, BitField.join 2 3 r.code src.code, k, e.code, 12⟩))
  | .vfcvti d a r z w k e => some (BitField.join 6 26 0x25 (Vv.pack ⟨d, a, BitField.join 2 3 r.code (BitField.join 1 2 (BitVec.ofBool z) w.code), k, e.code, 13⟩))
  | .vfcvtf d a r z w k e => some (BitField.join 6 26 0x25 (Vv.pack ⟨d, a, BitField.join 2 3 r.code (BitField.join 1 2 (BitVec.ofBool z) w.code), k, e.code, 14⟩))
  | .vfscale d a b k e => some (BitField.join 6 26 0x25 (Vv.pack ⟨d, a, b, k, e.code, 15⟩))
  | .vfmxq d a r n k e => some (BitField.join 6 26 0x25 (Vv.pack ⟨d, a, BitField.join 2 3 r.code (BitField.join 1 2 0#1 n), k, e.code, 16⟩))
  | .vfsgn d a b k e => some (BitField.join 6 26 0x25 (Vv.pack ⟨d, a, b, k, e.code, 17⟩))
  | .vfaddScalar d a b k e => some (BitField.join 6 26 0x38 (Vv.pack ⟨d, a, b, k, e.code, 0⟩))
  | .vfsubScalar d a b k e => some (BitField.join 6 26 0x38 (Vv.pack ⟨d, a, b, k, e.code, 1⟩))
  | .vfmulScalar d a b k e => some (BitField.join 6 26 0x38 (Vv.pack ⟨d, a, b, k, e.code, 2⟩))
  | .vfdivScalar d a b k e => some (BitField.join 6 26 0x38 (Vv.pack ⟨d, a, b, k, e.code, 3⟩))
  | .vfmaScalar d a b k e => some (BitField.join 6 26 0x38 (Vv.pack ⟨d, a, b, k, e.code, 5⟩))
  | .vfmsScalar d a b k e => some (BitField.join 6 26 0x38 (Vv.pack ⟨d, a, b, k, e.code, 6⟩))
  | .vfnmaScalar d a b k e => some (BitField.join 6 26 0x38 (Vv.pack ⟨d, a, b, k, e.code, 7⟩))
  | .vfminScalar d a b k e => some (BitField.join 6 26 0x38 (Vv.pack ⟨d, a, b, k, e.code, 8⟩))
  | .vfmaxScalar d a b k e => some (BitField.join 6 26 0x38 (Vv.pack ⟨d, a, b, k, e.code, 9⟩))
  | .vfscaleScalar d a b k e => some (BitField.join 6 26 0x38 (Vv.pack ⟨d, a, b, k, e.code, 15⟩))
  | .vfsgnScalar d a b k e => some (BitField.join 6 26 0x38 (Vv.pack ⟨d, a, b, k, e.code, 17⟩))
  | .vcmpeq d a b k e => some (BitField.join 6 26 0x26 (Vv.pack ⟨BitField.join 2 3 0#2 d, a, b, k, e.code, 0⟩))
  | .vcmpne d a b k e => some (BitField.join 6 26 0x26 (Vv.pack ⟨BitField.join 2 3 0#2 d, a, b, k, e.code, 1⟩))
  | .vcmplt d a b k e => some (BitField.join 6 26 0x26 (Vv.pack ⟨BitField.join 2 3 0#2 d, a, b, k, e.code, 2⟩))
  | .vcmple d a b k e => some (BitField.join 6 26 0x26 (Vv.pack ⟨BitField.join 2 3 0#2 d, a, b, k, e.code, 3⟩))
  | .vcmplo d a b k e => some (BitField.join 6 26 0x26 (Vv.pack ⟨BitField.join 2 3 0#2 d, a, b, k, e.code, 4⟩))
  | .vcmpls d a b k e => some (BitField.join 6 26 0x26 (Vv.pack ⟨BitField.join 2 3 0#2 d, a, b, k, e.code, 5⟩))
  | .vfcmpeq d a b k e => some (BitField.join 6 26 0x26 (Vv.pack ⟨BitField.join 2 3 0#2 d, a, b, k, e.code, 6⟩))
  | .vfcmplt d a b k e => some (BitField.join 6 26 0x26 (Vv.pack ⟨BitField.join 2 3 0#2 d, a, b, k, e.code, 7⟩))
  | .vfcmple d a b k e => some (BitField.join 6 26 0x26 (Vv.pack ⟨BitField.join 2 3 0#2 d, a, b, k, e.code, 8⟩))
  | .mand d a b k e => some (BitField.join 6 26 0x26 (Vv.pack ⟨BitField.join 2 3 0#2 d, BitField.join 2 3 0#2 a, BitField.join 2 3 0#2 b, k, e.code, 9⟩))
  | .mor d a b k e => some (BitField.join 6 26 0x26 (Vv.pack ⟨BitField.join 2 3 0#2 d, BitField.join 2 3 0#2 a, BitField.join 2 3 0#2 b, k, e.code, 10⟩))
  | .mxor d a b k e => some (BitField.join 6 26 0x26 (Vv.pack ⟨BitField.join 2 3 0#2 d, BitField.join 2 3 0#2 a, BitField.join 2 3 0#2 b, k, e.code, 11⟩))
  | .mandn d a b k e => some (BitField.join 6 26 0x26 (Vv.pack ⟨BitField.join 2 3 0#2 d, BitField.join 2 3 0#2 a, BitField.join 2 3 0#2 b, k, e.code, 12⟩))
  | .mpopc d a k e => some (BitField.join 6 26 0x26 (Vv.pack ⟨d, BitField.join 2 3 0#2 a, 0, k, e.code, 13⟩))
  | .mfirst d a k e => some (BitField.join 6 26 0x26 (Vv.pack ⟨d, BitField.join 2 3 0#2 a, 0, k, e.code, 14⟩))
  | .mtofirst d a k e => some (BitField.join 6 26 0x26 (Vv.pack ⟨BitField.join 2 3 0#2 d, BitField.join 2 3 0#2 a, 0, k, e.code, 15⟩))
  | .mbefore d a k e => some (BitField.join 6 26 0x26 (Vv.pack ⟨BitField.join 2 3 0#2 d, BitField.join 2 3 0#2 a, 0, k, e.code, 16⟩))
  | .mfromg d a b => some (BitField.join 6 26 0x26 (Vv.pack ⟨BitField.join 2 3 0#2 d, a, b, 0, 0, 17⟩))
  | .mtog d a b => some (BitField.join 6 26 0x26 (Vv.pack ⟨d, BitField.join 2 3 0#2 a, b, 0, 0, 18⟩))
  | .vslideup d a b k e => some (BitField.join 6 26 0x27 (Vv.pack ⟨d, a, b, k, e.code, 0⟩))
  | .vslidedn d a b k e => some (BitField.join 6 26 0x27 (Vv.pack ⟨d, a, b, k, e.code, 1⟩))
  | .vperm d a b k e => some (BitField.join 6 26 0x27 (Vv.pack ⟨d, a, b, k, e.code, 2⟩))
  | .vcompress d a k e => some (BitField.join 6 26 0x27 (Vv.pack ⟨d, a, 0, k, e.code, 3⟩))
  | .vexpand d a k e => some (BitField.join 6 26 0x27 (Vv.pack ⟨d, a, 0, k, e.code, 4⟩))
  | .vmerge d a b k e => some (BitField.join 6 26 0x27 (Vv.pack ⟨d, a, b, k, e.code, 5⟩))
  | .vsplat d b k e => some (BitField.join 6 26 0x27 (Vv.pack ⟨d, 0, b, k, e.code, 6⟩))
  | .vextr d a b e => some (BitField.join 6 26 0x27 (Vv.pack ⟨d, a, b, 0, e.code, 7⟩))
  | .vzip d a b k e => some (BitField.join 6 26 0x27 (Vv.pack ⟨d, a, b, k, e.code, 8⟩))
  | .vunzip d a b k e => some (BitField.join 6 26 0x27 (Vv.pack ⟨d, a, b, k, e.code, 9⟩))
  | .viota d a k e => some (BitField.join 6 26 0x27 (Vv.pack ⟨d, BitField.join 2 3 0#2 a, 0, k, e.code, 10⟩))
  | .vbfly d a b k e => some (BitField.join 6 26 0x27 (Vv.pack ⟨d, a, b, k, e.code, 11⟩))
  | .vredsum d a b k e => some (BitField.join 6 26 0x27 (Vv.pack ⟨d, a, b, k, e.code, 12⟩))
  | .vredmax d a b k e => some (BitField.join 6 26 0x27 (Vv.pack ⟨d, a, b, k, e.code, 13⟩))
  | .vredmin d a b k e => some (BitField.join 6 26 0x27 (Vv.pack ⟨d, a, b, k, e.code, 14⟩))
  | .vfredsum d a b k e => some (BitField.join 6 26 0x27 (Vv.pack ⟨d, a, b, k, e.code, 15⟩))
  | .vfredmax d a b k e => some (BitField.join 6 26 0x27 (Vv.pack ⟨d, a, b, k, e.code, 16⟩))
  | .vscan d a b k e => some (BitField.join 6 26 0x27 (Vv.pack ⟨d, a, b, k, e.code, 17⟩))
  | .vhash d a b k e => some (BitField.join 6 26 0x35 (Vv.pack ⟨d, a, b, k, e.code, 0⟩))
  | .vpart d a b k e => some (BitField.join 6 26 0x35 (Vv.pack ⟨d, a, b, k, e.code, 1⟩))
  | .vconflict d a k e => some (BitField.join 6 26 0x35 (Vv.pack ⟨d, a, 0, k, e.code, 2⟩))
  | .vmatchb d a b k => some (BitField.join 6 26 0x35 (Vv.pack ⟨BitField.join 2 3 0#2 d, a, b, k, Et.b8.code, 3⟩))
  | .vstrld d a k => some (BitField.join 6 26 0x35 (Vv.pack ⟨d, a, 0, k, Et.b64.code, 4⟩))
  | .vstrcmp d a b k => some (BitField.join 6 26 0x35 (Vv.pack ⟨d, a, b, k, Et.b64.code, 5⟩))
  | .vstrhash d a k => some (BitField.join 6 26 0x35 (Vv.pack ⟨d, a, 0, k, Et.b64.code, 6⟩))
  | .vrand d k e => some (BitField.join 6 26 0x35 (Vv.pack ⟨d, 0, 0, k, e.code, 7⟩))
  | .setvl d a e => some (BitField.join 6 26 0x36 (Vc.pack ⟨d, a, 0, e.code, 0, 0⟩))
  | .setvli d u e => some (BitField.join 6 26 0x36 (Vc.pack ⟨d, 0, u, e.code, 0, 1⟩))
  | .vld d a k e => some (BitField.join 6 26 0x28 (Vv.pack ⟨d, a, 0, k, e.code, 0⟩))
  | .vlds d a s k e => some (BitField.join 6 26 0x28 (Vv.pack ⟨d, a, s, k, e.code, 1⟩))
  | .vldx d a x k e => some (BitField.join 6 26 0x28 (Vv.pack ⟨d, a, x, k, e.code, 2⟩))
  | .vldseg d a f k e => some (BitField.join 6 26 0x28 (Vv.pack ⟨d, a, BitField.join 3 2 f 0#2, k, e.code, 3⟩))
  | .vldff d a k e => some (BitField.join 6 26 0x28 (Vv.pack ⟨d, a, 0, k, e.code, 4⟩))
  | .vst d a k e => some (BitField.join 6 26 0x29 (Vv.pack ⟨d, a, 0, k, e.code, 0⟩))
  | .vsts d a s k e => some (BitField.join 6 26 0x29 (Vv.pack ⟨d, a, s, k, e.code, 1⟩))
  | .vstx d a x k e => some (BitField.join 6 26 0x29 (Vv.pack ⟨d, a, x, k, e.code, 2⟩))
  | .vstseg d a f k e => some (BitField.join 6 26 0x29 (Vv.pack ⟨d, a, BitField.join 3 2 f 0#2, k, e.code, 3⟩))
  | .vpst d a k e => some (BitField.join 6 26 0x29 (Vv.pack ⟨d, a, 0, k, e.code, 4⟩))
  | .tzero d => some (BitField.join 6 26 0x2a (Rr74.pack ⟨BitField.join 2 3 0#2 d, 0, 0, 0, 0⟩))
  | .tld d a b n => some (BitField.join 6 26 0x2a (Rr74.pack ⟨BitField.join 2 3 0#2 d, a, b, BitField.join 4 3 n 0#3, 1⟩))
  | .tst d a b n => some (BitField.join 6 26 0x2a (Rr74.pack ⟨BitField.join 2 3 0#2 d, a, b, BitField.join 4 3 n 0#3, 2⟩))
  | .tmovvt d a b => some (BitField.join 6 26 0x2a (Rr74.pack ⟨BitField.join 2 3 0#2 d, a, b, 0, 3⟩))
  | .tmovtv d a b => some (BitField.join 6 26 0x2a (Rr74.pack ⟨d, BitField.join 2 3 0#2 a, b, 0, 4⟩))
  | .topa d a b z => some (BitField.join 6 26 0x2a (Rr74.pack ⟨BitField.join 2 3 0#2 d, a, b, BitField.join 6 1 0#6 (BitVec.ofBool z), 5⟩))
  | .tsave r => some (BitField.join 6 26 0x2a (Rr74.pack ⟨0, 0, 0, BitField.join 6 1 0#6 (BitVec.ofBool r), 6⟩))
  | .trestore => some (BitField.join 6 26 0x2a (Rr74.pack ⟨0, 0, 0, 0, 7⟩))
  | .mlease d a b w => some (BitField.join 6 26 0x2b (Rr74.pack ⟨d, a, b, BitField.join 6 1 0#6 (BitVec.ofBool w), 0⟩))
  | .mrelease => some (BitField.join 6 26 0x2b (Rr74.pack ⟨0, 0, 0, 0, 1⟩))
  | .mfmt a => some (BitField.join 6 26 0x2b (Rr74.pack ⟨0, a, 0, 0, 2⟩))
  | .plant a b t => some (BitField.join 6 26 0x2b (Rr74.pack ⟨0, a, b, BitField.join 6 1 0#6 (BitVec.ofBool t), 3⟩))
  | .mma d a b n z r => some (BitField.join 6 26 0x2b (Rr74.pack ⟨BitField.join 2 3 0#2 d, BitField.join 2 3 0#2 a, b, BitField.join 1 6 (BitVec.ofBool n) (BitField.join 1 5 (BitVec.ofBool z) (BitField.join 4 1 r 0#1)), 4⟩))
  | .mmas d a b n z r => some (BitField.join 6 26 0x2b (Rr74.pack ⟨BitField.join 2 3 0#2 d, a, b, BitField.join 1 6 (BitVec.ofBool n) (BitField.join 1 5 (BitVec.ofBool z) (BitField.join 4 1 r 0#1)), 5⟩))
  | .mzero d => some (BitField.join 6 26 0x2b (Rr74.pack ⟨BitField.join 2 3 0#2 d, 0, 0, 0, 6⟩))
  | .mdrain d a b r c k => some (BitField.join 6 26 0x2b (Rr74.pack ⟨d, a, b, BitField.join 4 3 r (BitField.join 1 2 (BitVec.ofBool c) k.code), 7⟩))
  | .mchain d a b c => some (BitField.join 6 26 0x2b (Rr74.pack ⟨d, BitField.join 2 3 0#2 a, b, BitField.join 4 3 0#4 (BitField.join 1 2 (BitVec.ofBool c) 0#2), 8⟩))
  | .mcoll d a b r c => some (BitField.join 6 26 0x2b (Rr74.pack ⟨d, a, BitField.join 2 3 0#2 b, BitField.join 4 3 r (BitField.join 1 2 (BitVec.ofBool c) 0#2), 9⟩))
  | .mstat d => some (BitField.join 6 26 0x2b (Rr74.pack ⟨d, 0, 0, 0, 10⟩))
  | .amoswap d a b s r q w => some (BitField.join 6 26 0x2c (RrAmo.pack ⟨d, a, b, s.code, BitVec.ofBool r, BitVec.ofBool q, w.code, 0⟩))
  | .amoadd d a b s r q w => some (BitField.join 6 26 0x2c (RrAmo.pack ⟨d, a, b, s.code, BitVec.ofBool r, BitVec.ofBool q, w.code, 1⟩))
  | .amoand d a b s r q w => some (BitField.join 6 26 0x2c (RrAmo.pack ⟨d, a, b, s.code, BitVec.ofBool r, BitVec.ofBool q, w.code, 2⟩))
  | .amoor d a b s r q w => some (BitField.join 6 26 0x2c (RrAmo.pack ⟨d, a, b, s.code, BitVec.ofBool r, BitVec.ofBool q, w.code, 3⟩))
  | .amoxor d a b s r q w => some (BitField.join 6 26 0x2c (RrAmo.pack ⟨d, a, b, s.code, BitVec.ofBool r, BitVec.ofBool q, w.code, 4⟩))
  | .amomin d a b s r q w => some (BitField.join 6 26 0x2c (RrAmo.pack ⟨d, a, b, s.code, BitVec.ofBool r, BitVec.ofBool q, w.code, 5⟩))
  | .amomax d a b s r q w => some (BitField.join 6 26 0x2c (RrAmo.pack ⟨d, a, b, s.code, BitVec.ofBool r, BitVec.ofBool q, w.code, 6⟩))
  | .amocas d a b s r q w => some (BitField.join 6 26 0x2c (RrAmo.pack ⟨d, a, b, s.code, BitVec.ofBool r, BitVec.ofBool q, w.code, 7⟩))
  | .amofadd d a b s r q w => some (BitField.join 6 26 0x2c (RrAmo.pack ⟨d, a, b, s.code, BitVec.ofBool r, BitVec.ofBool q, w.code, 8⟩))
  | .redadd a b s r w => some (BitField.join 6 26 0x2d (RrAmo.pack ⟨0, a, b, s.code, BitVec.ofBool r, 0, w.code, 0⟩))
  | .redmin a b s r w => some (BitField.join 6 26 0x2d (RrAmo.pack ⟨0, a, b, s.code, BitVec.ofBool r, 0, w.code, 1⟩))
  | .redmax a b s r w => some (BitField.join 6 26 0x2d (RrAmo.pack ⟨0, a, b, s.code, BitVec.ofBool r, 0, w.code, 2⟩))
  | .redfadd a b s r w => some (BitField.join 6 26 0x2d (RrAmo.pack ⟨0, a, b, s.code, BitVec.ofBool r, 0, w.code, 3⟩))
  | .redfmax a b s r w => some (BitField.join 6 26 0x2d (RrAmo.pack ⟨0, a, b, s.code, BitVec.ofBool r, 0, w.code, 4⟩))
  | .vredm d a b s r t => some (BitField.join 6 26 0x2d (RrAmo.pack ⟨d, a, b, s.code, BitVec.ofBool r, 0, t.code, 5⟩))
  | .binit a => some (BitField.join 6 26 0x2e (Sy.pack ⟨0, a, 0, 0⟩))
  | .barr d a c => some (BitField.join 6 26 0x2e (Sy.pack ⟨d, a, BitField.join 4 8 0#4 c, 1⟩))
  | .bexp d a r => some (BitField.join 6 26 0x2e (Sy.pack ⟨d, a, BitField.join 11 1 0#11 (BitVec.ofBool r), 2⟩))
  | .bwait d a => some (BitField.join 6 26 0x2e (Sy.pack ⟨d, a, 0, 3⟩))
  | .btestCnt d a => some (BitField.join 6 26 0x2e (Sy.pack ⟨d, a, BitField.join 11 1 0#11 0#1, 4⟩))
  | .btestFlg d a => some (BitField.join 6 26 0x2e (Sy.pack ⟨d, a, BitField.join 11 1 0#11 1#1, 4⟩))
  | .bdomRect a j => some (BitField.join 6 26 0x2e (Sy.pack ⟨0, a, BitField.join 5 7 0#5 (BitField.join 1 6 0#1 j), 5⟩))
  | .bdomList a j => some (BitField.join 6 26 0x2e (Sy.pack ⟨0, a, BitField.join 5 7 0#5 (BitField.join 1 6 1#1 j), 5⟩))
  | .evwait d a => some (BitField.join 6 26 0x2e (Sy.pack ⟨d, a, 0, 6⟩))
  | .evsig d a x => some (BitField.join 6 26 0x2e (Sy.pack ⟨d, a, BitField.join 11 1 0#11 (BitVec.ofBool x), 7⟩))
  | .evlock d a t => some (BitField.join 6 26 0x2e (Sy.pack ⟨d, a, BitField.join 11 1 0#11 (BitVec.ofBool t), 8⟩))
  | .evunlock a => some (BitField.join 6 26 0x2e (Sy.pack ⟨0, a, 0, 9⟩))
  | .waitv d a b k l c => some (BitField.join 6 26 0x2e (Sy.pack ⟨d, a, BitField.join 5 7 b (BitField.join 3 4 k (BitField.join 1 3 (BitVec.ofBool l) c.code)), 10⟩))
  | .cpq d a => some (BitField.join 6 26 0x2f (Rr74.pack ⟨d, a, 0, 0, 0⟩))
  | .cpqt d a => some (BitField.join 6 26 0x2f (Rr74.pack ⟨d, a, 0, 0, 1⟩))
  | .qfence m => some (BitField.join 6 26 0x2f (Rr74.pack ⟨0, 0, 0, BitField.join 3 4 0#3 m, 2⟩))
  | .qstatOcc d q => some (BitField.join 6 26 0x2f (Rr74.pack ⟨d, 0, 0, BitField.join 3 4 0#3 (BitField.join 2 2 0#2 q), 3⟩))
  | .qstatFaddr d q => some (BitField.join 6 26 0x2f (Rr74.pack ⟨d, 0, 0, BitField.join 3 4 0#3 (BitField.join 2 2 1#2 q), 3⟩))
  | .qstatFcause d q => some (BitField.join 6 26 0x2f (Rr74.pack ⟨d, 0, 0, BitField.join 3 4 0#3 (BitField.join 2 2 2#2 q), 3⟩))
  | .gcast d a b => some (BitField.join 6 26 0x2f (Rr74.pack ⟨d, a, b, 0, 4⟩))
  | .fence s r q c => some (BitField.join 6 26 0x30 (Sy.pack ⟨0, 0, BitField.join 6 6 0#6 (BitField.join 1 5 (BitVec.ofBool s) (BitField.join 1 4 (BitVec.ofBool r) (BitField.join 1 3 (BitVec.ofBool q) c.code))), 0⟩))
  | .fencei c => some (BitField.join 6 26 0x30 (Sy.pack ⟨0, 0, BitField.join 9 3 0#9 c.code, 1⟩))
  | .seedput d a => some (BitField.join 6 26 0x31 (Rr74.pack ⟨d, a, 0, 0, 0⟩))
  | .seedyield d a => some (BitField.join 6 26 0x31 (Rr74.pack ⟨d, a, 0, 0, 1⟩))
  | .seedend => some (BitField.join 6 26 0x31 (Rr74.pack ⟨0, 0, 0, 0, 2⟩))
  | .nestgo d a => some (BitField.join 6 26 0x31 (Rr74.pack ⟨d, a, 0, 0, 3⟩))
  | .prio d a => some (BitField.join 6 26 0x31 (Rr74.pack ⟨d, a, 0, 0, 4⟩))
  | .slotwait d n => some (BitField.join 6 26 0x31 (Rr74.pack ⟨d, 0, 0, BitField.join 6 1 0#6 (BitVec.ofBool n), 5⟩))
  | .tokb d => some (BitField.join 6 26 0x32 (Rr74.pack ⟨d, 0, 0, 0, 0⟩))
  | .verstage d a b => some (BitField.join 6 26 0x32 (Rr74.pack ⟨d, a, b, 0, 1⟩))
  | .verpub d a => some (BitField.join 6 26 0x32 (Rr74.pack ⟨d, a, 0, 0, 2⟩))
  | .verqCur d => some (BitField.join 6 26 0x32 (Rr74.pack ⟨d, 0, 0, BitField.join 5 2 0#5 0#2, 3⟩))
  | .verqReg d a => some (BitField.join 6 26 0x32 (Rr74.pack ⟨d, a, 0, BitField.join 5 2 0#5 1#2, 3⟩))
  | .verqSlot d a => some (BitField.join 6 26 0x32 (Rr74.pack ⟨d, a, 0, BitField.join 5 2 0#5 2#2, 3⟩))
  | .mark a w => some (BitField.join 6 26 0x32 (Rr74.pack ⟨0, a, 0, BitField.join 6 1 0#6 (BitVec.ofBool w), 4⟩))
  | .ttgo d a b => some (BitField.join 6 26 0x32 (Rr74.pack ⟨d, a, b, 0, 5⟩))
  | .ttstatSt d => some (BitField.join 6 26 0x32 (Rr74.pack ⟨d, 0, 0, BitField.join 5 2 0#5 0#2, 6⟩))
  | .ttstatEnt d a => some (BitField.join 6 26 0x32 (Rr74.pack ⟨d, a, 0, BitField.join 5 2 0#5 1#2, 6⟩))
  | .ttstatFaddr d => some (BitField.join 6 26 0x32 (Rr74.pack ⟨d, 0, 0, BitField.join 5 2 0#5 2#2, 6⟩))
  | .pin d a b w r => some (BitField.join 6 26 0x33 (Rr74.pack ⟨d, a, b, BitField.join 1 6 0#1 (BitField.join 3 3 w r), 0⟩))
  | .unpin r => some (BitField.join 6 26 0x33 (Rr74.pack ⟨0, 0, 0, BitField.join 4 3 0#4 r, 1⟩))
  | .hintef a b r => some (BitField.join 6 26 0x33 (Rr74.pack ⟨0, a, b, BitField.join 4 3 0#4 r, 2⟩))
  | .pref a b x l => some (BitField.join 6 26 0x33 (Rr74.pack ⟨0, a, b, BitField.join 4 3 0#4 (BitField.join 1 2 (BitVec.ofBool x) l.code), 3⟩))
  | .cflushWb a b => some (BitField.join 6 26 0x33 (Rr74.pack ⟨0, a, b, BitField.join 5 2 0#5 0#2, 4⟩))
  | .cflushWbi a b => some (BitField.join 6 26 0x33 (Rr74.pack ⟨0, a, b, BitField.join 5 2 0#5 1#2, 4⟩))
  | .cflushInv a b => some (BitField.join 6 26 0x33 (Rr74.pack ⟨0, a, b, BitField.join 5 2 0#5 2#2, 4⟩))
  | .alloc d a => some (BitField.join 6 26 0x33 (Rr74.pack ⟨d, a, 0, 0, 5⟩))
  | .free a b => some (BitField.join 6 26 0x33 (Rr74.pack ⟨0, a, b, 0, 6⟩))
  | .ecall => some (BitField.join 6 26 0x34 (Sy.pack ⟨0, 0, 0, 0⟩))
  | .ebreak => some (BitField.join 6 26 0x34 (Sy.pack ⟨0, 0, 0, 1⟩))
  | .eret => some (BitField.join 6 26 0x34 (Sy.pack ⟨0, 0, 0, 2⟩))
  | .csrrd d c => some (BitField.join 6 26 0x34 (Sy.pack ⟨d, 0, c, 3⟩))
  | .csrwr d a c => some (BitField.join 6 26 0x34 (Sy.pack ⟨d, a, c, 4⟩))
  | .csrset d a c => some (BitField.join 6 26 0x34 (Sy.pack ⟨d, a, c, 5⟩))
  | .csrclr d a c => some (BitField.join 6 26 0x34 (Sy.pack ⟨d, a, c, 6⟩))
  | .tlbinvPage a s => some (BitField.join 6 26 0x34 (Sy.pack ⟨0, a, BitField.join 6 6 0#6 (BitField.join 2 4 0#2 (BitField.join 1 3 0#1 s.code)), 7⟩))
  | .tlbinvCid a s => some (BitField.join 6 26 0x34 (Sy.pack ⟨0, a, BitField.join 6 6 0#6 (BitField.join 2 4 1#2 (BitField.join 1 3 0#1 s.code)), 7⟩))
  | .tlbinvCtx a s => some (BitField.join 6 26 0x34 (Sy.pack ⟨0, a, BitField.join 6 6 0#6 (BitField.join 2 4 2#2 (BitField.join 1 3 0#1 s.code)), 7⟩))
  | .tlbinvAll a s => some (BitField.join 6 26 0x34 (Sy.pack ⟨0, a, BitField.join 6 6 0#6 (BitField.join 2 4 3#2 (BitField.join 1 3 0#1 s.code)), 7⟩))
  | .rdtime d => some (BitField.join 6 26 0x34 (Sy.pack ⟨d, 0, 0, 8⟩))
  | .rdcyc d => some (BitField.join 6 26 0x34 (Sy.pack ⟨d, 0, 0, 9⟩))
  | .unassignedInstructionWord w => if (unassignedReason w).isSome then some w else none
  | .userReturn _ => none
  | .spadwaysWrite _ _ => none
  | .prioceilWrite _ _ => none
  | .diversionTableWrite _ _ _ => none
  | .dbgctlWrite _ => none
  | .spanSwitch _ => none
  | .timer _ => none
  | .asyncEventTake _ => none
  | .elementProgressTimer _ _ _ _ => none
  | .seedDispatch _ => none
  | .loadDataReturn _ _ => none
  | .acknowledgement _ => none
  | .remoteWriteArrival _ => none
  | .heldRead _ => none
  | .amoArrival _ => none
  | .messageRetry _ => none
  | .barrierArrival _ => none
  | .expectation _ => none
  | .byteSubtraction _ => none
  | .phaseMessage _ => none
  | .bexpReply _ => none
  | .bwaitWake _ => none
  | .evwaitWake _ => none
  | .evlockWake _ => none
  | .waitvWake _ => none
  | .slotwaitWake _ => none
  | .eventLineUpdate _ => none
  | .copyChunk _ _ => none
  | .collectivePerform _ => none
  | .leaseGrant _ => none
  | .budgetExpiry _ => none
  | .millCommandPerform _ => none
  | .mchainLanding _ _ => none
  | .slottedInjection _ => none
  | .shareRefill => none
  | .loadMonitorWindow _ => none
  | .ttEntryBegin _ _ => none
  | .ttEntryComplete _ _ => none
  | .hostSeedWrite _ _ _ => none
  | .semTake _ _ => none
  | .semRelease _ _ _ => none
  | .mailboxWrite _ _ _ => none
  | .barrierWindowArrive _ _ _ => none
  | .barrierWindowExpect _ _ _ => none
  | .eventLineInit _ _ => none
  | .eventLineSignal _ _ => none
  | .hostHdmWrite _ _ _ => none
  | .fwCreatePartition _ => none
  | .fwSetShareWeight _ => none
  | .fwDestroyPartition _ => none
  | .fwSetPowerState _ => none
  | .fwDebugGrant _ => none
  | .fwStartChipletCore _ => none
  | .reset => none
  | .powerWake => none
  | .supplySag _ => none
  | .tamper _ => none
  | .debugHalt _ => none
  | .getVersion _ => none
  | .getCapabilities _ => none
  | .negotiateAlgorithms _ => none
  | .getDigests _ => none
  | .getCertificate _ _ _ _ => none
  | .challenge _ _ => none
  | .getMeasurements _ _ => none
  | .keyExchange _ => none
  | .finish _ => none
  | .endSession _ => none
  | .longLatencyResult _ _ => none
  | .tlbinvComplete _ => none
  | .hostLinkTraining _ => none
  | .supplySagEnd _ => none

/-- The instruction that the decoder reads from a table word: one 32-bit word, its bits numbered from its least significant
bit (02 R26). -/
noncomputable def decodeTableWord (nbits w : Nat) : Option Instr :=
  if nbits = 0 then none
  else match decode (BitVec.ofNat 32 w) with
    | .ok i => some i
    | .error _ => none

end Sys2Proof
end

