-- ==== Sys2Proof/Config.lean ====
section
/-!
DEFINITION. Config.lean: what the spec leaves to a device, and the values that it leaves open.  A free value has no body:
nothing can be proved of it but that it is the same value for the same argument.
-/

namespace Sys2Proof

/-- The n-th value that the spec leaves open (log entry 6). -/
opaque Config.freeValue : Nat → Word

/-- SHA3-512 of a byte string (17 R398): the spec names the function and does not define it (log entry 7). -/
opaque Config.sha3_512 : List Byte → BitVec 512

/-- Whether a signature over a message verifies under ML-DSA-87 with a public key (17 R398, R402; log entry 7). -/
opaque Config.mlDsa87Verify : List Byte → List Byte → List Byte → Bool

/-- The public key under which debug grants are verified (17 R402; log entry 7). -/
opaque Config.grantKey : List Byte

/-- The signature of a message under ML-DSA-87 with the device's identity key (17 R400; log entry 7). -/
opaque Config.mlDsa87Sign : List Byte → List Byte

/-- The image of a boot stage, 0 to 3, in flash (17 R398; log entry 7). -/
opaque Config.stageImage : Nat → List Byte

/-- The signature of the image of a boot stage, and the public key that comes with it (17 R398; log entry 7). -/
opaque Config.stageSignature : Nat → List Byte
opaque Config.stageKey : Nat → List Byte

/-- The four fused key hashes, and which of them are revoked (17 R398; log entry 7). -/
opaque Config.keyHash : Nat → BitVec 512
opaque Config.keyRevoked : Nat → Bool

/-- The security version of the image of a boot stage (17 R398; log entry 7). -/
opaque Config.stageVersion : Nat → Nat

/-- The bytes of an SPDM response that the spec leaves to the device, by the response's code: the capabilities, the
algorithms, the certificate chain, the exchange data (17 R400; log entry 7). -/
opaque Config.spdmBytes : Nat → List Byte

end Sys2Proof
end

