-- ==== Sys2Proof/Machine/State.lean ====
section
/-!
DEFINITION. Machine/State.lean: the state of the module as plain data, and the state after reset.  Every strand, core,
cluster, partition and die keeps its registers in a record; a table lists the records that differ from their reset value.
-/

namespace Sys2Proof.Machine

/-! ## Tables -/

/-- A sparse table: the value at a number, where one is listed. -/
abbrev Tab (α : Type) := List (Nat × α)

/-- Modes (13 R325). -/
inductive Mode where
  | user | supervisor | firmware
  deriving DecidableEq, Repr

/-! ## Strands -/

/-- The three kinds of pending mark (04 R92). -/
inductive PendKind where
  | load | token | longLatency
  deriving DecidableEq, Repr

/-- The mark of a g register (04 R92, R93, 13 R354).  `waiting` has no value yet; `landing` has the value, and the address
of the load where the value is poisoned, and waits for its return event. -/
inductive Mark where
  | clear
  | waiting (kind : PendKind)
  | landing (kind : PendKind) (value : Word) (poison : Option Word)
  | poison (addr : Word)
  | tokenFault (addr status : Word)
  deriving DecidableEq, Repr

/-- What a strand is (04 R86, 13 R330). -/
inductive StrandKind where
  | none | gang | seed | nest | supervisor | chiplet
  deriving DecidableEq, Repr

/-- The instruction in which a strand sleeps, with its operands (11 R300, 14 R369). -/
inductive Sleep where
  | bwait (d a : Reg)
  | evwait (d a : Reg)
  | evlock (d a : Reg) (ticket : Nat)
  | waitv (d a b : Reg) (k : MaskReg) (l : Bool) (c : WaitCond)
  | slotwait (d : Reg) (tick : Nat)
  deriving DecidableEq, Repr

/-- What the home of a barrier answered to an expectation (11 R290). -/
inductive BexpReply where
  | phase (p : Bool)
  | overflow
  | discarded
  deriving DecidableEq, Repr

/-- The condition of an occupied strand (04 R90): ready; stalled until something else moves; asleep; waiting for the reply
to a BEXP (11 R290); for the grant of a lease (06 R177); for the injection of slotted messages (14 R367); for the data of
an FLW or FLD from another core (04 R93); for the value of an acquiring AMO from another core (10 R272); halted by the debugger
(17 R403). -/
inductive Cond where
  | ready
  | stalled
  | asleep (w : Sleep)
  | bexp (d a : Reg) (reply : Option BexpReply)
  | lease (d : Reg)
  | slotted
  | floatLoad (d : Reg)
  | acquire (d : Reg)
  | halted
  deriving DecidableEq, Repr

/-- What the read of a waiting vector load returned (10 R277): the location and size, the number, and whether it is poisoned. -/
structure Landed where
  key    : Nat
  size   : Nat
  value  : Nat
  poison : Bool
  deriving DecidableEq, Repr

/-- What a stalled instruction waits for (07 R212, R213): the element of a vector memory form or string form, and the kind and number
of the port.  `paid` counts the requests that the instruction has sent, and `seen` those that its present attempt has come to; `got`
holds what reads that it sent as messages have returned. -/
structure Await where
  elem : Nat := 0
  kind : Nat := 0
  port : Nat := 0
  paid : Nat := 0
  seen : Nat := 0
  got  : List Landed := []
  deriving DecidableEq, Repr

/-- The element-progress timer of a strand (07 R212): the core cycle at which it restarted, and the groups of 64 elements that
were complete then. -/
structure ProgTimer where
  since : Nat
  group : Nat := 0
  deriving DecidableEq, Repr

/-- One strand (04 R87).  `fenced`: its messages below this serial number come before the writes that it makes from now on (10
R270).  `nextIssue`: the first core cycle in which it may issue again (R90). -/
structure Strand where
  kind    : StrandKind := .none
  pc      : Word := 0
  g       : Vector Word 32 := Vector.replicate 32 0
  f       : Vector Word 32 := Vector.replicate 32 0
  v       : Vector VWord 32 := Vector.replicate 32 0
  m       : Vector MWord 8 := Vector.replicate 8 0
  mode    : Mode := .user
  fstat   : Word := 1
  vl      : Nat := 0
  estart  : Nat := 0
  usc     : Nat := 0
  nfmt    : Vector Word 4 :=
    #v[0x8000000000010214, 0x8000000002070418, 0x80000000010F0518, 0x8000000000030316]
  mxblk   : Nat := 0
  rngkey  : Word := 0
  rngctr  : Word := 0
  adopted : Option (BitVec 32) := none
  gang    : Nat := 0xFFFF
  member  : Nat := 0
  sizem1  : Nat := 0
  prio    : Nat := 0
  fmask   : MWord := 0
  utvec   : Word := 0
  uepc    : Word := 0
  ucause  : Word := 0
  uaddr   : Word := 0
  uinfo   : Word := 0
  sstatus : Word := 0
  sepc    : Word := 0
  scause  : Word := 0
  saddr   : Word := 0
  sinfo   : Word := 0
  fstatus : Word := 0
  fepc    : Word := 0
  fcause  : Word := 0
  marks   : Vector Mark 32 := Vector.replicate 32 .clear
  vpend   : BitVec 32 := 0
  vland   : List (Reg × VWord) := []
  harvest : Word := 0
  cond    : Cond := .ready
  age     : Nat := 0
  slotTie : Option Nat := none
  timer   : Option ProgTimer := none
  awaits  : Await := {}
  fetched : List (Nat × IWord) := []
  fenced  : Nat := 0
  nextIssue : Nat := 0
  deriving DecidableEq, Repr

/-! ## Cores -/

/-- The marking of a strand slot (04 R86), codes 0 to 4. -/
inductive SlotState where
  | unassigned | gangEmpty | gangOccupied | seedIdle | seedOccupied
  deriving DecidableEq, Repr

/-- One strand slot of a compute core (04 R86, R89, 06 R164). -/
structure Slot where
  state  : SlotState := .unassigned
  top    : Word := 0
  tsavea : Word := 0
  deriving DecidableEq, Repr

/-- The CSRs of context scope (13 R336). -/
structure CtxCsrs where
  sdeleg     : Word := 0
  ptbase     : Word := 0
  cidtag     : Word := 0
  spadways   : Word := 0
  prioceil   : Word := 0
  ptimerlim  : Word := 0x00100000
  slotper    : Word := 6
  slotmap    : Word := 0
  slotstrict : Word := 0
  alloctrap  : Word := 0
  heapbase   : Word := 0
  deriving DecidableEq, Repr

/-- One barrier (11 R281). -/
structure Barrier where
  target : Nat := 0
  arr    : Nat := 0
  count  : Int := 0
  phase  : Bool := false
  bound  : Bool := false
  dom    : Nat := 0
  err    : Bool := false
  deriving DecidableEq, Repr

/-- A destination core of an entry (09 R256): its bytes, the messages that carry them, and whether its subtraction is sent. -/
structure QDest where
  core  : Nat
  bytes : Nat := 0
  after : List Nat := []
  sent  : Bool := false
  deriving DecidableEq, Repr

/-- The group of a collective (09 R261): a gang's handle, or the index and the cores of a domain; the member's rank and the member
count. -/
structure CollGroup where
  gang  : Option Nat
  index : Nat := 0
  cores : List Nat
  rank  : Nat
  count : Nat
  deriving DecidableEq, Repr

/-- A weight-region slot that an entry resolved to, for reading or writing, and the state it had (15 R374). -/
structure QSlot where
  region : Nat
  write  : Bool
  slotNo : Nat
  state  : Nat
  deriving DecidableEq, Repr

/-- An entry of q0 to q2 (09 R238, R241, R346): its request words, the strand and token it belongs to, the translation it
keeps, and how far it has come: the segment and the byte in it, the bytes written, its destinations, and its status once it
has stopped; `slots` are the weight-region slots that it resolved to at enqueue (15 R374); `dead`: its strand has ended (R255). -/
structure QEntry where
  w0       : Word := 0
  w1       : Word := 0
  w2       : Word := 0
  w3       : Word := 0
  slot     : Nat := 0
  token    : Reg := 0
  seq      : Nat := 0
  prio     : Nat := 0
  mode     : Mode := .user
  cid      : Nat := 0
  part     : Option Nat := none
  ptbase   : Word := 0
  adopted  : Option (BitVec 32) := none
  targets  : Option (List Nat) := none
  data     : Option (List Byte) := none
  coll     : Option CollGroup := none
  desc     : List Byte := []
  seg      : Nat := 0
  off      : Nat := 0
  bytes    : Nat := 0
  dests    : List QDest := []
  slots    : List QSlot := []
  status   : Option Nat := none
  after    : List Nat := []
  dead     : Bool := false
  deriving DecidableEq, Repr

/-- A value still owed to a register of a departed strand (13 R344). -/
structure Owed where
  slot   : Nat
  reg    : Reg
  kind   : PendKind
  value  : Word
  poison : Option Word
  deriving DecidableEq, Repr

/-! ## Messages -/

/-- Who sent a message (13 R347, R350): the core index and slot of a strand or queue, the partition and context it acts for,
and whether the strand is a supervisor strand (R330).  `dead`: the strand has ended, and answers to it are discarded.
`engine`: a queue entry, mill command or tier engine sent it, and no fence of the strand waits for it (10 R271). -/
structure Sender where
  core : Nat := 0
  slot : Nat := 0
  cid  : Nat := 0
  part : Option Nat := none
  sup  : Bool := false
  dead : Bool := false
  engine : Bool := false
  deriving DecidableEq, Repr

/-- The integer and floating operations that are performed at a home (11 R302, R303). -/
inductive MemOp where
  | swap | add | and | or | xor | min | max | cas | fadd | fmax
  deriving DecidableEq, Repr

/-- What a message asks of its home (10 R276, 11 R287, R296, R301, R304, 13 R350).
`reds` carries the elements of one VREDM message.  `vload` is the read of a vector memory instruction that waits, at its
instruction, for the scratchpad of a context that is not resident (10 R277).  `packet` is a message whose effect is performed where it
is sent or answered: its flits, those of the answer to it, and the class of either (14 R359). -/
inductive MsgBody where
  | store (cells : List (Nat × Byte))
  | red (op : MemOp) (width : AmoWidth) (key : Nat) (value : Word)
  | reds (op : MemOp) (width : AmoWidth) (items : List (Nat × Word))
  | vload (key size : Nat)
  | load (key size : Nat) (signed : Bool) (reg : Reg) (float : Bool)
  | amo (op : MemOp) (width : AmoWidth) (order key : Nat) (addr value expected : Word) (reg : Reg)
  | arrive (bar n : Nat)
  | expect (bar : Nat) (n : Nat) (arr : Bool) (reply : Option Reg)
  | subtract (bar n : Nat)
  | phase (bar : Nat) (p : Bool)
  | evsig (line : Nat) (value : Word) (add : Bool)
  | packet (flits back cls backCls : Nat)
  deriving DecidableEq, Repr

/-- The mark of a rim-bank line, and of the fill of an access (08 R224, R231): none, evict-first, or pinned, with the partition
and retention register it was made by. -/
inductive RimMark where
  | ordinary
  | evictFirst (part reg : Nat)
  | pinned (part reg : Nat)
  deriving DecidableEq, Repr

/-- A packet on its way (14 R359 to R362): its route phase, the router it stands at, the input port it stands in, the GTIME of its
injection, its age and the ticks it has been blocked towards the next one, the GTIME at which it came to this buffer, and the
output port that sends it with the flits still to be sent. -/
structure Travel where
  phase    : Nat := 1
  x        : Nat
  y        : Nat
  inPort   : Nat
  injected : Nat
  age      : Nat := 0
  blocked  : Nat := 0
  since    : Nat := 0
  sending  : Option (Nat × Nat) := none
  deriving DecidableEq, Repr

/-- A message in flight (10 R267, 14 R359).  `home` is the core whose scratchpad or event unit it is for, or none for a
G-space home; `dest` orders the messages of one pair.  A message may wait at its home for the strand's earlier remote writes
(`release`, 10 R272; `fence`, those below a serial number, R270) or at its core's port for its share, be slotted, be refused for a
retry, or be held at the ingress of a merging core.  `diverted`: a load or AMO whose record stands in a shadow image, which has not been performed (13 R350).
`user`, `prio` and `bulk` are what the network's rules ask of its packet (14 R359, R362, R364); `tag` is its retention tag (08
R231).  `travel`: where its packet is, and none once it stands at its home; `via`: the router that two-phase routing takes it
through (14 R361); `origin`: the core that forwarded it to a domain's home (11 R287). -/
structure Msg where
  sender  : Sender
  home    : Option Nat
  dest    : Nat
  body    : MsgBody
  serial  : Nat := 0
  counted : Bool := false
  release : Bool := false
  fence   : Nat := 0
  atPort  : Bool := false
  slotted : Bool := false
  refused : Bool := false
  held    : Bool := false
  diverted : Bool := false
  user    : Bool := false
  prio    : Nat := 0
  bulk    : Bool := false
  tag     : RimMark := .ordinary
  travel  : Option Travel := none
  via     : Option (Nat × Nat) := none
  origin  : Option Nat := none
  deriving DecidableEq, Repr

/-- A message of an instruction that waits for its slots (14 R367): the elements that it performs, with their addresses; its serial
number once it is injected; what ESTART and FMASK hold once the instruction has ended, the length to which it then trims VL, and whether
its form is indexed; and the exception, as its code, address and information, that ends it after its last message. -/
structure Slotted where
  slot    : Nat
  msg     : Msg
  elems   : List (Nat × Word) := []
  serial  : Option Nat := none
  settled : Option (Nat × MWord) := none
  trim    : Option Nat := none
  indexed : Bool := false
  fault   : Option (Nat × Word × Word) := none
  deriving DecidableEq, Repr

/-- The values that SLOTPER, SLOTMAP and SLOTSTRICT had before they were written at a tick: a write takes effect at the next
(14 R366). -/
structure SlotRegs where
  tick   : Nat
  per    : Word
  map    : Word
  strict : Word
  deriving DecidableEq, Repr

/-! ## The mill -/

/-- An aligned cell of a panel (06 R174, 03 R74, R75): a sign and 16 magnitude bits, a non-zero element whose magnitude was
aligned to zero, an infinity or a NaN. -/
inductive Cell where
  | num (neg : Bool) (q : Nat)
  | tiny (neg : Bool)
  | inf (neg : Bool)
  | nan
  deriving DecidableEq, Repr

/-- One alignment group of a panel column (06 R174, R186): the exponent of the group, and its cells by their position in the
group; positions not listed hold +0, and in a sparse panel no cell names them. -/
structure PanelGroup where
  exp   : Int := 0
  cells : List (Nat × Cell) := []
  deriving DecidableEq, Repr

/-- The version tag of a tray (06 R184, R185): none, a region and the version planted from, or a tag that no version
matches. -/
inductive TrayTag where
  | none
  | version (region : Nat) (ver : BitVec 32)
  | stale (region : Nat) (ver : BitVec 32)
  deriving DecidableEq, Repr

/-- What a tray records beside its cells (06 R174): group size, sparsity and tag. -/
structure Tray where
  group : Nat := 32
  spn   : Nat := 0
  tag   : TrayTag := .none
  deriving DecidableEq, Repr

/-- A format context (06 R182): the word of MFMT and the NFMT registers and MXBLK as they stood at its issue. -/
structure FmtCtx where
  word : Word := 0
  nfmt : Vector Word 4 :=
    #v[0x8000000000010214, 0x8000000002070418, 0x80000000010F0518, 0x8000000000030316]
  deriving DecidableEq, Repr

/-- A plant descriptor with its tray range and tag (06 R183, R184). -/
structure PlantArgs where
  src   : Word
  pitch : Word
  kv    : Nat
  nv    : Nat
  aux   : Word
  t0    : Nat
  nt    : Nat
  tile  : Bool
  tag   : TrayTag
  slotNo : Nat
  mode  : Mode
  adopted : Option (BitVec 32)
  deriving DecidableEq, Repr

/-- A plant record (06 R184); `limit` is how many groups a plant that was stopped had planted (06 R195). -/
structure PlantRec where
  args  : PlantArgs
  fmt   : FmtCtx
  limit : Option Nat := none
  deriving DecidableEq, Repr

/-- A q3 command (06 R180 to R191). -/
inductive MillOp where
  | release
  | mfmt (fmt : FmtCtx)
  | plant (args : PlantArgs)
  | mma (acc tile c0 nc rows : Nat) (neg za : Bool)
  | mmas (acc : Nat) (addr pitch : Word) (c0 nc rows : Nat) (neg za : Bool)
  | mzero (acc : Nat)
  | drainAddr (addr pitch : Word) (acc c0 nc rows : Nat) (clr : Bool) (token : Reg)
  | drainTile (tile : Nat) (acc c0 nc rows : Nat) (clr : Bool) (token : Reg)
  | mchain (v : Reg) (acc row c : Nat) (clr : Bool)
  | mcoll (entry : QEntry) (acc rows : Nat) (clr : Bool)
  deriving DecidableEq, Repr

/-- An entry of q3 with what its strand held at issue (06 R193, R194); `slots` are the weight-region slots that its reads resolve to
(15 R374); `dead` once its strand has ended (12 R322). -/
structure MillCmd where
  op       : MillOp
  slot     : Nat
  seq      : Nat
  mode     : Mode
  part     : Option Nat
  adopted  : Option (BitVec 32)
  slots    : List QSlot := []
  dead     : Bool := false
  progress : Nat := 0
  after    : List Nat := []
  deriving DecidableEq, Repr

/-- Where a lease stands (06 R177 to R180, R196): waiting behind another lease of its core, waiting for trays, granted. -/
inductive LeaseStatus where
  | queued | contending | granted
  deriving DecidableEq, Repr

/-- A lease or a request for one (06 R175 to R179); `part` is the partition of its owner, none for a supervisor strand. -/
structure Lease where
  slot     : Nat
  part     : Option Nat
  request  : Word
  save     : Word
  pages    : List Nat
  prio     : Nat
  issued   : Nat
  joined   : Nat := 0
  status   : LeaseStatus
  displaced : Bool := false
  released : Bool := false
  left     : Nat := 0
  since    : Nat := 0
  fmt      : FmtCtx := {}
  trays    : Tab Tray := []
  panel    : Tab PanelGroup := []
  acc      : Tab Nat := []
  records  : List PlantRec := []
  replant  : Bool := false
  redo     : Nat := 0
  inArea   : Bool := false
  deriving DecidableEq, Repr

/-- A halted q3 command (06 R194): its strand's slot, whether that is a supervisor strand, the failing address and the record's
INFO. -/
structure MillHalt where
  slot  : Nat
  sup   : Bool
  addr  : Word
  info  : Word
  taken : Bool := false
  deriving DecidableEq, Repr

/-- The tile file and its owner (06 R162 to R165). -/
structure TileFile where
  valid  : Bool := false
  cid    : Nat := 0
  slot   : Nat := 0
  part   : Option Nat := none
  mode   : Mode := .user
  absent : BitVec 8 := 0
  dirty  : BitVec 8 := 0
  ptbase : Word := 0
  area   : Word := 0
  tiles  : Tab TWord := []
  deriving DecidableEq, Repr

/-- A context that left a core and has not come back (13 R341 to R346): what the core still keeps of it. -/
structure Departed where
  cid     : Nat
  part    : Nat
  husk    : Nat
  ptbase  : Word
  ways    : Nat := 0
  queues  : Vector (List QEntry) 3 := #v[[], [], []]
  owed    : List Owed := []
  spilled : List Msg := []
  qseq    : Vector Nat 4 := #v[0, 0, 0, 0]
  lease   : Option Lease := none
  q3      : List MillCmd := []
  halt    : Option MillHalt := none
  harvests : Tab Word := []
  marks   : Tab (Vector Mark 32) := []
  halted  : List Nat := []
  firm    : Tab (Word × Word × Word) := []
  ties    : Tab Nat := []
  fences  : Tab Nat := []
  qfaults : Tab (Word × Nat) := []
  deriving DecidableEq, Repr

/-- A diversion entry as the core read it (13 R349). -/
structure DivEntry where
  index  : Nat
  addr   : Nat
  cid    : Nat
  kind   : Nat
  full   : Bool
  lo     : Nat
  hi     : Nat
  part   : Nat
  shadow : Nat
  size   : Nat
  used   : Nat
  deriving DecidableEq, Repr

/-- A message waiting in a mailbox (17 R395). -/
structure Mail where
  value    : Word
  sender   : Nat
  fromHost : Bool
  lost     : Bool
  deriving DecidableEq, Repr

/-- An orphan that has not been taken (13 R352). -/
structure Orphan where
  addr  : Word
  info  : Word
  count : Nat
  deriving DecidableEq, Repr

/-- The asynchronous events pending at a core (13 R330, R351 to R357). -/
structure Pending where
  timer   : Option Word := none
  orphan  : Option Orphan := none
  divFull : List (Word × Word) := []
  mail    : Option Mail := none
  absent  : Option (Word × Word) := none
  deriving DecidableEq, Repr

/-- A token bucket (14 R364, R365). -/
structure Bucket where
  level    : Int := 0
  capacity : Nat := 0
  fullOnce : Bool := false
  idle     : Bool := false
  deriving DecidableEq, Repr

/-- One compute or chiplet core; each of its ports issues next in the core cycle that is noted, or later (04 R90). -/
structure Core where
  resident : Bool := false
  part     : Nat := 0
  husk     : Nat := 0
  csrs     : CtxCsrs := {}
  idleCsrs : CtxCsrs := {}
  slots    : Vector Slot 4 := Vector.replicate 4 {}
  stvec    : Word := 0
  sscratch : Word := 0
  switchat : Word := 0xFFFFFFFFFFFFFFFF
  nextcid  : Word := 0
  divbase  : Word := 0
  divcount : Word := 0
  divtab   : List DivEntry := []
  ftvec    : Word := 0x10000
  tiles    : TileFile := {}
  barriers : Tab Barrier := []
  domains  : Tab (List Nat) := []
  queues   : Vector (List QEntry) 3 := #v[[], [], []]
  qseq     : Vector Nat 4 := #v[0, 0, 0, 0]
  qfaults  : Tab (Word × Nat) := []
  q3       : List MillCmd := []
  halt     : Option MillHalt := none
  leases   : List Lease := []
  pending  : Pending := {}
  arrival  : Nat := 0
  merging  : Bool := false
  logged   : Nat := 0
  departed : List Departed := []
  waiting0 : Option Strand := none
  slotPend : List Slotted := []
  slotOld  : Option SlotRegs := none
  portFree : Nat := 0
  buckets  : Tab Bucket := []
  pool     : Nat := 0
  lastScalar : Nat := 3
  lastVector : Nat := 3
  nextScalar : Nat := 0
  nextVector : Nat := 0
  deriving DecidableEq, Repr

/-- One cluster: its stretched cycles, the cycles it has lost to them, and whether the present cycle is stretched (17 R396,
R401, R404, 01 R20). -/
structure Cluster where
  late    : Bool := false
  stretch : Nat := 0
  behind  : Nat := 0
  sag     : Bool := false
  gated   : Bool := false
  deriving DecidableEq, Repr

/-! ## Partitions -/

/-- A seed or nest iteration's record (12 R309). -/
structure Seed where
  pc      : Word
  frame   : Word
  args    : Vector Word 4
  harvest : Word
  prio    : Nat
  adopt   : Bool
  after   : List Nat := []
  deriving DecidableEq, Repr

/-- A seed queue: its records, its blocks, the records already taken from the first block, and the age and start of its
head as a contender (12 R312, R318). -/
structure SeedQueue where
  seeds  : List Seed := []
  blocks : List Nat := []
  taken  : Nat := 0
  age    : Nat := 0
  since  : Option Nat := none
  deriving DecidableEq, Repr

/-- A nest handed to the walker: its record, its clamped priority and the position reached (12 R314, R315, R323). -/
structure Nest where
  pc      : Word
  frame   : Word
  order   : Nat
  dims    : List (Int × Nat × Int)
  prio    : Nat
  adopt   : Bool
  harvest : Word
  after   : List Nat := []
  next    : Nat := 0
  deriving DecidableEq, Repr

/-- The modes of a retention register (08 R231). -/
inductive RetentionMode where
  | inactive | pinned | evictFirst
  deriving DecidableEq, Repr

/-- A retention register (08 R231). -/
structure Retention where
  mode : RetentionMode := .inactive
  base : Nat := 0
  len  : Nat := 0
  ways : Nat := 0
  deriving DecidableEq, Repr

/-- States of a timetable entry (16 R385), codes 0 to 3. -/
inductive TtState where
  | pending | inFlight | met | failed
  deriving DecidableEq, Repr

/-- A timetable entry and its state (16 R383, R385): of a moving one its copy, and the cause and address of the fault that has
stopped it; of a fetch to the rim cache the bytes it has come to; and the messages that the entry follows, where a MARK has let it begin
(R388). -/
structure TtEntry where
  marker : Nat
  action : Nat
  tier   : Nat
  base   : Word
  length : Word
  flags  : Nat
  state  : TtState := .pending
  cause  : Nat := 0
  faddr  : Word := 0
  copy   : Option QEntry := none
  fault  : Option (Nat × Word) := none
  fetched : Nat := 0
  after  : List Nat := []
  deriving DecidableEq, Repr

/-- A partition's tier engine: the active timetable, and what the strand that executed TTGO held (16 R385 to R388). -/
structure Tier where
  active  : Bool := false
  header  : Word := 0
  latest  : Nat := 0
  entries : List TtEntry := []
  core    : Nat := 0
  slot    : Nat := 0
  cid     : Nat := 0
  ptbase  : Word := 0
  mode    : Mode := .user
  adopted : Option (BitVec 32) := none
  deriving DecidableEq, Repr

/-- One partition (12 R305, 17 R397); `born` is the tick at which it was made. -/
structure Partition where
  made      : Bool := false
  mask      : BitVec 128 := 0
  weight    : Nat := 0
  sched     : Nat := 0
  vtable    : Nat := 0
  born      : Nat := 0
  queues    : Vector SeedQueue 12 := Vector.replicate 12 {}
  nests     : List Nest := []
  nestAge   : Nat := 0
  nestSince : Option Nat := none
  accepted  : Nat := 0
  refused   : Nat := 0
  retention : Vector Retention 8 := Vector.replicate 8 {}
  alloctrap : Word := 0
  heapbase  : Word := 0
  tier      : Tier := {}
  deriving DecidableEq, Repr

/-! ## The module -/

/-- The states of a slice line (08 R221). -/
inductive Moesi where
  | modified | owned | exclusive | shared
  deriving DecidableEq, Repr

/-- A line of a core's slice cache (08 R221): its number, its state, and, where the slice holds newer data than the home, the
home's bytes, each with its poison. -/
structure SliceLine where
  core  : Nat
  line  : Nat
  state : Moesi
  home  : Option (List (Byte × Bool)) := none
  deriving DecidableEq, Repr

/-- A line of a rim bank (08 R224): its number, its mark, and the order of its fill and of its latest use. -/
structure RimLine where
  line   : Nat
  mark   : RimMark := .ordinary
  filled : Nat
  used   : Nat
  deriving DecidableEq, Repr

/-- A cached translation (08 R229): the core whose L1 TLB holds it, or, where `shared`, a core of the cluster whose L2 TLB
holds it; the CID and partition it was filled under, the page and the leaf. -/
structure TlbEntry where
  core   : Nat
  cid    : Nat
  base   : Nat
  size   : Nat
  leaf   : Word
  glob   : Bool
  shared : Bool := false
  deriving DecidableEq, Repr

/-- What a TLB invalidation removes (08 R230). -/
inductive TlbKind where
  | page (va : Word) (cid : Nat)
  | cid (cid : Nat)
  | ctx
  | all
  deriving DecidableEq, Repr

/-- A TLB invalidation under way: once the entries are gone, the messages that may have used them (08 R230). -/
structure TlbInv where
  core  : Nat
  slot  : Nat
  scope : Scope
  kind  : TlbKind
  after : Option (List Nat) := none
  deriving DecidableEq, Repr

/-- The record of a gang (12 R308): the strand key that each member index occupies, and the members that have ended. -/
structure Gang where
  part    : Nat
  handle  : Nat
  members : Tab Nat
  ended   : List Nat := []
  deriving DecidableEq, Repr

/-- What a host port was sent (17 R392, R400). -/
inductive PortMsg where
  | msix (vector : Nat)
  | data (value : Word)
  | bytes (xs : List Byte) (poison : Bool)
  | unsupported
  | spdm (code : Nat) (body : List Byte)
  deriving DecidableEq, Repr

/-- An access to the S windows or to host-visible memory, held while the module wakes (17 R401). -/
inductive HostWrite where
  | hdm (port offset : Nat) (x : HostAccess)
  | bar (port offset : Nat) (x : HostAccess)
  | mail (core : Nat) (sender : BitVec 16) (value : Word)
  | sem (agent : BitVec 16) (cell : Nat) (value : Word)
  | take (agent : BitVec 16) (cell : Nat)
  deriving DecidableEq, Repr

/-- The session of a port's SPDM responder (17 R400): nothing agreed, version given, capabilities given, algorithms agreed,
keys exchanged, session open. -/
inductive SpdmState where
  | start | version | capabilities | negotiated | exchanging | session
  deriving DecidableEq, Repr

/-- A host port (17 R391, R392, R400). -/
structure Port where
  linkUp : Bool := false
  width  : Nat := 0
  rate   : Nat := 0
  cxl    : Bool := false
  spdm   : SpdmState := .start
  sent   : List PortMsg := []
  deriving DecidableEq, Repr

/-- Security states (17 R396), codes 0 to 3. -/
inductive SecState where
  | factoryOpen | production | granted | faultLocked
  deriving DecidableEq, Repr

/-- Power states (17 R401). -/
inductive Power where
  | active | retention | off
  deriving DecidableEq, Repr

/-- A die's load monitor (14 R361), and the tick at which its window began. -/
structure Monitor where
  began    : Nat := 0
  counts   : Tab Nat := []
  twoPhase : Bool := false
  calm     : Nat := 0
  deriving DecidableEq, Repr

/-- The state of the module.  `net` holds the messages that are performed at their homes, and `traffic` the packets of the others.  `slept`: the
ticks that passed in retention (17 R401); `salhal`: Salhal has been started (R398, R400). -/
structure State where
  mem      : List Host.Cell := []
  poisoned : List Nat := []
  gtime    : Nat := 0
  cycles   : Nat := 0
  slept    : Nat := 0
  strands  : Tab Strand := []
  cores    : Tab Core := []
  clusters : Tab Cluster := []
  parts    : Tab Partition := []
  monitors : Tab Monitor := []
  ports    : Tab Port := []
  net      : List Msg := []
  traffic  : List Msg := []
  sent     : Nat := 0
  acks     : List Sender := []
  served   : Tab Nat := []
  l1       : List (Nat × Nat) := []
  rdc      : List (Nat × Nat) := []
  slices   : List SliceLine := []
  rim      : Tab (List RimLine) := []
  rimUses  : Nat := 0
  tlb      : List TlbEntry := []
  tlbinv   : List TlbInv := []
  gangs    : List Gang := []
  lines    : Tab Word := []
  cellsSem : Tab Word := []
  domain   : Nat := 0
  modules  : List Nat := []
  hdmBase  : Nat := 0
  hdmSize  : Nat := 0
  prodFuse : Bool := true
  secState : SecState := .production
  dbg      : Nat := 0
  dbgctl   : Nat := 0
  grant    : Option Nat := none
  minsvn   : Nat := 0
  salhal   : Bool := false
  ident    : BitVec 512 := 0
  meas     : Vector (BitVec 512) 4 := Vector.replicate 4 0
  booted   : Bool := false
  power    : Power := .active
  wakeAt   : Option Nat := none
  hostHeld : List HostWrite := []
  cur      : Nat := 4096
  agenda   : List Instr := []
  turns    : List Nat := []
  ticks    : List Nat := []
  lags     : List Bool := []
  fresh    : Nat := 0
  refilled : Nat := 0
  lastTurn : Nat := 0
  deriving DecidableEq, Repr

/-! ## Why a run stops -/

/-- Faults of the model: there is none, since every exception of the spec is a next state. -/
inductive Fault
  deriving DecidableEq, Repr

/-- Refusals of the model. -/
inductive Refusal where
  /-- Raised by an arm of `exec` for an instruction whose meaning has not been written.  Safe. -/
  | notModelled (mnemonic : String)
  deriving DecidableEq, Repr

/-! ## Reset -/

/-- The machine right after reset, before the boot ROM has run (17 R398): nothing runs, and memory lists nothing.  Its next
step is the RESET event. -/
def State.reset : State := {}

end Sys2Proof.Machine
end

