-- ==== Sys2Proof/Machine/Table.lean ====
section
/-!
DEFINITION. Machine/Table.lean: reading and writing the sparse tables of the state, and the records of strands, cores,
clusters and partitions.
-/

namespace Sys2Proof.Machine

/-- The value at `k`, or `d` where none is listed. -/
def Tab.get {α : Type} (d : α) : Tab α → Nat → α
  | [], _ => d
  | (j, x) :: t, k => if j = k then x else Tab.get d t k

/-- The table with `x` placed at `k`, in rising order of the numbers. -/
def Tab.place {α : Type} (k : Nat) (x : α) : Tab α → Tab α
  | [] => [(k, x)]
  | (j, y) :: t => if k < j then (k, x) :: (j, y) :: t else (j, y) :: Tab.place k x t

/-- The table without an entry at `k`. -/
def Tab.drop {α : Type} (k : Nat) : Tab α → Tab α
  | [] => []
  | (j, y) :: t => if j = k then Tab.drop k t else (j, y) :: Tab.drop k t

/-- The table with `x` at `k`. -/
def Tab.set {α : Type} (t : Tab α) (k : Nat) (x : α) : Tab α := Tab.place k x (Tab.drop k t)

/-- A strand that holds nothing. -/
def Strand.blank : Strand := {}

/-- A compute core as the boot leaves it (13 R417): its idle set, in force, holds the PTBASE of chiplet core 0. -/
def Core.released : Core := { csrs := { ptbase := 0x1001 } }

/-- Strand `k`: core number times 4 plus slot (04 R120). -/
def State.strandAt (s : State) (k : Nat) : Strand := Tab.get Strand.blank s.strands k

/-- The state with strand `k` replaced. -/
def State.setStrand (s : State) (k : Nat) (t : Strand) : State := { s with strands := Tab.set s.strands k t }

/-- The strand that moves. -/
def State.me (s : State) : Strand := s.strandAt s.cur

/-- The state with the strand that moves replaced. -/
def State.setMe (s : State) (t : Strand) : State := s.setStrand s.cur t

/-- Core `c`: 0 to 1,023 compute cores, 1,024 to 1,039 chiplet cores (04 R120). -/
def State.coreAt (s : State) (c : Nat) : Core := Tab.get Core.released s.cores c

/-- The state with core `c` replaced. -/
def State.setCore (s : State) (c : Nat) (x : Core) : State := { s with cores := Tab.set s.cores c x }

/-- The core number of the strand that moves. -/
def State.myCoreNo (s : State) : Nat := s.cur / 4

/-- The slot of the strand that moves. -/
def State.mySlotNo (s : State) : Nat := s.cur % 4

/-- The core of the strand that moves. -/
def State.myCore (s : State) : Core := s.coreAt s.myCoreNo

/-- The state with the core of the strand that moves replaced. -/
def State.setMyCore (s : State) (x : Core) : State := s.setCore s.myCoreNo x

/-- Core `c` is on the processor chiplet (01 R17). -/
def isChiplet (c : Nat) : Bool := decide (1024 ≤ c)

/-- The cluster of a compute core, 0 to 127: two rows by four columns of its die (01 R13). -/
def clusterOf (c : Nat) : Nat := c / 256 * 32 + c / 16 % 16 / 2 * 4 + c % 16 / 4

/-- The index of a core within its cluster, 0 to 7 (01 R13). -/
def localIndex (c : Nat) : Nat := c / 16 % 2 * 4 + c % 4

/-- Cluster `c`. -/
def State.clusterAt (s : State) (c : Nat) : Cluster := Tab.get {} s.clusters c

/-- The state with a cluster replaced. -/
def State.setCluster (s : State) (c : Nat) (x : Cluster) : State := { s with clusters := Tab.set s.clusters c x }

/-- Partition `p`. -/
def State.partAt (s : State) (p : Nat) : Partition := Tab.get {} s.parts p

/-- The state with partition `p` replaced. -/
def State.setPart (s : State) (p : Nat) (x : Partition) : State := { s with parts := Tab.set s.parts p x }

/-- Host port `p`. -/
def State.portAt (s : State) (p : Nat) : Port := Tab.get {} s.ports p

/-- The state with host port `p` replaced. -/
def State.setPort (s : State) (p : Nat) (x : Port) : State := { s with ports := Tab.set s.ports p x }

/-- The load monitor of die `d`. -/
def State.monitorAt (s : State) (d : Nat) : Monitor := Tab.get {} s.monitors d

/-- The state with the load monitor of die `d` replaced. -/
def State.setMonitor (s : State) (d : Nat) (x : Monitor) : State := { s with monitors := Tab.set s.monitors d x }

end Sys2Proof.Machine
end

