-- ==== Sys2Proof/Machine/Memory.lean ====
section
/-!
DEFINITION. Machine/Memory.lean: the module's memory as bytes at locations.  A location is a number: a byte of local HBM is
die * 2^38 + die offset (08 R217), a byte of a scratchpad is 2^48 + core * 2^20 + offset (07 R197), and any other byte is its
physical address (08 R216).  An unlisted location reads as zero (log entry 5).
-/

namespace Sys2Proof.Machine

/-- The byte at a location. -/
def Mem.read : List Host.Cell → Nat → Byte
  | [], _ => 0
  | (k, b) :: m, a => if k = a then b else Mem.read m a

/-- The memory without an entry at a location. -/
def Mem.drop : List Host.Cell → Nat → List Host.Cell
  | [], _ => []
  | (k, b) :: m, a => if k = a then Mem.drop m a else (k, b) :: Mem.drop m a

/-- The memory with an entry placed in rising order. -/
def Mem.place : List Host.Cell → Nat → Byte → List Host.Cell
  | [], a, x => [(a, x)]
  | (k, b) :: m, a, x => if a < k then (a, x) :: (k, b) :: m else (k, b) :: Mem.place m a x

/-- The memory with one byte written; a zero byte is not listed. -/
def Mem.write (m : List Host.Cell) (a : Nat) (x : Byte) : List Host.Cell :=
  if x = 0 then Mem.drop m a else Mem.place (Mem.drop m a) a x

/-- The addresses of a memory rise from `lo`. -/
def Mem.rising : Nat → List Host.Cell → Bool
  | _, [] => true
  | lo, (k, _) :: m => decide (lo ≤ k) && Mem.rising (k + 1) m

/-- The canonical form: addresses strictly rising, and no entry that reads as an unlisted address does. -/
def Mem.wf (m : List Host.Cell) : Bool := Mem.rising 0 m && m.all fun c => c.2 != 0

/-- The canonical form of a state's memory. -/
abbrev Memory.wf (s : State) : Bool := Mem.wf s.mem

/-- The byte at a location. -/
def State.byteAt (s : State) (a : Nat) : Byte := Mem.read s.mem a

/-- The `n` bytes from a location. -/
def State.bytesAt (s : State) (a n : Nat) : List Byte := (List.range n).map fun i => s.byteAt (a + i)

/-- The little-endian number in the `n` bytes from a location (00 R2). -/
def State.readMem (s : State) (a n : Nat) : Nat := natOfBytes (s.bytesAt a n)

/-- Some of the `n` bytes from a location are poisoned (04 R93). -/
def State.isPoisoned (s : State) (a n : Nat) : Bool := s.poisoned.any fun p => decide (a ≤ p) && decide (p < a + n)

/-- The state with one byte written at its home: writing it ends its poison, and no cache keeps a copy of its 64-byte line (08
R221). -/
def State.writeByte (s : State) (a : Nat) (x : Byte) : State :=
  { s with mem := Mem.write s.mem a x, poisoned := s.poisoned.filter (· != a),
           l1 := s.l1.filter (·.2 != a / 64), rdc := s.rdc.filter (·.2 != a / 64),
           slices := s.slices.filter (·.line != a / 64) }

/-- The state with bytes written from a location. -/
def State.writeBytes (s : State) (a : Nat) : List Byte → State
  | [] => s
  | b :: bs => State.writeBytes (s.writeByte a b) (a + 1) bs

/-- The state with the low `n` bytes of a number written from a location (00 R2). -/
def State.writeMem (s : State) (a n v : Nat) : State := s.writeBytes a (bytesOf n v)

/-- The location of a byte of a core's scratchpad. -/
def scratchKey (core off : Nat) : Nat := 2 ^ 48 + core * 2 ^ 20 + off

end Sys2Proof.Machine
end

