-- ==== Sys2Proof/Machine/Ops.lean ====
section
/-!
DEFINITION. Machine/Ops.lean: the operations every meaning is written with: reading and writing registers under their marks
(04 R92 to R94), moving the pc, and taking an exception and returning from one (13 R325 to R334, 17 R396).
-/

namespace Sys2Proof.Machine

/-- The outcome of a meaning. -/
abbrev Out := Host.Outcome State Fault Refusal

/-- The cycle counter of a core: its cluster has lost some cycles to stretching and to gating, and every core but chiplet core 0 those
of retention (04 R118, 01 R20, 17 R401, R404). -/
def State.cyclesOf (s : State) (core : Nat) : Nat :=
  if core = 1024 then s.cycles
  else if isChiplet core then s.cycles - s.slept
  else s.cycles - s.slept - (s.clusterAt (clusterOf core)).behind

/-- The core is clocked: in the module's power state (17 R401), and, a compute core, while its cluster is powered and the compute dies are
not held in reset (R402). -/
def State.clocked (s : State) (core : Nat) : Bool :=
  match s.power with
  | .active => isChiplet core || (s.secState != .faultLocked && !(s.clusterAt (clusterOf core)).gated)
  | .retention => core == 1024
  | .off => false

/-! ## Registers -/

/-- g[r]; g0 reads zero (04 R94). -/
def Strand.readG (t : Strand) (r : Reg) : Word := if r = 0 then 0 else t.g[r.toNat]

/-- The strand with g[r] written, its mark cleared; a write of g0 is discarded (04 R92 to R94). -/
def Strand.writeG (t : Strand) (r : Reg) (x : Word) : Strand :=
  if r = 0 then t else { t with g := t.g.set r.toNat x, marks := t.marks.set r.toNat .clear }

/-- f[r]. -/
def Strand.readF (t : Strand) (r : Reg) : Word := t.f[r.toNat]

/-- The strand with f[r] written. -/
def Strand.writeF (t : Strand) (r : Reg) (x : Word) : Strand := { t with f := t.f.set r.toNat x }

/-- v[r]. -/
def Strand.readV (t : Strand) (r : Reg) : VWord := t.v[r.toNat]

/-- The strand with v[r] written. -/
def Strand.writeV (t : Strand) (r : Reg) (x : VWord) : Strand := { t with v := t.v.set r.toNat x }

/-- m[r]; m0 reads all ones (05 R125). -/
def Strand.readM (t : Strand) (r : MaskReg) : MWord := if r = 0 then BitVec.allOnes 1024 else t.m[r.toNat]

/-- The strand with m[r] written; no instruction writes m0 (05 R125). -/
def Strand.writeM (t : Strand) (r : MaskReg) (x : MWord) : Strand :=
  if r = 0 then t else { t with m := t.m.set r.toNat x }

/-- The mark of g[r]; g0 never carries one (04 R92). -/
def Strand.mark (t : Strand) (r : Reg) : Mark := if r = 0 then .clear else t.marks[r.toNat]

/-- The strand with the mark of g[r] replaced. -/
def Strand.setMark (t : Strand) (r : Reg) (m : Mark) : Strand :=
  if r = 0 then t else { t with marks := t.marks.set r.toNat m }

/-- The mark is a pending mark (04 R92). -/
def Mark.isPending : Mark → Bool
  | .waiting _ | .landing _ _ _ => true
  | _ => false

/-- The strand with its pc at the next instruction, ready. -/
def Strand.advance (t : Strand) : Strand := { t with pc := t.pc + 4, cond := .ready, slotTie := none, awaits := {} }

/-- The strand with sticky flags set (03 R68). -/
def Strand.addFlags (t : Strand) (fl : BitVec 8) : Strand := { t with fstat := t.fstat ||| (fl.setWidth 64 <<< 8) }

/-! ## Taking an exception and returning from one -/

/-- An exception: its code, the record's ADDR and INFO words, and whether it is an interrupt or asynchronous (13 R326,
R331). -/
structure Exc where
  code : Nat
  addr : Word := 0
  info : Word := 0
  int  : Bool := false
  deriving DecidableEq, Repr

/-- The codes that SDELEG can delegate (13 R327, R339). -/
def delegable : List Nat := [0x09, 0x0C, 0x0D, 0x0E, 0x0F, 0x13, 0x14, 0x19]

/-- Bit positions of SSTATUS (13 R337). -/
def sstatusIE : Nat := 4
def sstatusPIE : Nat := 5
def sstatusPM : Nat := 8

/-- A word with its bits [1:0] zero: the address that a vector register's BASE field names (13 R335, R338). -/
def aligned4 (w : Word) : Word := w &&& ~~~3

/-- The exception is taken in user mode (13 R327). -/
def Exc.inUser (e : Exc) (t : Strand) (sdeleg : Word) : Bool :=
  t.mode == .user && !e.int && delegable.contains e.code && bitAt sdeleg e.code && bitAt t.utvec 0 &&
    !bitAt t.ucause 62

/-- The exception is taken in firmware mode: ECALL_SUP, or anything raised there (13 R327). -/
def Exc.inFirmware (e : Exc) (t : Strand) : Bool := t.mode == .firmware || e.code == 0x17

/-- The code of a mode in SSTATUS.MODE and FSTATUS (13 R337, 17 R396). -/
def Mode.code : Mode → Nat
  | .user => 0
  | .supervisor => 1
  | .firmware => 2

/-- The mode that a code names; 3, which names none, is read as firmware (log entry 8). -/
def Mode.ofCode (n : Nat) : Mode :=
  match n % 4 with
  | 0 => .user
  | 1 => .supervisor
  | _ => .firmware

/-- The cause word: bit 63 for an interrupt or asynchronous event, and the code (13 R328). -/
def Exc.cause (e : Exc) : Word := BitVec.ofNat 64 (e.code + if e.int then 2 ^ 63 else 0)

/-- The strand with no vector memory instruction or string form outstanding (07 R212). -/
def Strand.untimed (t : Strand) : Strand := { t with timer := none, awaits := {} }

/-- Entry into the user handler (13 R328). -/
def Strand.enterUser (t : Strand) (e : Exc) (epc : Word) : Strand :=
  { t with uepc := aligned4 epc, ucause := e.cause ||| (1 <<< 62), uaddr := e.addr, uinfo := e.info,
           pc := aligned4 t.utvec, cond := .ready, slotTie := none, timer := none, awaits := {} }

/-- Entry into the supervisor handler (13 R328). -/
def Strand.enterSupervisor (t : Strand) (stvec : Word) (e : Exc) (epc : Word) : Strand :=
  let pm := if t.mode == .supervisor then 1 else 0
  let pie := bitsNat t.sstatus sstatusIE sstatusIE
  { t with sepc := aligned4 epc, scause := e.cause, saddr := e.addr, sinfo := e.info,
           sstatus := setBits (setBits (setBits t.sstatus 8 8 pm) 5 5 pie) 4 4 0,
           mode := .supervisor, pc := aligned4 stvec, cond := .ready, slotTie := none, timer := none, awaits := {} }

/-- Entry into firmware (17 R396). -/
def Strand.enterFirmware (t : Strand) (ftvec : Word) (code : Nat) (epc : Word) : Strand :=
  { t with fstatus := BitVec.ofNat 64 t.mode.code, fepc := epc, fcause := BitVec.ofNat 64 (code % 256),
           mode := .firmware, pc := aligned4 ftvec, cond := .ready, slotTie := none, timer := none, awaits := {} }

/-- Where an exception takes a strand (13 R327, R328). -/
def Strand.enter (t : Strand) (c : Core) (e : Exc) (epc : Word) : Strand :=
  if e.inUser t c.csrs.sdeleg then t.enterUser e epc
  else if e.inFirmware t then t.enterFirmware c.ftvec e.code epc
  else t.enterSupervisor c.stvec e epc

/-- Taking an exception with its epc, as one step (13 R328). -/
def State.take (s : State) (e : Exc) (epc : Word) : State := s.setMe (s.me.enter s.myCore e epc)

/-- A precise exception of the strand that moves: its epc is the instruction's own address (13 R331). -/
def raise (e : Exc) (s : State) : Out := .next (s.take e s.me.pc)

/-- Return from a supervisor handler (13 R334). -/
def Strand.leaveSupervisor (t : Strand) : Strand :=
  { t with pc := t.sepc, sstatus := setBits t.sstatus 4 4 (bitsNat t.sstatus 5 5),
           mode := if bitAt t.sstatus sstatusPM then .supervisor else .user, cond := .ready, slotTie := none }

/-- Return from firmware: pc := FEPC (17 R396), which is a multiple of 4 where ERET completes (02 R27) and where firmware answers
a call, whose epc the hardware wrote. -/
def Strand.leaveFirmware (t : Strand) : Strand :=
  { t with pc := aligned4 t.fepc, mode := Mode.ofCode (bitsNat t.fstatus 1 0), cond := .ready, slotTie := none }

/-- The user return: pc := UEPC (13 R329). -/
def Strand.leaveUser (t : Strand) : Strand := { t with pc := t.uepc, cond := .ready, slotTie := none }

/-- ILLEGAL with a reason code and the instruction word (02 R28). -/
def illegalExc (w : IWord) (reason : Nat) : Exc :=
  { code := 0x01, info := BitVec.ofNat 64 (reason * 2 ^ 32 + w.toNat) }

/-- The word of an instruction, or zero for an event. -/
def wordOf (i : Instr) : IWord := (encode i).getD 0

/-- The word of an SY form (02 R36). -/
def syWord (major : BitVec 6) (d a : Reg) (x : BitVec 12) (f : BitVec 4) : IWord :=
  BitField.join 6 26 major (Sy.pack ⟨d, a, x, f⟩)

/-- The word of an RR form whose function lies in its low four bits (02 R30). -/
def rrWord (major : BitVec 6) (d a b : Reg) (n : BitVec 7) (f : BitVec 4) : IWord :=
  BitField.join 6 26 major (Rr74.pack ⟨d, a, b, n, f⟩)

/-! ## Issue -/

/-- The strand stays at its instruction until something else moves (04 R90). -/
def stall (s : State) : Out :=
  .next (s.setMe { s.me with cond := if s.me.cond = .ready then .stalled else s.me.cond, awaits := { s.me.awaits with seen := 0 } })

/-- Some register carries a pending mark (04 R92). -/
def Strand.busy (t : Strand) (rs : List Reg) : Bool := rs.any fun r => (t.mark r).isPending

/-- The first register of a list that raises on a read: POISON (04 R93) or TOKEN_FAULT, whose mark the reading clears
(13 R354). -/
def Strand.badRead (t : Strand) : List Reg → Option (Strand × Exc)
  | [] => none
  | r :: rs =>
    match t.mark r with
    | .poison a => some (t, { code := 0x15, addr := a })
    | .tokenFault a st => some (t.setMark r .clear, { code := 0x19, addr := a, info := st })
    | _ => t.badRead rs

/-- Issue of an instruction that reads and writes g registers: it stalls on a pending mark of either (04 R92), raises on a
poisoned or faulted register that it reads (04 R93, 13 R354), and otherwise goes on. -/
def issue (reads writes : List Reg) (k : State → Out) (s : State) : Out :=
  if s.me.busy (reads ++ writes) then stall s
  else match s.me.badRead reads with
    | some (t, e) => raise e (s.setMe t)
    | none => k s

/-- An instruction that changes only its strand, and completes. -/
def complete (f : Strand → Strand) (s : State) : Out := .next (s.setMe (f s.me).advance)

/-! ## Longer meanings -/

/-- Why a longer meaning does not complete: it raises an exception, or its strand waits at the instruction. -/
inductive Stop where
  | trap (e : Exc)
  | wait
  deriving DecidableEq, Repr

/-- A longer meaning: what it has done stands when it stops. -/
abbrev M (α : Type) := ExceptT Stop (StateM State) α

/-- Raises an exception at the instruction. -/
def M.trap {α : Type} (e : Exc) : M α := throw (.trap e)

/-- The strand waits at the instruction. -/
def M.wait {α : Type} : M α := throw .wait

/-- The outcome of a longer meaning, which has moved the pc itself where it completes. -/
def runM (m : M Unit) (s : State) : Out :=
  match m.run.run s with
  | (.ok _, s') => .next s'
  | (.error (.trap e), s') => raise e s'
  | (.error .wait, s') => stall s'

/-- The result of a part of a longer meaning, or the exception that it raised; a wait is passed on. -/
def M.attempt {α : Type} (m : M α) : M (Except Exc α) :=
  tryCatch (do return .ok (← m)) fun st => match st with
    | .trap e => pure (.error e)
    | .wait => throw .wait

/-- The strand that moves. -/
def M.me : M Strand := do return (← get).me

/-- Replaces the strand that moves. -/
def M.setMe (t : Strand) : M Unit := modify fun s => s.setMe t

/-- Changes the strand that moves. -/
def M.modifyMe (f : Strand → Strand) : M Unit := modify fun s => s.setMe (f s.me)

/-- Completes the instruction. -/
def M.done : M Unit := M.modifyMe Strand.advance

/-- ILLEGAL at the instruction. -/
def M.illegal {α : Type} (w : IWord) (reason : Nat) : M α := M.trap (illegalExc w reason)

/-- The next free value, and the state past it (log entry 6). -/
def State.draw (s : State) : State × Word := ({ s with fresh := s.fresh + 1 }, Config.freeValue s.fresh)

/-- The n-th free value of the machine, and the counter past it (log entry 6). -/
def M.free : M Word := do
  let s ← get
  set { s with fresh := s.fresh + 1 }
  return Config.freeValue s.fresh

end Sys2Proof.Machine
end

