-- ==== Sys2Proof/Machine/Alu.lean ====
section
/-!
DEFINITION. Machine/Alu.lean: integer register arithmetic (04 R95 to R98).
-/

namespace Sys2Proof.Machine

/-- Issue of an ALU form with two sources. -/
def alu2 (f : Word → Word → Word) (d a b : Reg) : State → Out :=
  issue [a, b] [d] (complete fun t => t.writeG d (f (t.readG a) (t.readG b)))

/-- Issue of an ALU form with one source. -/
def alu1 (f : Word → Word) (d a : Reg) : State → Out :=
  issue [a] [d] (complete fun t => t.writeG d (f (t.readG a)))

/-- Issue of an ALU form that also reads its destination. -/
def alu3 (f : Word → Word → Word → Word) (d a b : Reg) : State → Out :=
  issue [a, b, d] [d] (complete fun t => t.writeG d (f (t.readG d) (t.readG a) (t.readG b)))

/-- Issue of a long-latency form: the result is on its way to g[d] (04 R92). -/
def aluLong (f : Word → Word → Word) (d a b : Reg) : State → Out :=
  issue [a, b] [d] (complete fun t =>
    t.setMark d (.landing .longLatency (f (t.readG a) (t.readG b)) none))

/-- (s(a) * s(b))[127:64]. -/
def mulHigh (a b : Word) : Word := wordOfInt (a.toInt * b.toInt / 2 ^ 64)

/-- (u(a) * u(b))[127:64]. -/
def mulHighU (a b : Word) : Word := BitVec.ofNat 64 (a.toNat * b.toNat / 2 ^ 64)

/-- The signed quotient (04 R97). -/
def divSigned (a b : Word) : Word := if b = 0 then BitVec.allOnes 64 else wordOfInt (a.toInt.tdiv b.toInt)

/-- The unsigned quotient (04 R97). -/
def divUnsigned (a b : Word) : Word := if b = 0 then BitVec.allOnes 64 else BitVec.ofNat 64 (a.toNat / b.toNat)

/-- The signed remainder (04 R97). -/
def remSigned (a b : Word) : Word := if b = 0 then a else wordOfInt (a.toInt.tmod b.toInt)

/-- The unsigned remainder (04 R97). -/
def remUnsigned (a b : Word) : Word := if b = 0 then a else BitVec.ofNat 64 (a.toNat % b.toNat)

/-- The bits of a SEXT or ZEXT width code (04 R95). -/
def widthBits : Width → Nat
  | .w8 => 8
  | .w16 => 16
  | .w32 => 32

/-- The position and effective length of a BFX or BFI field (04 R98). -/
def bitField (b : Word) : Nat × Nat :=
  let p := bitsNat b 5 0
  (p, min (bitsNat b 14 8) (64 - p))

/-- BFX (04 R98). -/
def extractField (a b : Word) : Word :=
  let (p, k) := bitField b
  if k = 0 then 0
  else if bitAt b 16 then sextNat k (a.toNat / 2 ^ p) else zextNat k (a.toNat / 2 ^ p)

/-- BFI (04 R98). -/
def insertField (d a b : Word) : Word :=
  let (p, k) := bitField b
  if k = 0 then d else setBits d (p + k - 1) p a.toNat

/-- ADD (04 R96). -/
def execAdd (d a b : Reg) (s : State) : Out := alu2 (· + ·) d a b s
/-- SUB (04 R96). -/
def execSub (d a b : Reg) (s : State) : Out := alu2 (· - ·) d a b s
/-- AND (04 R96). -/
def execAnd (d a b : Reg) (s : State) : Out := alu2 (· &&& ·) d a b s
/-- OR (04 R96). -/
def execOr (d a b : Reg) (s : State) : Out := alu2 (· ||| ·) d a b s
/-- XOR (04 R96). -/
def execXor (d a b : Reg) (s : State) : Out := alu2 (· ^^^ ·) d a b s
/-- SHL (04 R96). -/
def execShl (d a b : Reg) (s : State) : Out := alu2 (fun x y => x <<< (y.toNat % 64)) d a b s
/-- SHR (04 R96). -/
def execShr (d a b : Reg) (s : State) : Out := alu2 (fun x y => x >>> (y.toNat % 64)) d a b s
/-- SAR (04 R96). -/
def execSar (d a b : Reg) (s : State) : Out := alu2 (fun x y => x.sshiftRight (y.toNat % 64)) d a b s
/-- MUL (04 R96). -/
def execMul (d a b : Reg) (s : State) : Out := alu2 (· * ·) d a b s
/-- MULH (04 R96). -/
def execMulh (d a b : Reg) (s : State) : Out := alu2 mulHigh d a b s
/-- MULHZ (04 R96). -/
def execMulhz (d a b : Reg) (s : State) : Out := alu2 mulHighU d a b s
/-- DIV (04 R97). -/
def execDiv (d a b : Reg) (s : State) : Out := aluLong divSigned d a b s
/-- DIVZ (04 R97). -/
def execDivz (d a b : Reg) (s : State) : Out := aluLong divUnsigned d a b s
/-- REM (04 R97). -/
def execRem (d a b : Reg) (s : State) : Out := aluLong remSigned d a b s
/-- REMZ (04 R97). -/
def execRemz (d a b : Reg) (s : State) : Out := aluLong remUnsigned d a b s
/-- MIN (04 R96). -/
def execMin (d a b : Reg) (s : State) : Out := alu2 (fun x y => if x.sle y then x else y) d a b s
/-- MAX (04 R96). -/
def execMax (d a b : Reg) (s : State) : Out := alu2 (fun x y => if y.sle x then x else y) d a b s
/-- SLT (04 R96). -/
def execSlt (d a b : Reg) (s : State) : Out := alu2 (fun x y => boolWord (x.slt y)) d a b s
/-- SLTZ (04 R96). -/
def execSltz (d a b : Reg) (s : State) : Out := alu2 (fun x y => boolWord (x.ult y)) d a b s
/-- CLZ (04 R96). -/
def execClz (d a : Reg) (s : State) : Out := alu1 (fun x => BitVec.ofNat 64 (leadingZeros 64 x.toNat)) d a s
/-- CTZ (04 R96). -/
def execCtz (d a : Reg) (s : State) : Out := alu1 (fun x => BitVec.ofNat 64 (trailingZeros 64 x.toNat)) d a s
/-- POPC (04 R96). -/
def execPopc (d a : Reg) (s : State) : Out := alu1 (fun x => BitVec.ofNat 64 (popcount 64 x.toNat)) d a s
/-- SEXT (04 R96). -/
def execSext (d a : Reg) (n : Width) (s : State) : Out := alu1 (fun x => sextNat (widthBits n) x.toNat) d a s
/-- ZEXT (04 R96). -/
def execZext (d a : Reg) (n : Width) (s : State) : Out := alu1 (fun x => zextNat (widthBits n) x.toNat) d a s
/-- CSEL (04 R96). -/
def execCsel (d a b : Reg) (s : State) : Out := alu3 (fun old x y => if x ≠ 0 then y else old) d a b s
/-- BFX (04 R98). -/
def execBfx (d a b : Reg) (s : State) : Out := alu2 extractField d a b s
/-- BFI (04 R98). -/
def execBfi (d a b : Reg) (s : State) : Out := alu3 insertField d a b s
/-- LEA (04 R96). -/
def execLea (d a b : Reg) (n : BitVec 3) (s : State) : Out := alu2 (fun x y => x + (y <<< n.toNat)) d a b s
/-- ADDW (04 R96). -/
def execAddw (d a b : Reg) (s : State) : Out := alu2 (fun x y => sextNat 32 (x + y).toNat) d a b s

end Sys2Proof.Machine
end

