-- ==== Sys2Proof/Machine/Float.lean ====
section
/-!
DEFINITION. Machine/Float.lean: formats, values, rounding and flags of 03 R55 to R67.  A finite value is kept exactly as a
natural number times a power of two; an operation computes its exact result and rounds it once.
-/

namespace Sys2Proof.Machine

/-- What a format does with its top codes: `ieee` reserves infinities and NaNs (the fixed formats and SPEC 1), `finite`
reserves none (SPEC 0), `oneNaN` reserves the all-ones magnitude (SPEC 2) (03 R56, R61). -/
inductive FpPolicy where
  | ieee | finite | oneNaN
  deriving DecidableEq, Repr

/-- A floating-point format (03 R55, R59). -/
structure FpFormat where
  width  : Nat
  signed : Bool
  exp    : Nat
  man    : Nat
  bias   : Int
  policy : FpPolicy
  deriving DecidableEq, Repr

/-- FP64 (03 R55). -/
def fp64 : FpFormat := ⟨64, true, 11, 52, 1023, .ieee⟩
/-- FP32 (03 R55). -/
def fp32 : FpFormat := ⟨32, true, 8, 23, 127, .ieee⟩
/-- FP16 (03 R55). -/
def fp16 : FpFormat := ⟨16, true, 5, 10, 15, .ieee⟩
/-- BF16 (03 R55). -/
def bf16 : FpFormat := ⟨16, true, 8, 7, 127, .ieee⟩

/-- A value: a NaN, an infinity, or the finite number (-1)^neg * m * 2^e. -/
inductive FpVal where
  | nan (signalling : Bool)
  | inf (neg : Bool)
  | fin (neg : Bool) (m : Nat) (e : Int)
  deriving DecidableEq, Repr

/-- The rounding modes of 03 R64 and R65. -/
inductive FpMode where
  | rne | rtz | rdn | rup | rsr
  deriving DecidableEq, Repr

/-- Sticky flags in the order of FSTAT[15:8]: NV, DZ, OF, UF, NX, AL, SAT, ALLOCF (03 R68). -/
abbrev Flags := BitVec 8

def flagNV : Flags := 0x01
def flagDZ : Flags := 0x02
def flagOF : Flags := 0x04
def flagUF : Flags := 0x08
def flagNX : Flags := 0x10
def flagAL : Flags := 0x20
def flagSAT : Flags := 0x40
def flagALLOCF : Flags := 0x80

/-- The flag where the condition holds. -/
def flagIf (c : Bool) (f : Flags) : Flags := if c then f else 0

/-- The bits of a code's magnitude. -/
def FpFormat.magBits (f : FpFormat) : Nat := f.exp + f.man

/-- The largest finite magnitude code (03 R55, R61). -/
def FpFormat.maxCode (f : FpFormat) : Nat :=
  match f.policy with
  | .ieee => (2 ^ f.exp - 1) * 2 ^ f.man - 1
  | .finite => 2 ^ f.magBits - 1
  | .oneNaN => 2 ^ f.magBits - 2

/-- The magnitude code of infinity, in formats that have one. -/
def FpFormat.infCode (f : FpFormat) : Nat := (2 ^ f.exp - 1) * 2 ^ f.man

/-- The code of the default NaN (03 R57, R61), where the format has one. -/
def FpFormat.nanCode (f : FpFormat) : Option Nat :=
  match f.policy with
  | .ieee => if f.man = 0 then none else some (f.infCode + 2 ^ (f.man - 1))
  | .finite => none
  | .oneNaN => some (2 ^ f.magBits - 1)

/-- A magnitude code with a sign. -/
def FpFormat.withSign (f : FpFormat) (neg : Bool) (code : Nat) : Nat :=
  if f.signed && neg then code + 2 ^ (f.width - 1) else code

/-- The value of a finite magnitude code (03 R56, R61). -/
def FpFormat.magnitude (f : FpFormat) (neg : Bool) (code : Nat) : FpVal :=
  let m := code % 2 ^ f.man
  let e := code / 2 ^ f.man
  if f.exp = 0 then .fin neg m (-f.bias)
  else if e = 0 then .fin neg m (1 - f.bias - f.man)
  else .fin neg (2 ^ f.man + m) ((e : Int) - f.bias - f.man)

/-- The value that a code has (03 R56, R61, R62); bits above the format's width are ignored. -/
def FpFormat.value (f : FpFormat) (code : Nat) : FpVal :=
  let mag := code % 2 ^ f.magBits
  let neg := f.signed && code.testBit (f.width - 1)
  match f.policy with
  | .finite => f.magnitude neg mag
  | .oneNaN => if mag = 2 ^ f.magBits - 1 then .nan false else f.magnitude neg mag
  | .ieee =>
    if mag < f.infCode then f.magnitude neg mag
    else if mag = f.infCode then .inf neg
    else .nan (!(code.testBit (f.man - 1)))

/-- An exact result: (-1)^neg * m * 2^e, plus less than one unit of m when `sticky`. -/
structure FpExact where
  neg    : Bool
  m      : Nat
  e      : Int
  sticky : Bool
  deriving DecidableEq, Repr

/-- The exponent of the leading bit of m * 2^e. -/
def topExp (m : Nat) (e : Int) : Int := e + (Nat.log2 m : Int)

/-- The magnitude m * 2^e (and sticky) as a multiple of 2^q: the truncated multiple, whether the rounding mode adds one to
it, and whether anything was cut off (03 R64, R65).  `r` is the random word's low 32 bits; `flip` says that the last bit of
the code is not the multiple's but its inverse, and a tie goes to an even code. -/
def roundAt (mode : FpMode) (r : Nat) (flip : Bool) (x : FpExact) (q : Int) : Nat × Bool × Bool :=
  if q ≤ x.e then (x.m * 2 ^ (x.e - q).toNat, false, x.sticky)
  else
    let sh := (q - x.e).toNat
    let a := x.m / 2 ^ sh
    let rest := x.m % 2 ^ sh
    let half := 2 ^ (sh - 1)
    let inexact := rest != 0 || x.sticky
    let up := match mode with
      | .rne => decide (half < rest) || (rest == half && (x.sticky || (a % 2 == 1) != flip))
      | .rtz => false
      | .rdn => x.neg && inexact
      | .rup => !x.neg && inexact
      | .rsr => decide (r % 2 ^ 32 < rest * 2 ^ 32 / 2 ^ sh)
    (a, up, inexact)

/-- The multiple after the rounding step. -/
def roundedMultiple (p : Nat × Bool × Bool) : Nat := if p.2.1 then p.1 + 1 else p.1

/-- The result of an overflow (03 R64, R65). -/
def overflowCode (f : FpFormat) (mode : FpMode) (neg : Bool) : Nat :=
  match f.policy with
  | .ieee =>
    let toInf := match mode with
      | .rne | .rsr => true
      | .rtz => false
      | .rdn => neg
      | .rup => !neg
    f.withSign neg (if toInf then f.infCode else f.maxCode)
  | _ => f.withSign neg f.maxCode

/-- The smallest normal exponent. -/
def FpFormat.minExp (f : FpFormat) : Int := 1 - f.bias

/-- In a format without mantissa bits a code's last bit is its exponent field's (03 R64): of a result with the exponent `t`, the
code's last bit is then the inverse of the multiple's where that field is even. -/
def FpFormat.flips (f : FpFormat) (t : Int) : Bool := f.man == 0 && (t + f.bias) % 2 == 0

/-- The result is tiny (03 R67). -/
def isTiny (f : FpFormat) (mode : FpMode) (r : Nat) (x : FpExact) : Bool :=
  if f.exp = 0 then decide (topExp x.m x.e < -f.bias)
  else
    let t := topExp x.m x.e
    if f.minExp ≤ t then false
    else if t < f.minExp - 1 then true
    else decide (roundedMultiple (roundAt mode r (f.flips t) x (t - f.man)) < 2 ^ (f.man + 1))

/-- The magnitude code of an exact result that is not zero, before the check for overflow, and whether it is inexact. -/
def roundCode (f : FpFormat) (mode : FpMode) (r : Nat) (x : FpExact) : Nat × Bool :=
  if f.exp = 0 then
    let p := roundAt mode r false x (-f.bias)
    (roundedMultiple p, p.2.2)
  else
    let t := max (topExp x.m x.e) f.minExp
    let p := roundAt mode r (f.flips t) x (t - f.man)
    let eb := (t + f.bias).toNat
    (eb * 2 ^ f.man + roundedMultiple p - 2 ^ f.man, p.2.2)

/-- Rounding once into a format (03 R64 to R67): the code and the flags.  DEDUCED (log entry 26): a result that overflows sets OF and
NX and is not tiny, also in a format whose one exponent code is reserved and which has no normal value. -/
def fpRound (f : FpFormat) (mode : FpMode) (r : Nat) (x : FpExact) : Nat × Flags :=
  if x.m = 0 then (f.withSign x.neg 0, 0)
  else
    let c := roundCode f mode r x
    if f.maxCode < c.1 then (overflowCode f mode x.neg, flagOF ||| flagNX)
    else (f.withSign x.neg c.1, flagIf c.2 flagNX ||| flagIf (c.2 && isTiny f mode r x) flagUF)

/-- A NaN delivered into a format: the default NaN, or +0 with NV where the format has none (03 R57, R61, R419). -/
def fpNaN (f : FpFormat) (fl : Flags) : Nat × Flags :=
  match f.nanCode with
  | some c => (c, fl)
  | none => (0, fl ||| flagNV)

/-- An infinity delivered into a format (03 R61). -/
def fpInf (f : FpFormat) (neg : Bool) : Nat × Flags :=
  match f.policy with
  | .ieee => (f.withSign neg f.infCode, 0)
  | _ => (f.withSign neg f.maxCode, flagNV)

/-- A result before it is rounded: a value that no rounding touches, with its flags, or an exact number. -/
inductive FpRaw where
  | nan (flags : Flags)
  | inf (neg : Bool) (flags : Flags)
  | exact (x : FpExact) (flags : Flags)
  deriving DecidableEq, Repr

/-- Delivering a result into a format (03 R61, R62, R64): the code and the flags.  A negative number that becomes +0 differs from
what is delivered, so it sets NX beside NV (03 R67). -/
def fpDeliver (f : FpFormat) (mode : FpMode) (r : Nat) : FpRaw → Nat × Flags
  | .nan fl => fpNaN f fl
  | .inf neg fl =>
    if !f.signed && neg then (0, fl ||| flagNV)
    else let p := fpInf f neg; (p.1, p.2 ||| fl)
  | .exact x fl =>
    if !f.signed && x.neg then (0, if x.m = 0 && !x.sticky then fl else fl ||| flagNV ||| flagNX)
    else let p := fpRound f mode r x; (p.1, p.2 ||| fl)

/-- The NV of a signalling NaN among the operands (03 R57). -/
def snanFlag : List FpVal → Flags
  | [] => 0
  | .nan true :: vs => flagNV ||| snanFlag vs
  | _ :: vs => snanFlag vs

/-- A value delivered unchanged, as a conversion delivers it (03 R80). -/
def FpVal.raw : FpVal → FpRaw
  | .nan sig => .nan (flagIf sig flagNV)
  | .inf neg => .inf neg 0
  | .fin neg m e => .exact ⟨neg, m, e, false⟩ 0

/-- The value is a NaN. -/
def FpVal.isNaN : FpVal → Bool
  | .nan _ => true
  | _ => false

/-- The value is zero. -/
def FpVal.isZero : FpVal → Bool
  | .fin _ m _ => m == 0
  | _ => false

/-- The sign bit of a value that has one. -/
def FpVal.neg : FpVal → Bool
  | .nan _ => false
  | .inf n => n
  | .fin n _ _ => n

/-- The value with its sign inverted. -/
def FpVal.negate : FpVal → FpVal
  | .nan s => .nan s
  | .inf n => .inf (!n)
  | .fin n m e => .fin (!n) m e

/-- A finite value as a signed multiple of 2^q, for a q not above its exponent. -/
def signedAt (neg : Bool) (m : Nat) (e q : Int) : Int :=
  let v : Int := (m * 2 ^ (e - q).toNat : Nat)
  if neg then -v else v

/-- The exact sum of two finite values; an exact zero takes the sign of 04 R109.  DEDUCED (log entry 26): the sum of two zeros of
one sign has that sign in every mode, RDN too. -/
def addFinite (mode : FpMode) (na : Bool) (ma : Nat) (ea : Int) (nb : Bool) (mb : Nat) (eb : Int) : FpRaw :=
  let q := min ea eb
  let s := signedAt na ma ea q + signedAt nb mb eb q
  if s = 0 then
    let neg := if ma = 0 && mb = 0 && na == nb then na else mode == .rdn
    .exact ⟨neg, 0, 0, false⟩ 0
  else .exact ⟨decide (s < 0), s.natAbs, q, false⟩ 0

/-- a + b (04 R109). -/
def fpAdd (mode : FpMode) (a b : FpVal) : FpRaw :=
  match a, b with
  | .nan _, _ => .nan (snanFlag [a, b])
  | _, .nan _ => .nan (snanFlag [a, b])
  | .inf na, .inf nb => if na == nb then .inf na 0 else .nan flagNV
  | .inf na, _ => .inf na 0
  | _, .inf nb => .inf nb 0
  | .fin na ma ea, .fin nb mb eb => addFinite mode na ma ea nb mb eb

/-- a - b (04 R109). -/
def fpSub (mode : FpMode) (a b : FpVal) : FpRaw := fpAdd mode a b.negate

/-- a * b (04 R109). -/
def fpMul (a b : FpVal) : FpRaw :=
  match a, b with
  | .nan _, _ => .nan (snanFlag [a, b])
  | _, .nan _ => .nan (snanFlag [a, b])
  | .inf na, b => if b.isZero then .nan flagNV else .inf (na != b.neg) 0
  | a, .inf nb => if a.isZero then .nan flagNV else .inf (a.neg != nb) 0
  | .fin na ma ea, .fin nb mb eb => .exact ⟨na != nb, ma * mb, ea + eb, false⟩ 0

/-- a / b (04 R109): 200 more bits than the divisor has, and whether the division left a remainder. -/
def fpDiv (a b : FpVal) : FpRaw :=
  match a, b with
  | .nan _, _ => .nan (snanFlag [a, b])
  | _, .nan _ => .nan (snanFlag [a, b])
  | .inf _, .inf _ => .nan flagNV
  | .inf na, b => .inf (na != b.neg) 0
  | .fin na _ _, .inf nb => .exact ⟨na != nb, 0, 0, false⟩ 0
  | .fin na ma ea, .fin nb mb eb =>
    if mb = 0 then (if ma = 0 then .nan flagNV else .inf (na != nb) flagDZ)
    else
      let num := ma * 2 ^ 200
      .exact ⟨na != nb, num / mb, ea - eb - 200, num % mb != 0⟩ 0

/-- The integer square root, one bit of the root at a time: `bits` bits remain, `root` holds those found. -/
def isqrtFrom : Nat → Nat → Nat → Nat
  | 0, root, _ => root
  | n + 1, root, x =>
    let cand := root + 2 ^ n
    isqrtFrom n (if cand * cand ≤ x then cand else root) x

/-- The integer square root of a number below 2^512. -/
def isqrt (x : Nat) : Nat := isqrtFrom 256 0 x

/-- The square root of a (04 R109). -/
def fpSqrt (a : FpVal) : FpRaw :=
  match a with
  | .nan s => .nan (flagIf s flagNV)
  | .inf n => if n then .nan flagNV else .inf false 0
  | .fin n m e =>
    if m = 0 then .exact ⟨n, 0, 0, false⟩ 0
    else if n then .nan flagNV
    else
      let odd := e % 2 = 1
      let m' := if odd then m * 2 else m
      let e' := if odd then e - 1 else e
      let x := m' * 2 ^ 240
      let root := isqrt x
      .exact ⟨false, root, e' / 2 - 120, root * root != x⟩ 0

/-- a * b + d, rounded once by the caller (04 R109). -/
def fpFma (mode : FpMode) (a b d : FpVal) : FpRaw :=
  let prod := fpMul a b
  match prod with
  | .nan fl => if a.isNaN || b.isNaN then .nan (fl ||| snanFlag [d]) else .nan (flagNV ||| snanFlag [d])
  | .inf n _ =>
    match d with
    | .nan s => .nan (flagIf s flagNV)
    | .inf nd => if n == nd then .inf n 0 else .nan flagNV
    | .fin _ _ _ => .inf n 0
  | .exact x _ =>
    match d with
    | .nan s => .nan (flagIf s flagNV)
    | .inf nd => .inf nd 0
    | .fin nd md ed => addFinite mode x.neg x.m x.e nd md ed

/-- a < b for values that are no NaN; -0 equals +0. -/
def fpLess (a b : FpVal) : Bool :=
  match a, b with
  | .inf na, .inf nb => na && !nb
  | .inf na, _ => na
  | _, .inf nb => !nb
  | .fin na ma ea, .fin nb mb eb =>
    let q := min ea eb
    decide (signedAt na ma ea q < signedAt nb mb eb q)
  | _, _ => false

/-- a = b for values that are no NaN; -0 equals +0. -/
def fpEqual (a b : FpVal) : Bool := !a.isNaN && !b.isNaN && !fpLess a b && !fpLess b a

/-- a comes before b where -0 lies below +0 (04 R110). -/
def fpBefore (a b : FpVal) : Bool :=
  if a.isZero && b.isZero then a.neg && !b.neg else fpLess a b

/-- The nearest integers: |m * 2^e| rounded to an integer, and whether that changed it (03 R81). -/
def roundInt (mode : FpMode) (r : Nat) (neg : Bool) (m : Nat) (e : Int) : Int × Bool :=
  let p := roundAt mode r false ⟨neg, m, e, false⟩ 0
  let v : Int := (roundedMultiple p : Nat)
  (if neg then -v else v, p.2.2)

/-- A conversion to an integer between lo and hi (03 R81). -/
def fpToInt (mode : FpMode) (r : Nat) (lo hi : Int) : FpVal → Int × Flags
  | .nan _ => (0, flagNV)
  | .inf neg => (if neg then lo else hi, flagNV)
  | .fin neg m e =>
    let p := roundInt mode r neg m e
    if p.1 < lo then (lo, flagNV) else if hi < p.1 then (hi, flagNV)
    else (p.1, flagIf p.2 flagNX)

/-- An integer as an exact result. -/
def fpOfInt (x : Int) : FpRaw := .exact ⟨decide (x < 0), x.natAbs, 0, false⟩ 0

/-- FP32's upper half by RNE, as a lossy page keeps it (03 R78); a NaN keeps its sign and upper payload, made quiet. -/
def lossyBf16 (x : Nat) : Nat :=
  match fp32.value x with
  | .nan _ => (x / 2 ^ 16 ||| 0x40) * 2 ^ 16
  | v => (fpDeliver bf16 .rne 0 v.raw).1 * 2 ^ 16

/-- E5M2 as a fixed format (03 R55). -/
def e5m2 : FpFormat := ⟨8, true, 5, 2, 15, .ieee⟩

/-- FP16's upper half by RNE, as a lossy page keeps it (03 R78). -/
def lossyE5m2 (x : Nat) : Nat :=
  match fp16.value x with
  | .nan _ => (x / 2 ^ 8 ||| 0x02) * 2 ^ 8
  | v => (fpDeliver e5m2 .rne 0 v.raw).1 * 2 ^ 8

end Sys2Proof.Machine
end

