-- ==== Sys2Proof/Machine/Flags.lean ====
section
/-!
DEFINITION. Machine/Flags.lean: the dynamic rounding mode, the sticky flags and FP_TRAP (03 R64 to R70), and the random
stream (03 R66, 05 R151).
-/

namespace Sys2Proof.Machine

/-- MIX (05 R151). -/
def mix (x : Word) : Word :=
  let x := x ^^^ (x >>> 29)
  let x := x * 0xA3B195E71C4D2F69
  let x := x ^^^ (x >>> 32)
  let x := x * 0x8F1D3C6AB25E47C5
  x ^^^ (x >>> 29)

/-- r(e) of the strand's random stream (03 R66). -/
def Strand.random (t : Strand) (e : Nat) : Word := mix (t.rngkey ^^^ (t.rngctr + BitVec.ofNat 64 e))

/-- FSTAT.RM (03 R68). -/
def Strand.rm (t : Strand) : FpMode :=
  match bitsNat t.fstat 2 0 with
  | 2 => .rtz
  | 3 => .rdn
  | 4 => .rup
  | 5 => .rsr
  | _ => .rne

/-- The mode of a rounding code of the FPU forms (02 R40). -/
def Strand.modeOf (t : Strand) : Rnd → FpMode
  | .dyn => t.rm
  | .rne => .rne
  | .rtz => .rtz
  | .rdn => .rdn
  | .rup => .rup

/-- The mode of a rounding code of the vector conversions (03 R79). -/
def Strand.vmodeOf (t : Strand) : VRnd → FpMode
  | .dyn => t.rm
  | .rne => .rne
  | .rtz => .rtz
  | .rsr => .rsr

/-- The flags whose trap enable is set: TENV to TENX lie in FSTAT[20:16] (03 R68). -/
def Strand.trapEnables (t : Strand) : Flags := BitVec.ofNat 8 (bitsNat t.fstat 20 16)

/-- Some of these flags would trap (03 R70). -/
def Strand.traps (t : Strand) (fl : Flags) : Bool := (t.trapEnables &&& fl) != 0

/-- FP_TRAP: the flags in INFO[7:0] and the element in INFO[41:32] (03 R70). -/
def fpTrapExc (fl : Flags) (elem : Nat) : Exc :=
  { code := 0x14, info := BitVec.ofNat 64 (fl.toNat + (elem % 1024) * 2 ^ 32) }

/-- The number of random values that an instruction draws: none where it does not round by RSR (03 R66). -/
def drawsOf (mode : FpMode) (n : Nat) : Nat := if mode = .rsr then n else 0

/-- The strand after `n` draws. -/
def Strand.draw (t : Strand) (n : Nat) : Strand := { t with rngctr := t.rngctr + BitVec.ofNat 64 n }

end Sys2Proof.Machine
end

