-- ==== Sys2Proof/Machine/Operands.lean ====
section
/-!
DEFINITION. Machine/Operands.lean: the operand forms: f registers at a precision (03 R58), elements of vector registers (05
R124), active elements (05 R126, R129) and narrow formats (03 R59, R60).
-/

namespace Sys2Proof.Machine

/-! ## Floating-point operands -/

/-- The format of an FPU precision. -/
def formatOf : Prec → FpFormat
  | .f32 => fp32
  | .f64 => fp64

/-- The format of an FCVT type. -/
def ftypeFormat : FType → FpFormat
  | .f64 => fp64
  | .f16 => fp16
  | .bf16 => bf16
  | .f32 => fp32

/-- The code that an f register holds in a format: the default NaN where the upper bits are not all ones (03 R58). -/
def unbox (f : FpFormat) (w : Word) : Nat :=
  if f.width = 64 then w.toNat
  else if w.toNat / 2 ^ f.width = 2 ^ (64 - f.width) - 1 then w.toNat % 2 ^ f.width
  else f.nanCode.getD 0

/-- A code as an f register holds it (03 R58). -/
def box (f : FpFormat) (code : Nat) : Word :=
  if f.width = 64 then BitVec.ofNat 64 code
  else BitVec.ofNat 64 ((2 ^ (64 - f.width) - 1) * 2 ^ f.width + code % 2 ^ f.width)

/-- The value that an f register has in a format. -/
def Strand.fval (t : Strand) (f : FpFormat) (r : Reg) : FpVal := f.value (unbox f (t.readF r))

/-! ## Narrow formats -/

/-- NFMT.VALID (03 R59). -/
def nfmtValid (w : Word) : Bool :=
  let wid := bitsNat w 3 0
  let sgn := bitsNat w 4 4
  let ex := bitsNat w 10 8
  let spec := bitsNat w 25 24
  decide (4 ≤ wid) && decide (wid ≤ 8) && decide (sgn + ex ≤ wid) && spec != 3 && (spec != 1 || ex != 0)

/-- The format that an NFMT register describes (03 R59, R61). -/
def nfmtFormat (w : Word) : FpFormat :=
  let wid := bitsNat w 3 0
  let sgn := bitsNat w 4 4
  let ex := bitsNat w 10 8
  { width := wid, signed := sgn == 1, exp := ex, man := wid - sgn - ex,
    bias := signedOf 8 (bitsNat w 23 16),
    policy := match bitsNat w 25 24 with
      | 0 => .finite
      | 1 => .ieee
      | _ => .oneNaN }

/-- NFMTn of the strand. -/
def Strand.nfmtAt (t : Strand) (n : Nat) : Word := t.nfmt[n % 4]'(Nat.mod_lt n (by decide))

/-! ## Vector operands -/

/-- Bits of an element. -/
def etWidth (e : Et) : Nat := 8 * e.bytes

/-- VLMAX of an element type (05 R126). -/
def etVlmax (e : Et) : Nat := 1024 / e.bytes

/-- The floating-point format of an element type; nf is the format that NFMT0 describes (02 R38, 03 R60). -/
def Strand.etFormat (t : Strand) : Et → FpFormat
  | .b64 => fp64
  | .f16 => fp16
  | .bf16 => bf16
  | .f32 => fp32
  | _ => nfmtFormat (t.nfmtAt 0)

/-- Element `e` of a register at `w` bits (05 R124). -/
def velem (w : Nat) (x : VWord) (e : Nat) : Nat := (x.toNat >>> (w * e)) % 2 ^ w

/-- The number whose `w`-bit elements 0 to n - 1 are those of `f`. -/
def packElems (w : Nat) (f : Nat → Nat) : Nat → Nat
  | 0 => 0
  | n + 1 => packElems w f n + f n % 2 ^ w * 2 ^ (w * n)

/-- The register whose elements at `w` bits are those of `f`. -/
def vbuild (w : Nat) (f : Nat → Nat) : VWord := BitVec.ofNat 8192 (packElems w f (8192 / w))

/-- The mask whose bits are those of `f`. -/
def mbuild (f : Nat → Bool) : MWord := BitVec.ofNat 1024 (packElems 1 (fun e => if f e then 1 else 0) 1024)

/-- Bit `e` of a mask. -/
def mbit (x : MWord) (e : Nat) : Bool := x.getLsbD e

/-- The effective length of an instruction on elements of a type (05 R126). -/
def Strand.elems (t : Strand) (e : Et) : Nat := min t.vl (etVlmax e)

/-- Element `e` is active: below the effective length and selected by the mask (00 R5, 05 R126). -/
def Strand.active (t : Strand) (n : Nat) (k : MaskReg) (e : Nat) : Bool := decide (e < n) && mbit (t.readM k) e

/-- The register `old` with the active elements replaced by those of `f` (05 R129). -/
def vmerge (w : Nat) (old : VWord) (act : Nat → Bool) (f : Nat → Nat) : VWord :=
  vbuild w fun e => if act e then f e else velem w old e

/-- The mask `old` with the active bits replaced by those of `f`. -/
def mmerge (old : MWord) (act : Nat → Bool) (f : Nat → Bool) : MWord :=
  mbuild fun e => if act e then f e else mbit old e

/-- The number whose `w`-bit elements are those of a list where they are given, and those of `old` elsewhere (05 R129). -/
def overlay (w : Nat) : Nat → List (Option Nat) → Nat
  | old, [] => old
  | old, x :: xs => x.getD old % 2 ^ w + overlay w (old / 2 ^ w) xs * 2 ^ w

/-- A register with elements replaced where they are given (05 R129). -/
def vput (w : Nat) (old : VWord) (xs : List (Option Nat)) : VWord := BitVec.ofNat 8192 (overlay w old.toNat xs)

/-- The elements 0 to n - 1 that are active, by a function of the element (05 R129). -/
def activeElems {α : Type} (t : Strand) (n : Nat) (k : MaskReg) (f : Nat → α) : List (Option α) :=
  (List.range n).map fun e => if mbit (t.readM k) e then some (f e) else none

/-- Some of these v registers await the landing of an MCHAIN (06 R190). -/
def Strand.vbusy (t : Strand) (rs : List Reg) : Bool := rs.any fun r => t.vpend.getLsbD r.toNat

/-- Issue of a vector instruction: refused on a chiplet core (01 R17), stalled on a pending v register (06 R190), and then
issued as any other on its g registers. -/
def vissue (w : IWord) (gs ws vs : List Reg) (k : State → Out) (s : State) : Out :=
  if isChiplet s.myCoreNo then raise (illegalExc w 5) s
  else if s.me.vbusy vs then stall s
  else issue gs ws k s

end Sys2Proof.Machine
end

