-- ==== Sys2Proof/Machine/Branch.lean ====
section
/-!
DEFINITION. Machine/Branch.lean: branches and jumps (02 R27, R32, 04 R102 to R104).
-/

namespace Sys2Proof.Machine

/-- The target of a BR-layout word at `pc` (02 R32). -/
def branchTarget (pc : Word) (o : BitVec 16) : Word := pc + (sext16 o <<< 2)

/-- The strand with its pc at a target. -/
def Strand.goto (t : Strand) (target : Word) : Strand := { t with pc := target, cond := .ready, slotTie := none }

/-- The strand after a branch that is taken when `c` holds. -/
def Strand.branch (t : Strand) (c : Bool) (o : BitVec 16) : Strand :=
  t.goto (if c then branchTarget t.pc o else t.pc + 4)

/-- A conditional branch on two g registers (04 R102). -/
def branchIf (p : Word → Word → Bool) (a b : Reg) (o : BitVec 16) : State → Out :=
  issue [a, b] [] fun s => .next (s.setMe (s.me.branch (p (s.me.readG a) (s.me.readG b)) o))

/-- Every one of bits 0 to n - 1 satisfies `p`. -/
def allBits (p : Nat → Bool) : Nat → Bool
  | 0 => true
  | n + 1 => allBits p n && p n

/-- Some one of bits 0 to n - 1 satisfies `p`. -/
def anyBit (p : Nat → Bool) : Nat → Bool
  | 0 => false
  | n + 1 => anyBit p n || p n

/-- A branch on bits 0 to VL - 1 of a mask (04 R103). -/
def branchMask (p : (Nat → Bool) → Nat → Bool) (m : MaskReg) (o : BitVec 16) (s : State) : Out :=
  .next (s.setMe (s.me.branch (p (mbit (s.me.readM m)) s.me.vl) o))

/-- BMANY (04 R103). -/
def execBmany (m : MaskReg) (o : BitVec 16) (s : State) : Out := branchMask anyBit m o s
/-- BMALL (04 R103). -/
def execBmall (m : MaskReg) (o : BitVec 16) (s : State) : Out := branchMask allBits m o s
/-- BMNONE (04 R103). -/
def execBmnone (m : MaskReg) (o : BitVec 16) (s : State) : Out := branchMask (fun p n => !anyBit p n) m o s
/-- BEQ (04 R102). -/
def execBeq (a b : Reg) (o : BitVec 16) (s : State) : Out := branchIf (· == ·) a b o s
/-- BNE (04 R102). -/
def execBne (a b : Reg) (o : BitVec 16) (s : State) : Out := branchIf (· != ·) a b o s
/-- BLT (04 R102). -/
def execBlt (a b : Reg) (o : BitVec 16) (s : State) : Out := branchIf (·.slt ·) a b o s
/-- BGE (04 R102). -/
def execBge (a b : Reg) (o : BitVec 16) (s : State) : Out := branchIf (fun x y => !x.slt y) a b o s
/-- BLO (04 R102). -/
def execBlo (a b : Reg) (o : BitVec 16) (s : State) : Out := branchIf (·.ult ·) a b o s
/-- BHS (04 R102). -/
def execBhs (a b : Reg) (o : BitVec 16) (s : State) : Out := branchIf (fun x y => !x.ult y) a b o s

/-- JAL (04 R104). -/
def execJal (d : Reg) (o : BitVec 21) (s : State) : Out :=
  issue [] [d] (fun s => .next (s.setMe
    ((s.me.writeG d (s.me.pc + 4)).goto (s.me.pc + (o.signExtend 64 <<< 2))))) s

/-- MISALIGN at an address (02 R27, 04 R106). -/
def misalignExc (addr : Word) : Exc := { code := 0x02, addr := addr }

/-- JALR (04 R104). -/
def execJalr (d a : Reg) (i : BitVec 16) (s : State) : Out :=
  issue [a] [d] (fun s =>
    let target := s.me.readG a + sext16 i
    if bitsNat target 1 0 ≠ 0 then raise (misalignExc target) s
    else .next (s.setMe ((s.me.writeG d (s.me.pc + 4)).goto target))) s

end Sys2Proof.Machine
end

