-- ==== Sys2Proof/Machine/Xlate.lean ====
section
/-!
DEFINITION. Machine/Xlate.lean: address classes (08 R215), physical addresses and homes (08 R216 to R220), page walks and
cached translations (08 R225 to R229), and the resolution of weight-region pages (15 R370 to R376).
-/

namespace Sys2Proof.Machine

/-! ## Who accesses memory -/

/-- What an access is made with: the core, the partition if any, the CID, the mode, PTBASE and VERADOPT; the slot of each
region that the reads of a mill command or a re-plant resolve to, where they are fixed (06 R185, 15 R374); and the slots that a queue
entry resolved to at its enqueue (R374).
`plain`: its accesses are of kinds that are not tagged (08 R231).  `prio`: the priority of its packets (14 R362). -/
structure Agent where
  core    : Nat
  part    : Option Nat
  cid     : Nat
  mode    : Mode
  ptbase  : Word
  adopted : Option (BitVec 32)
  slotFix : Option (List (Nat × Nat)) := none
  noted   : Option (List QSlot) := none
  plain   : Bool := false
  prio    : Nat := 0
  deriving DecidableEq, Repr

/-- The strand belongs to no partition (13 R417). -/
def StrandKind.ofNoPartition : StrandKind → Bool
  | .supervisor | .chiplet => true
  | _ => false

/-- The partition of a strand at a core (04 R122, 13 R417). -/
def State.partitionOf (s : State) (k : Nat) : Option Nat :=
  if (s.strandAt k).kind.ofNoPartition || isChiplet (k / 4) then none else some (s.coreAt (k / 4)).part

/-- The partition of the strand that moves. -/
def State.myPart (s : State) : Option Nat := s.partitionOf s.cur

/-- What strand `k` accesses memory with. -/
def State.agentOf (s : State) (k : Nat) : Agent :=
  let t := s.strandAt k
  let c := s.coreAt (k / 4)
  { core := k / 4, part := s.partitionOf k, cid := bitsNat c.csrs.cidtag 15 0, mode := t.mode, ptbase := c.csrs.ptbase,
    adopted := t.adopted, prio := t.prio }

/-- What the strand that moves accesses memory with. -/
def State.myAgent (s : State) : Agent := s.agentOf s.cur

/-- The partition that an agent's traffic is charged to: its own, in user mode at a compute core (14 R364). -/
def Agent.payer (a : Agent) : Option Nat := if a.mode = .user ∧ isChiplet a.core = false then a.part else none

/-- Kinds of access, by the permissions they need (08 R227). -/
inductive Acc where
  | load | store | amo | red | fetch
  deriving DecidableEq, Repr

/-- The access counts as a write (08 R228). -/
def Acc.isWrite : Acc → Bool
  | .store | .amo | .red => true
  | _ => false

/-- The permission bits that an access needs: R in bit 1, W in bit 2, X in bit 3 (08 R227). -/
def Acc.needs : Acc → List Nat
  | .load => [1]
  | .store | .red => [2]
  | .amo => [1, 2]
  | .fetch => [3]

/-! ## Address classes -/

/-- The classes of virtual addresses (08 R215). -/
inductive Space where
  | global | sync | scratch | absent
  deriving DecidableEq, Repr

/-- The class of a virtual address (08 R215). -/
def spaceOf (va : Word) : Space :=
  if va.toNat ≤ 0x0000FFFF7FFFFFFF then .global
  else if va.toNat < 0xFFFFFFFF80000000 then .absent
  else if va.toNat < 0xFFFFFFFFC0000000 then .sync
  else .scratch

/-- The home core that an L-space address names (07 R200). -/
def localCore (va : Word) : Nat := bitsNat va 29 20

/-- The carve offset that an L-space address names (07 R200). -/
def localOff (va : Word) : Nat := bitsNat va 19 0

/-! ## Physical addresses -/

/-- 768 GiB, the end of local HBM (08 R216). -/
def hbmEnd : Nat := 0xC000000000

/-- 192 GiB, the end of one die's HBM (08 R217). -/
def dieEnd : Nat := 0x3000000000

/-- The location of a byte of local HBM under a HOME code (08 R217). -/
def locateHbm (home pa : Nat) : Option Nat :=
  if home = 0 then
    if pa < hbmEnd then some (pa / 2 ^ 12 % 4 * 2 ^ 38 + (pa / 2 ^ 14 * 2 ^ 12 + pa % 2 ^ 12)) else none
  else if home = 1 then
    if pa < hbmEnd then
      let q := pa / 2 ^ 16 * 2 ^ 14 + pa % 2 ^ 14
      some (pa / 2 ^ 14 % 4 * 2 ^ 38 + q ^^^ (q / 2 ^ 12 % 4 * 2 ^ 17))
    else none
  else if 4 ≤ home then
    if pa < dieEnd then some ((home - 4) * 2 ^ 38 + pa) else none
  else none

/-- The location of a byte at a physical address under a HOME code, where the address names memory (08 R216, R217). -/
def State.locate (s : State) (home pa : Nat) : Option Nat :=
  if pa < hbmEnd then locateHbm home pa
  else if 2 ^ 50 ≤ pa ∧ pa < 2 ^ 51 then
    if pa / 2 ^ 47 % 8 = s.domain then locateHbm 0 (pa % 2 ^ 47)
    else if s.modules.contains (pa / 2 ^ 47 % 8) ∧ pa % 2 ^ 47 < hbmEnd then some pa
    else none
  else if 2 ^ 51 ≤ pa ∧ pa < 2 ^ 52 then some pa
  else none

/-- The home die of a location in local HBM. -/
def dieOfKey (key : Nat) : Option Nat := if key < 2 ^ 40 then some (key / 2 ^ 38) else none

/-- The rim bank of a location of local HBM, as die * 32 + bank (08 R218); other memory has the number 128. -/
def bankOfKey (key : Nat) : Nat :=
  if key < 2 ^ 40 then
    let doff := key % 2 ^ 38
    key / 2 ^ 38 * 32 + (doff / 2 ^ 11 % 32) ^^^ (doff / 2 ^ 16 % 32)
  else 128

/-- The number in `n` bytes of local HBM at a physical address, HOME 000; zero where it names no memory. -/
def State.readPa (s : State) (pa n : Nat) : Nat :=
  match locateHbm 0 pa with
  | some k => s.readMem k n
  | none => 0

/-- The state with `n` bytes of local HBM written at a physical address, HOME 000. -/
def State.writePa (s : State) (pa n v : Nat) : State :=
  match locateHbm 0 pa with
  | some k => s.writeMem k n v
  | none => s

/-! ## Page walks -/

/-- The fields of a table entry (08 R227). -/
def pteValid (e : Word) : Bool := bitAt e 0
def pteUser (e : Word) : Bool := bitAt e 4
def pteGlobal (e : Word) : Bool := bitAt e 5
def pteCont (e : Word) : Bool := bitAt e 8
def pteNc (e : Word) : Bool := bitAt e 9
def pteLossy (e : Word) : Nat := bitsNat e 11 10
def ptePa (e : Word) : Nat := bitsNat e 51 12 * 4096
def pteHome (e : Word) : Nat := bitsNat e 54 52
def pteRegion (e : Word) : Option Nat := if bitAt e 55 then some (bitsNat e 63 56) else none

/-- How a walk ends: at a leaf, with its level, page size and entry and the location of the entry; or with a validity fault
at a level (08 R226). -/
inductive Walk where
  | leaf (level size : Nat) (entry : Word) (key : Nat)
  | invalid (level : Nat)
  deriving DecidableEq, Repr

/-- The size of a page whose leaf is at a level (08 R226). -/
def pageSize (level : Nat) : Nat := 2 ^ (12 + 9 * (3 - level))

/-- A leaf entry at a level, checked (08 R226, R227, R217).  R227 says that REGION must be 0 where WR is 0 and that CONT belongs to
level 3, and states no consequence of either: the model ignores both (log entry 47). -/
def checkLeaf (sync : Bool) (level key : Nat) (e : Word) : Walk :=
  let size := pageSize level
  if level = 0 then .invalid 0
  else if sync && level != 3 then .invalid level
  else if ptePa e % size ≠ 0 then .invalid level
  else if pteLossy e = 3 then .invalid level
  else if ptePa e < hbmEnd ∧ (pteHome e = 2 ∨ pteHome e = 3) then .invalid level
  else .leaf level size e key

/-- The walk from a table through the levels that remain (08 R226). -/
def State.walkFrom (s : State) (sync : Bool) (va : Nat) : List Nat → Nat → Walk
  | [], _ => .invalid 3
  | l :: ls, table =>
    match locateHbm 0 (table + va / 2 ^ (39 - 9 * l) % 512 * 8) with
    | none => .invalid l
    | some k =>
      let e : Word := BitVec.ofNat 64 (s.readMem k 8)
      if !pteValid e then .invalid l
      else if l = 3 ∨ bitsNat e 3 1 ≠ 0 then checkLeaf sync l k e
      else if bitsNat e 63 52 ≠ 0 ∨ bitsNat e 11 4 ≠ 0 then .invalid l
      else s.walkFrom sync va ls (ptePa e)

/-- The walk of an address under a PTBASE (08 R225, R226). -/
def State.walk (s : State) (ptbase : Word) (va : Word) : Walk :=
  if !bitAt ptbase 0 then .invalid 0
  else s.walkFrom (spaceOf va == .sync) (va.toNat % 2 ^ 48) [0, 1, 2, 3] (bitsNat ptbase 51 12 * 4096)

/-- An entry without its PPN, A and D fields, which the entries of a 64 KiB page share (08 R227). -/
def pteAttributes (e : Word) : Word := e &&& 0xFFF0000000000F3F

/-- The sixteen entries of the 64 KiB range of a level-3 entry (08 R227). -/
def State.contGroup (s : State) (key : Nat) : List Word :=
  (List.range 16).map fun i => BitVec.ofNat 64 (s.readMem (key / 128 * 128 + 8 * i) 8)

/-- The entries form a 64 KiB page (08 R227). -/
def contUniform (es : List Word) : Bool :=
  let e0 := es.headD 0
  decide (bitsNat e0 51 12 % 16 = 0) &&
    (es.zipIdx.all fun (e, i) => pteValid e && pteCont e && decide (pteAttributes e = pteAttributes e0) &&
      decide (bitsNat e 51 12 = bitsNat e0 51 12 + i))

/-- A level-3 entry taken as describing its whole 64 KiB page, read at the page's `i`-th 4 KiB (08 R227). -/
def contEntry (e : Word) (i : Nat) : Word := setBits e 51 12 (bitsNat e 51 12 / 16 * 16 + i)

/-- The locations of the entries that a walk reads, from a table through the levels that remain (08 R226). -/
def State.walkKeysFrom (s : State) (va : Nat) : List Nat → Nat → List Nat
  | [], _ => []
  | l :: ls, table =>
    match locateHbm 0 (table + va / 2 ^ (39 - 9 * l) % 512 * 8) with
    | none => []
    | some k =>
      let e : Word := BitVec.ofNat 64 (s.readMem k 8)
      if l = 3 || !pteValid e || bitsNat e 3 1 != 0 || bitsNat e 63 52 != 0 || bitsNat e 11 4 != 0 then [k]
      else k :: s.walkKeysFrom va ls (ptePa e)

/-- The locations of the entries that the walk of an address under a PTBASE reads, level by level. -/
def State.walkKeys (s : State) (ptbase : Word) (va : Word) : List Nat :=
  if !bitAt ptbase 0 then []
  else s.walkKeysFrom (va.toNat % 2 ^ 48) [0, 1, 2, 3] (bitsNat ptbase 51 12 * 4096)

/-! ## Cached translations -/

/-- The entry stands where an access of a core finds it: in its L1 TLB, or in the L2 TLB of its cluster (08 R229). -/
def TlbEntry.seenBy (x : TlbEntry) (core : Nat) : Bool :=
  if x.shared then !isChiplet core && clusterOf x.core == clusterOf core else x.core == core

/-- The entry matches an access (08 R229). -/
def TlbEntry.hits (x : TlbEntry) (a : Agent) (va : Nat) : Bool :=
  x.seenBy a.core && (x.glob || x.cid == a.cid) && decide (x.base ≤ va) && decide (va < x.base + x.size)

/-- The schedule's next choice between an old and a new value; new where it says nothing (08 R229, 02 R29). -/
def M.lag : M Bool := do
  let s ← get
  match s.lags with
  | [] => return false
  | b :: bs => set { s with lags := bs }; return b

/-- The entry without its A and D bits. -/
def pteStill (e : Word) : Word := e &&& ~~~0xC0

/-- The translation fault bits of INFO (08 R228). -/
def faultBits (a : Agent) (k : Acc) (perm : Bool) (level : Nat) : Nat :=
  (if a.mode = .user then 2 ^ 53 else 0) + (if k = .fetch then 2 ^ 52 else 0) + (if k.isWrite then 2 ^ 51 else 0) +
    (if perm then 2 ^ 50 else 0) + level * 2 ^ 48

/-- The exception of a validity or permission fault (08 R228). -/
def xlateExc (a : Agent) (k : Acc) (va : Word) (perm : Bool) (level extra : Nat) : Exc :=
  { code := if perm then 0x06 else if k = .fetch then 0x03 else if k.isWrite then 0x05 else 0x04,
    addr := va, info := BitVec.ofNat 64 (extra + faultBits a k perm level) }

/-- ACCESS with an INFO of its own. -/
def accessExc (va : Word) (info : Nat) : Exc := { code := 0x06, addr := va, info := BitVec.ofNat 64 info }

/-- The state with a translation filled into the L1 TLB of its core, and into the L2 TLB of its cluster (08 R229). -/
def State.cacheLeaf (s : State) (e : TlbEntry) : State :=
  let same := fun (x : TlbEntry) => x.seenBy e.core && x.cid == e.cid && x.base == e.base && x.size == e.size
  let kept := s.tlb.filter fun x => !same x
  { s with tlb := if isChiplet e.core then e :: kept else e :: { e with shared := true } :: kept }

/-! ## Weight regions -/

/-- A field of partition `p`'s version table (15 R371). -/
def State.verField (s : State) (p off n : Nat) : Nat := s.readPa ((s.partAt p).vtable + off) n

/-- The state with a field of partition `p`'s version table written. -/
def State.setVerField (s : State) (p off n v : Nat) : State := s.writePa ((s.partAt p).vtable + off) n v

/-- States of a version slot (15 R371). -/
def slotStaging : Nat := 1
def slotPublished : Nat := 2
def slotRetiring : Nat := 3

/-- The offset of region entry `r` (15 R371). -/
def regionOff (r : Nat) : Nat := 0x100 + 64 * r

/-- The state of slot `i` of region `r` (15 R371). -/
def State.slotState (s : State) (p r i : Nat) : Nat := s.verField p (regionOff r + 36 + i) 1 % 4

/-- VER of slot `i` of region `r` (15 R371). -/
def State.slotVer (s : State) (p r i : Nat) : Nat := s.verField p (regionOff r + 40 + 4 * i) 4

/-- Region `r` is declared (15 R371). -/
def State.declared (s : State) (p r : Nat) : Bool := s.verField p (regionOff r + 32) 1 % 2 == 1

/-- STRIDE of region `r` (15 R371). -/
def State.regionStride (s : State) (p r : Nat) : Nat := s.verField p (regionOff r + 16) 8

/-- The slot that a read of region `r` at version `v` resolves to: PUBLISHED or RETIRING, with the greatest VER not above
`v` (15 R374). -/
def State.readSlot (s : State) (p r v : Nat) : Option Nat :=
  ((List.range 4).filter fun i => decide (2 ≤ s.slotState p r i) && decide (s.slotVer p r i ≤ v)).foldl
    (fun best i => match best with
      | none => some i
      | some j => if s.slotVer p r j < s.slotVer p r i then some i else some j) none

/-- The STAGING slot of region `r` (15 R372). -/
def State.stagingSlot (s : State) (p r : Nat) : Option Nat :=
  (List.range 4).find? fun i => s.slotState p r i == slotStaging

/-- The weight-region slots that an agent's accesses resolve to now: of each declared region the slot of its reads and that of its
writes, with the state that it has (15 R374). -/
def State.noteSlots (s : State) (a : Agent) : List QSlot :=
  match a.part with
  | none => []
  | some p =>
    ((List.range 256).filter (s.declared p)).flatMap fun r =>
      let note := fun (write : Bool) (i : Nat) => ({ region := r, write, slotNo := i, state := s.slotState p r i } : QSlot)
      ((a.adopted.bind fun v => s.readSlot p r v.toNat).map (note false)).toList ++ ((s.stagingSlot p r).map (note true)).toList

/-- The slot that an access to a page of region `r` resolves to, or the code of R375 with which it fails. -/
def State.resolve (s : State) (a : Agent) (k : Acc) (r : Nat) : Except Nat Nat :=
  match a.part with
  | none => .error 8
  | some p =>
    if k = .amo ∨ k = .red then .error 4
    else if !s.declared p r then .error 6
    else if a.noted.isSome then
      match (a.noted.getD []).find? fun x => x.region == r && x.write == k.isWrite with
      | some x => if s.slotState p r x.slotNo = x.state then .ok x.slotNo else .error 3
      | none => if k.isWrite then .error 3 else if a.adopted.isNone then .error 1 else .error 2
    else if k.isWrite then
      match s.stagingSlot p r with
      | some i => .ok i
      | none => .error 3
    else if a.slotFix.isSome then
      match (a.slotFix.getD []).find? (·.1 == r) with
      | some x => .ok x.2
      | none => if a.adopted.isNone then .error 1 else .error 2
    else match a.adopted with
      | none => .error 1
      | some v => match s.readSlot p r v.toNat with
        | some i => .ok i
        | none => .error 2

/-- The version that an agent's adoption names for region `r`: VER of the slot a read resolves to (15 R374). -/
def State.namedVersion (s : State) (a : Agent) (r : Nat) : Option Nat :=
  match a.part, a.adopted with
  | some p, some v => (s.readSlot p r v.toNat).map (s.slotVer p r)
  | _, _ => none

/-! ## Places -/

/-- How an access to memory is cached: the page's NC bit, and the partition and virtual address by which it may be given a
retention tag, where it is of a kind that is tagged (08 R221, R231). -/
structure Caching where
  nc     : Bool := false
  part   : Option Nat := none
  va     : Nat := 0
  deriving DecidableEq, Repr

/-- What an access reaches: memory at a location, with its LOSSY code, its caching and its weight region and slot; a byte of the S
windows, by its offset; or a byte of a core's scratchpad carve. -/
inductive Place where
  | mem (key lossy : Nat) (how : Caching) (region : Option (Nat × Nat))
  | window (off : Nat)
  | carve (core off : Nat)
  deriving DecidableEq, Repr

/-- The end of the S windows (08 R220). -/
def windowsEnd : Nat := 0x20090000

/-- The TLB entries that an invalidation removes from the TLBs of the cores it covers (08 R230). -/
def TlbKind.removes (kind : TlbKind) (x : TlbEntry) : Bool :=
  match kind with
  | TlbKind.page va n => decide (x.base ≤ va.toNat) && decide (va.toNat < x.base + x.size) && (x.glob || x.cid == n)
  | TlbKind.cid n => !x.glob && x.cid == n
  | TlbKind.ctx => !x.glob
  | TlbKind.all => true

/-- Core `d` lies within a scope of core `c` (10 R268). -/
def inScope (sc : Scope) (c d : Nat) : Bool :=
  match sc with
  | .strand | .core => c == d
  | .cluster => if isChiplet c || isChiplet d then c == d else clusterOf c == clusterOf d
  | .die => if isChiplet c || isChiplet d then c == d else c / 256 == d / 256
  | .module | .system => true

end Sys2Proof.Machine
end

