-- ==== Sys2Proof/Machine/Cache.lean ====
section
/-!
DEFINITION. Machine/Cache.lean: the caches (08 R218, R221 to R224, R231 to R235).  The state's memory holds the newest bytes of every
line, which is what any party reads; a dirty slice line keeps the older bytes that its home holds, which CFLUSH.inv brings back.
Capacities bind as the spec gives them, and a full L1, slice cache or RDC loses its oldest fill (log entry 48).
-/

namespace Sys2Proof.Machine

/-! ## Lines -/

/-- The 64-byte lines that meet the `n` bytes from a location. -/
def linesOf (key n : Nat) : List Nat := if n = 0 then [] else (List.range ((key % 64 + n + 63) / 64)).map (key / 64 + ·)

/-- Core `c`'s L1 holds a line. -/
def State.l1Has (s : State) (c line : Nat) : Bool := s.l1.contains (c, line)

/-- The RDC of cluster `c` holds a replica of a line. -/
def State.rdcHas (s : State) (c line : Nat) : Bool := s.rdc.contains (c, line)

/-- Core `c`'s slice cache holds a line. -/
def State.sliceHas (s : State) (c line : Nat) : Bool := s.slices.any fun x => x.core == c && x.line == line

/-- The lines of core `c`'s slice cache: 64 KiB for each way that its carve leaves (07 R197). -/
def State.sliceRoom (s : State) (c : Nat) : Nat := (16 - bitsNat (s.coreAt c).csrs.spadways 4 0) * 1024

/-- A line is homed on a core's own die. -/
def ownDie (c line : Nat) : Bool := dieOfKey (line * 64) == some (c / 256)

/-- Core `c` reads a line without a message to its home: from its L1, its slice cache or its cluster's RDC (08 R221). -/
def State.lineNear (s : State) (c line : Nat) (nc : Bool) : Bool :=
  !nc && !isChiplet c &&
    (s.l1Has c line || if ownDie c line then s.sliceHas c line else s.rdcHas (clusterOf c) line)

/-! ## Retention tags -/

/-- The retention tag of a G-space access: the lowest-numbered active register of its partition whose range holds its address (08
R231). -/
def State.retentionTag (s : State) (part : Option Nat) (va : Nat) : RimMark :=
  match part with
  | none => .ordinary
  | some p =>
    match (s.partAt p).retention.toList.zipIdx.find? fun x =>
        x.1.mode != .inactive && decide (x.1.base ≤ va) && decide (va < x.1.base + x.1.len) with
    | none => .ordinary
    | some (x, r) => if x.mode = .pinned then .pinned p r else .evictFirst p r

/-- The ways that partition `p` is granted: those of its active pinned registers (08 R232). -/
def State.pinWays (s : State) (p : Nat) : Nat :=
  ((s.partAt p).retention.toList.filter fun x => x.mode == .pinned).map (·.ways) |>.sum

/-! ## Rim banks -/

/-- The line is evict-first. -/
def RimLine.isEvictFirst (x : RimLine) : Bool :=
  match x.mark with
  | .evictFirst _ _ => true
  | _ => false

/-- The partition that a line is pinned for. -/
def RimLine.pinnedFor (x : RimLine) : Option Nat :=
  match x.mark with
  | .pinned p _ => some p
  | _ => none

/-- A line of a set is protected: it is among the G_p most recently used lines pinned for its partition (08 R224). -/
def State.rimProtected (s : State) (set : List RimLine) (x : RimLine) : Bool :=
  match x.pinnedFor with
  | none => false
  | some p => decide ((set.filter fun y => y.pinnedFor == some p && decide (x.used < y.used)).length < s.pinWays p)

/-- The line of a list with the least rank. -/
def leastBy (rank : RimLine → Nat) : List RimLine → Option RimLine
  | [] => none
  | x :: xs => match leastBy rank xs with
    | none => some x
    | some y => some (if rank y < rank x then y else x)

/-- The line that a full set evicts: the least recently filled evict-first line, the least recently used ordinary line, or the
least recently used protected line (08 R224). -/
def State.rimVictim (s : State) (set : List RimLine) : Option RimLine :=
  match leastBy (·.filled) (set.filter (·.isEvictFirst)) with
  | some x => some x
  | none => match leastBy (·.used) (set.filter fun x => !s.rimProtected set x) with
    | some x => some x
    | none => leastBy (·.used) set

/-- The number of the rim set of a line of local HBM: its bank, and doff[21:16] (08 R218). -/
def rimSetOf (line : Nat) : Nat := bankOfKey (line * 64) * 64 + line * 64 % 2 ^ 38 / 2 ^ 16 % 64

/-- A use of a line at its rim bank, which fills it where the bank does not hold it (08 R224).  A use by an access gives its
2 KiB line the access's mark; the write-back of a slice line, which is no access, leaves the mark. -/
def State.rimUse (s : State) (line : Nat) (mark : Option RimMark) : State :=
  if 2 ^ 40 ≤ line * 64 then s
  else
    let n := line / 32
    let set := Tab.get [] s.rim (rimSetOf line)
    let now := s.rimUses
    let next :=
      if set.any (·.line == n) then
        set.map fun x => if x.line = n then { x with mark := mark.getD x.mark, used := now } else x
      else
        let kept := if set.length < 16 then set else match s.rimVictim set with
          | none => set
          | some v => set.filter (·.line != v.line)
        { line := n, mark := mark.getD .ordinary, filled := now, used := now } :: kept
    { s with rim := Tab.set s.rim (rimSetOf line) next, rimUses := now + 1 }

/-- Lines marked by register `r` of partition `p` become ordinary (08 R233). -/
def State.unmark (s : State) (p r : Nat) : State :=
  let plain := fun (x : RimLine) => if x.mark = .pinned p r ∨ x.mark = .evictFirst p r then { x with mark := .ordinary } else x
  { s with rim := s.rim.map fun e => (e.1, e.2.map plain) }

/-! ## L1, slice cache and RDC -/

/-- A list with an entry at its head; of the entries that count, the last is lost where there is no room. -/
def pushBounded {α : Type} (mine : α → Bool) (room : Nat) (x : α) (xs : List α) : List α :=
  if (xs.filter mine).length < room then x :: xs
  else x :: (xs.reverse.eraseP mine).reverse

/-- The state with a line in core `c`'s L1, of 1,024 lines (08 R221). -/
def State.fillL1 (s : State) (c line : Nat) : State :=
  if s.l1Has c line then s else { s with l1 := pushBounded (·.1 == c) 1024 (c, line) s.l1 }

/-- The state with a replica in a cluster's RDC, of 16,384 lines (08 R221). -/
def State.fillRdc (s : State) (c line : Nat) : State :=
  if s.rdcHas c line then s else { s with rdc := pushBounded (·.1 == c) 16384 (c, line) s.rdc }

/-- The state as slice lines leave their caches: newer data is written to its home (08 R221). -/
def State.writeBack (s : State) : List SliceLine → State
  | [] => s
  | x :: xs => State.writeBack (if x.home.isSome then s.rimUse x.line none else s) xs

/-- Core `c`'s slice cache within its room: its oldest fills leave it (07 R197, R198). -/
def State.trimSlice (s : State) (c : Nat) : State :=
  let mine := s.slices.filter (·.core == c)
  let gone := mine.drop (s.sliceRoom c)
  { s with slices := s.slices.filter fun x => !gone.contains x }.writeBack gone

/-- Another reader takes a copy of a line: its owner keeps newer data, and no cache is its only holder (08 R221). -/
def State.shareLine (s : State) (line : Nat) : State :=
  { s with slices := s.slices.map fun x => if x.line = line then { x with state := match x.state with
      | .modified => .owned
      | .exclusive => .shared
      | y => y } else x }

/-- A line that core `c` fetches into its slice cache: exclusive where no other cache holds it (08 R221). -/
def State.fillSlice (s : State) (c line : Nat) (mark : RimMark) : State :=
  let s := s.rimUse line (some mark)
  let alone := !(s.slices.any (·.line == line)) && !(s.rdc.any (·.2 == line))
  let s := s.shareLine line
  { s with slices := { core := c, line, state := if alone then .exclusive else .shared } :: s.slices }.trimSlice c

/-- A line is brought to the tier below core `c`'s L1: the slice cache for a line of its own die, the RDC for another (08
R221). -/
def State.fetchLine (s : State) (c line : Nat) (mark : RimMark) : State :=
  if ownDie c line then
    if s.sliceHas c line then s
    else if s.sliceRoom c = 0 then s.rimUse line (some mark)
    else s.fillSlice c line mark
  else if s.rdcHas (clusterOf c) line then s
  else ((s.rimUse line (some mark)).shareLine line).fillRdc (clusterOf c) line

/-- A read of a line by core `c` through its caches (08 R221). -/
def State.readLine (s : State) (c line : Nat) (nc : Bool) (mark : RimMark) : State :=
  if nc || isChiplet c then s.rimUse line (some mark)
  else if s.l1Has c line then s
  else (s.fetchLine c line mark).fillL1 c line

/-- The tag of the first byte of an access in a line. -/
def State.lineTag (s : State) (how : Caching) (key line : Nat) : RimMark :=
  s.retentionTag how.part (how.va + (line * 64 - key))

/-- A read of `n` bytes by core `c` through its caches. -/
def State.readLines (s : State) (c : Nat) (how : Caching) (key n : Nat) : State :=
  (linesOf key n).foldl (fun s line => s.readLine c line how.nc (s.lineTag how key line)) s

/-- A read or write of `n` bytes at their homes, past the caches. -/
def State.useLines (s : State) (how : Caching) (key n : Nat) : State :=
  (linesOf key n).foldl (fun s line => s.rimUse line (some (s.lineTag how key line))) s

/-- The 64 bytes of a line, each with its poison. -/
def State.lineBytes (s : State) (line : Nat) : List (Byte × Bool) :=
  (List.range 64).map fun i => (s.byteAt (line * 64 + i), s.poisoned.contains (line * 64 + i))

/-- Core `c`'s slice holds a line in state M or E. -/
def State.sliceOwns (s : State) (c line : Nat) : Bool :=
  s.slices.any fun x => x.core == c && x.line == line && (x.state == .modified || x.state == .exclusive)

/-- Core `c`'s slice takes a line to write it: every other copy goes, and the bytes that its home holds are noted (08 R221). -/
def State.takeLine (s : State) (c line : Nat) (mark : RimMark) : State :=
  let old := (s.slices.filter (·.line == line)).findSome? (·.home)
  let s := if s.sliceOwns c line then s else s.rimUse line (some mark)
  let x : SliceLine := { core := c, line, state := .modified, home := some (old.getD (s.lineBytes line)) }
  { s with slices := x :: s.slices.filter (·.line != line), rdc := s.rdc.filter (·.2 != line),
           l1 := s.l1.filter fun e => e.2 != line || e.1 == c }.trimSlice c

/-- A store performed in core `c`'s own slice (08 R221). -/
def State.storeOwn (s : State) (c : Nat) (how : Caching) (cells : List (Nat × Byte)) : State :=
  let start := (cells.headD (0, 0)).1
  let lines := (cells.map fun x => x.1 / 64).eraseDups
  let s := lines.foldl (fun s line => s.takeLine c line (s.lineTag how start line)) s
  let t := cells.foldl (fun s x => s.writeByte x.1 x.2) s
  { t with l1 := s.l1, rdc := s.rdc, slices := s.slices }

/-! ## Flushes and prefetches -/

/-- The kinds of CFLUSH (08 R235). -/
inductive FlushKind where
  | writeBack | writeBackInvalidate | invalidate
  deriving DecidableEq, Repr

/-- The state with the bytes that a line's home holds, its newer data lost. -/
def State.loseLine (s : State) (line : Nat) (old : List (Byte × Bool)) : State :=
  let t := s.writeBytes (line * 64) (old.map (·.1))
  { t with poisoned := ((old.zipIdx.filter fun x => x.1.2).map fun x => line * 64 + x.2) ++ t.poisoned }

/-- No cache holds a copy of a line. -/
def State.dropLine (s : State) (line : Nat) : State :=
  { s with l1 := s.l1.filter (·.2 != line), rdc := s.rdc.filter (·.2 != line), slices := s.slices.filter (·.line != line) }

/-- The caches of some cores lose their contents, and with the slices goes the newer data that only they held (17 R401, R402). -/
def State.loseCaches (s : State) (gone : Nat → Bool) (cluster : Nat → Bool) : State :=
  let lose := fun (s : State) (x : SliceLine) => match x.home with
    | none => s
    | some bs => (s.dropLine x.line).loseLine x.line bs
  let s := (s.slices.filter fun x => gone x.core).foldl lose s
  { s with l1 := s.l1.filter fun e => !gone e.1, rdc := s.rdc.filter fun e => !cluster e.1,
           slices := s.slices.filter fun x => !gone x.core }

/-- CFLUSH of one line, in every cache of the module (08 R235). -/
def State.flushLine (s : State) (kind : FlushKind) (line : Nat) : State :=
  let old := (s.slices.filter (·.line == line)).findSome? (·.home)
  match kind with
  | .writeBack =>
    let clean := fun (x : SliceLine) => if x.line = line then { x with home := none, state := match x.state with
      | .modified => .exclusive
      | .owned => .shared
      | y => y } else x
    let s := if old.isSome then s.rimUse line none else s
    { s with slices := s.slices.map clean }
  | .writeBackInvalidate => (if old.isSome then s.rimUse line none else s).dropLine line
  | .invalidate => match old with
    | none => s.dropLine line
    | some bs => (s.dropLine line).loseLine line bs

/-- PREF of one line by core `c` (08 R234): towards the L1, to the slice cache or RDC, or to the rim cache only; `sole` asks for
state E, which the home allows where no other cache holds the line. -/
def State.prefLine (s : State) (c line : Nat) (nc sole : Bool) (level : PrefLevel) (mark : RimMark) : State :=
  let s := if nc || isChiplet c || level == .rim then s.rimUse line (some mark)
    else match level with
      | .l1 => s.readLine c line nc mark
      | _ => s.fetchLine c line mark
  let alone := !(s.slices.any fun x => x.line == line && x.core != c) && !(s.rdc.any (·.2 == line))
  if sole && alone then
    { s with slices := s.slices.map fun x => if x.line = line ∧ x.state = .shared then { x with state := .exclusive } else x }
  else s

end Sys2Proof.Machine
end

