-- ==== Sys2Proof/Machine/Net.lean ====
section
/-!
DEFINITION. Machine/Net.lean: sending messages (07 R203, R204, 10 R267), their flits and paths (14 R358 to R361), the shares of
the ports (14 R364, R365) and the timed slots (14 R366 to R368).
-/

namespace Sys2Proof.Machine

/-! ## Messages -/

/-- Bytes of an AMO or RED operand (11 R302). -/
def amoSize : AmoWidth → Nat
  | .w64 => 8
  | _ => 4

/-- The data bytes that a message carries. -/
def MsgBody.dataBytes : MsgBody → Nat
  | .store cells => cells.length
  | .red _ w _ _ => amoSize w
  | .reds _ w items => items.length * amoSize w
  | .amo .. => 8
  | _ => 0

/-- Flits of so many data bytes behind a head flit (14 R359). -/
def flitsOf (bytes : Nat) : Nat := 1 + (bytes + 127) / 128

/-- Flits of a message: a head and up to 16 data flits of 128 bytes (14 R359). -/
def MsgBody.flits (b : MsgBody) : Nat :=
  match b with
  | .packet n .. => n
  | _ => flitsOf b.dataBytes

/-- The flits charged for a message: a read or an AMO is also charged its response (14 R364). -/
def MsgBody.charge (b : MsgBody) : Nat :=
  match b with
  | .load .. | .amo .. => b.flits + 2
  | .vload _ n => b.flits + flitsOf n
  | .packet n back .. => n + back
  | _ => b.flits

/-- The destination number of a location's home: a core, or a rim bank or other memory (10 R267, 14 R359). -/
def destOfKey (key : Nat) : Nat :=
  if 2 ^ 48 ≤ key ∧ key < 2 ^ 50 then (key - 2 ^ 48) / 2 ^ 20 else 2048 + bankOfKey key

/-- The ranges of locations that a message reads or writes: a first location and a length each. -/
def MsgBody.ranges : MsgBody → List (Nat × Nat)
  | .store cells => cells.map fun c => (c.1, 1)
  | .red _ w k _ => [(k, amoSize w)]
  | .reds _ w items => items.map fun x => (x.1, amoSize w)
  | .amo _ w _ k _ _ _ _ => [(k, amoSize w)]
  | .load k n _ _ _ => [(k, n)]
  | .vload k n => [(k, n)]
  | _ => []

/-- The message reads or writes a location of the `n` bytes from `key`. -/
def Msg.touches (m : Msg) (key n : Nat) : Bool :=
  m.body.ranges.any fun r => decide (key < r.1 + r.2) && decide (r.1 < key + n)

/-- The core from which a message comes: that of its sender, or the one that forwarded it (11 R287). -/
def Msg.source (m : Msg) : Nat := m.origin.getD m.sender.core

/-- The sender of messages of strand `k`. -/
def State.senderOf (s : State) (k : Nat) : Sender :=
  { core := k / 4, slot := k % 4, cid := bitsNat (s.coreAt (k / 4)).csrs.cidtag 15 0, part := s.partitionOf k,
    sup := (s.strandAt k).kind == .supervisor }

/-- The message was sent by strand `k` as it stands now: not by one that has ended or is a departed context's, nor by the one
that a supervisor strand stands before; nor by a queue entry or another engine (10 R271). -/
def State.sentBy (s : State) (k : Nat) (m : Msg) : Bool :=
  !m.sender.dead && !m.sender.engine && m.sender.core == k / 4 && m.sender.slot == k % 4 &&
    m.sender.sup == ((s.strandAt k).kind == .supervisor) &&
    (m.sender.sup || isChiplet (k / 4) || m.sender.cid == bitsNat (s.coreAt (k / 4)).csrs.cidtag 15 0)

/-- The strand has a message in flight to a location. -/
def State.inFlight (s : State) (k key n : Nat) : Bool := s.net.any fun m => s.sentBy k m && m.touches key n

/-- A message of the pair of a core and a home core is in flight (10 R267): one that was diverted has reached its destination. -/
def State.pairBusy (s : State) (core dest : Nat) : Bool :=
  s.net.any fun m => m.source == core && m.dest == dest && !m.diverted

/-- The message reads: a load or an AMO. -/
def MsgBody.isRead : MsgBody → Bool
  | .load .. | .amo .. => true
  | _ => false

/-- The message is the read of a waiting vector load, which no other instruction of the strand waits for. -/
def MsgBody.isVload : MsgBody → Bool
  | .vload .. => true
  | _ => false

/-- The message writes: anything but a load. -/
def MsgBody.isWriting : MsgBody → Bool
  | .load .. | .vload .. | .packet .. => false
  | _ => true

/-- The strand has a load or an AMO in flight (10 R270). -/
def State.readBusy (s : State) (k : Nat) : Bool := s.net.any fun m => s.sentBy k m && m.body.isRead

/-- The strand has a message in flight that USC does not count: what a barrier arrival or a signal waits for (10 R273). -/
def State.uncountedBusy (s : State) (k : Nat) : Bool := s.net.any fun m => s.sentBy k m && !m.counted && !m.body.isVload

/-- The strand has a write in flight that USC does not count: that of an AMO, or a signal or arrival at a window (10 R270). -/
def State.writeBusy (s : State) (k : Nat) : Bool :=
  s.net.any fun m => s.sentBy k m && !m.counted && m.body.isWriting

/-- The serial numbers of the strand's messages in flight: what a release of it comes after (10 R272). -/
def State.outstanding (s : State) (k : Nat) : List Nat :=
  (s.net.filter fun m => s.sentBy k m && !m.body.isVload).map (·.serial)

/-- The slotted messages that the cores' departed contexts hold in their husks: they have not been performed (13 R345). -/
def State.spilled (s : State) : List Msg := (s.cores.map fun c => (c.2.departed.map (·.spilled)).flatten).flatten

/-- Every one of these messages has been performed. -/
def State.allPerformed (s : State) (after : List Nat) : Bool :=
  !(s.net.any fun m => after.contains m.serial) && !(s.spilled.any fun m => after.contains m.serial)

/-- The strand has any message in flight. -/
def State.anyBusy (s : State) (k : Nat) : Bool := s.net.any fun m => s.sentBy k m && !m.body.isVload

/-- The strand has an S-space message in flight (10 R266). -/
def State.syncBusy (s : State) (k : Nat) : Bool :=
  s.net.any fun m => s.sentBy k m &&
    match m.body with
    | .arrive .. | .evsig .. => true
    | .expect _ _ _ r => r.isNone
    | _ => false

/-- The packets of the network: those of the messages that homes perform, and the others. -/
def State.packets (s : State) : List Msg := s.net ++ s.traffic

/-- The state with every packet changed. -/
def State.mapPackets (s : State) (f : Msg → Msg) : State := { s with net := s.net.map f, traffic := s.traffic.map f }

/-! ## Routers and paths -/

/-- The router at which the chiplet attaches to a die (14 R358). -/
def attachment (die : Nat) : Nat × Nat := (15 + die % 2, 15 + die / 2)

/-- The router of an end of a path: a core, or the rim bank of a destination number; none for the chiplet and what lies behind it
(14 R358). -/
def endRouter (e : Nat) : Option (Nat × Nat) :=
  if e < 1024 then some (e / 256 % 2 * 16 + e % 16, e / 512 * 16 + e / 16 % 16)
  else if 2048 ≤ e ∧ e < 2048 + 128 then
    let d := (e - 2048) / 32
    let b := (e - 2048) % 32
    some (d % 2 * 16 + b % 16, d / 2 * 16 + if b < 16 then 0 else 15)
  else none

/-- The die of a router. -/
def dieOfRouter (r : Nat × Nat) : Nat := r.2 / 16 * 2 + r.1 / 16

/-- The router where a path between two ends has its first: the chiplet uses its attachment on the other end's die. -/
def routerOf (e peer : Nat) : Nat × Nat :=
  match endRouter e with
  | some r => r
  | none => attachment (((endRouter peer).map dieOfRouter).getD 0)

/-- The output port towards a router: 0 east, 1 west, 2 south, 3 north, 4 and 5 a skip of four columns east and west (14 R360);
none at the router itself. -/
def portTo (x y gx gy : Nat) : Option Nat :=
  if x < gx then some (if 4 ≤ min gx (x / 16 * 16 + 15) - x then 4 else 0)
  else if gx < x then some (if 4 ≤ x - max gx (x / 16 * 16) then 5 else 1)
  else if y < gy then some 2
  else if gy < y then some 3
  else none

/-- The router behind an output port. -/
def throughPort (port x y : Nat) : Nat × Nat :=
  match port with
  | 0 => (x + 1, y)
  | 1 => (x - 1, y)
  | 2 => (x, y + 1)
  | 3 => (x, y - 1)
  | 4 => (x + 4, y)
  | _ => (x - 4, y)

/-- The input port of the next router that an output port leads to. -/
def inputOf (port : Nat) : Nat := if port % 2 = 0 then port + 1 else port - 1

/-- A channel, by its die and a number of its router and output port. -/
def channelNo (x y port : Nat) : Nat × Nat := (dieOfRouter (x, y), (y * 32 + x) * 8 + port)

/-- The state with flits counted over a channel (14 R361). -/
def State.countChannel (s : State) (ch : Nat × Nat) (flits : Nat) : State :=
  let m := s.monitorAt ch.1
  s.setMonitor ch.1 { m with counts := Tab.set m.counts ch.2 (Tab.get 0 m.counts ch.2 + flits) }

/-! ## Shares of a port -/

/-- The sum of the share weights (14 R364). -/
def State.weightSum (s : State) : Nat := (s.parts.map fun e => if e.2.made then e.2.weight else 0).sum

/-- The base refill of a partition (14 R364). -/
def State.baseRefill (s : State) (p : Nat) : Nat := 1024 * (s.partAt p).weight / s.weightSum

/-- The bucket of a partition at a core.  Where nothing was charged there it is full, and the last refill found it so if the partition
was made before that (14 R364, R365). -/
def State.bucketAt (s : State) (c p : Nat) : Bucket :=
  let q := s.baseRefill p
  Tab.get { level := q, capacity := q, fullOnce := decide ((s.partAt p).born < s.refilled) } (s.coreAt c).buckets p

/-- The state with a bucket replaced. -/
def State.setBucket (s : State) (c p : Nat) (b : Bucket) : State :=
  s.setCore c { s.coreAt c with buckets := Tab.set (s.coreAt c).buckets p b }

/-- The partition that a message is charged to: its sender's, for user traffic of a compute core that is not slotted (14
R364). -/
def Msg.charged (m : Msg) : Option Nat :=
  if m.user && !m.slotted && !isChiplet m.source then m.sender.part else none

/-- The state with a partition's bucket charged at a core. -/
def State.chargeBucket (s : State) (c p flits : Nat) : State :=
  let b := s.bucketAt c p
  s.setBucket c p { b with level := b.level - flits, idle := false, fullOnce := false }

/-- A partition may begin an injection at a core (14 R364). -/
def State.mayInject (s : State) (c : Nat) (p : Option Nat) : Bool :=
  match p with
  | none => true
  | some p => decide (0 < (s.bucketAt c p).level)

/-- The state with flits charged to a partition, if any. -/
def State.chargeTo (s : State) (c : Nat) (p : Option Nat) (flits : Nat) : State :=
  match p with
  | none => s
  | some p => s.chargeBucket c p flits

/-! ## Injection -/

/-- The router that two-phase routing takes a message through: that of its pair while the pair has one in flight, and otherwise a
router of the source's die, by a free value, while the die's monitor has two-phase routing on (14 R361). -/
def State.drawVia (s : State) (m : Msg) : State × Option (Nat × Nat) :=
  match s.packets.find? fun x => !x.atPort && x.source == m.source && x.dest == m.dest && x.serial != m.serial with
  | some x => (s, x.via)
  | none =>
    if !isChiplet m.source && (s.monitorAt (m.source / 256)).twoPhase then
      let n := (Config.freeValue s.fresh).toNat % 256
      let d := m.source / 256
      ({ s with fresh := s.fresh + 1 }, some (d % 2 * 16 + n % 16, d / 2 * 16 + n / 16))
    else (s, none)

/-- A message injected: its partition is charged, the port of its core is busy for a tick a flit, and its packet stands at the
router of its source (14 R359, R361, R364). -/
def State.injectMsg (s : State) (m : Msg) : State × Msg :=
  let src := m.source
  let (s, via) := (s.chargeTo src m.charged m.body.charge).drawVia m
  let s := if src < 1040 then s.setCore src { s.coreAt src with portFree := s.gtime + m.body.flits } else s
  let (x, y) := routerOf src m.dest
  let t : Travel :=
    { phase := if via.isSome && via != some (x, y) then 0 else 1, x, y, inPort := if isChiplet src then 7 else 6,
      injected := s.gtime, since := s.gtime }
  (s, { m with atPort := false, travel := some t, via })

/-- A message may begin injection: its core's port is free, its partition's bucket is above 0, and no message that is charged as it
is waits at the port before it (14 R359, R364). -/
def State.mayBegin (s : State) (before : List Msg) (m : Msg) : Bool :=
  decide ((s.coreAt m.source).portFree ≤ s.gtime) && s.mayInject m.source m.charged &&
    !(before.any fun x => x.atPort && x.source == m.source && x.charged == m.charged)

/-- A message numbered and sent on its way: it is injected where it may begin, and waits at its core's port otherwise (14 R359,
R364). -/
def State.launch (s : State) (m : Msg) : State × Msg :=
  let m := { m with serial := s.sent }
  let s := { s with sent := s.sent + 1 }
  if s.mayBegin s.packets m then s.injectMsg m else (s, { m with atPort := true })

/-- The state with a message sent that its home performs. -/
def State.post (s : State) (m : Msg) : State :=
  let (s, m) := s.launch m
  { s with net := s.net ++ [m] }

/-- The state with a packet sent whose effect is not performed at its home. -/
def State.postTraffic (s : State) (m : Msg) : State :=
  let (s, m) := s.launch m
  { s with traffic := s.traffic ++ [m] }

/-- A serial number in its place among others in ascending order. -/
def insertAsc (n : Nat) : List Nat → List Nat
  | [] => [n]
  | m :: ms => if n ≤ m then n :: m :: ms else m :: insertAsc n ms

/-- The packet with a serial number is injected, where it waits at a port and may begin. -/
def State.injectOne (s : State) (n : Nat) : State :=
  match s.packets.find? (·.serial == n) with
  | none => s
  | some m =>
    if m.atPort && s.mayBegin (s.packets.filter fun x => decide (x.serial < n)) m then
      let (s, m) := s.injectMsg m
      s.mapPackets fun x => if x.serial = n then m else x
    else s

/-- The messages that wait at the ports are injected in order, as far as they may begin. -/
def State.injectWaiting (s : State) : State :=
  (((s.packets.filter (·.atPort)).map (·.serial)).foldr insertAsc []).foldl State.injectOne s

/-! ## Routers -/

/-- The class of a message: 0 request, 1 response, 2 event, 3 bulk (14 R359). -/
def Msg.cls (m : Msg) : Nat :=
  if m.slotted || m.bulk then 3
  else match m.body with
    | .arrive .. | .expect .. | .subtract .. | .phase .. | .evsig .. => 2
    | .packet _ _ c _ => c
    | _ => 0

/-- The output port that a packet asks for at its router: towards its intermediate router in phase 0, towards its destination in
phase 1, and there port 6 to a core or 7 to a rim bank or the chiplet (14 R360, R361). -/
def Msg.wants (m : Msg) (t : Travel) : Nat :=
  let goal := if t.phase = 0 then m.via.getD (t.x, t.y) else routerOf m.dest m.source
  (portTo t.x t.y goal.1 goal.2).getD (if m.dest < 1024 then 6 else 7)

/-- A packet at a router, with what arbitration asks of it. -/
structure Waiting where
  serial   : Nat
  x        : Nat
  y        : Nat
  port     : Nat
  inPort   : Nat
  vc       : Nat
  since    : Nat
  injected : Nat
  age      : Nat
  slotted  : Bool
  prio     : Nat
  busy     : Bool
  deriving DecidableEq, Repr

/-- The packets that stand at routers. -/
def State.waitingPackets (s : State) : List Waiting :=
  s.packets.filterMap fun m => m.travel.map fun t =>
    { serial := m.serial, x := t.x, y := t.y, port := (t.sending.map (·.1)).getD (m.wants t), inPort := t.inPort,
      vc := m.cls * 2 + t.phase, since := t.since, injected := t.injected, age := t.age, slotted := m.slotted, prio := m.prio,
      busy := t.sending.isSome }

/-- The packet is at the head of its virtual channel: no packet of the channel came to the buffer before it. -/
def Waiting.isHead (w : Waiting) (ws : List Waiting) : Bool :=
  !(ws.any fun v => v.x == w.x && v.y == w.y && v.inPort == w.inPort && v.vc == w.vc &&
    (decide (v.since < w.since) || (v.since == w.since && decide (v.serial < w.serial))))

/-- A packet goes before another at an output port that last served an input port: by saturated age, then slotted messages, then
priority, then round-robin over the inputs (14 R362); two channels of one input go in the order in which they came. -/
def Waiting.goesBefore (served : Nat) (a b : Waiting) : Bool :=
  let turn := fun (w : Waiting) => (w.inPort + 7 - served) % 8
  let older := decide (a.since < b.since) || (a.since == b.since && decide (a.serial < b.serial))
  if (255 ≤ a.age) != (255 ≤ b.age) then decide (255 ≤ a.age)
  else if 255 ≤ a.age then
    decide (a.injected < b.injected) || (a.injected == b.injected &&
      (decide (a.inPort < b.inPort) || (a.inPort == b.inPort && older)))
  else if a.slotted != b.slotted then a.slotted
  else if a.prio != b.prio then decide (b.prio < a.prio)
  else decide (turn a < turn b) || (turn a == turn b && older)

/-- An output port's number in the table of the inputs last served. -/
def portKey (x y port : Nat) : Nat := (y * 32 + x) * 8 + port

/-- The packets that their output ports choose: each a head of its channel, at a port that sends nothing, that goes before every other
(14 R362). -/
def State.chosenPackets (s : State) : List Waiting :=
  let ws := s.waitingPackets
  let free := ws.filter fun w => !w.busy && w.isHead ws &&
    !(ws.any fun v => v.busy && v.x == w.x && v.y == w.y && v.port == w.port)
  free.filter fun w =>
    !(free.any fun v => v.x == w.x && v.y == w.y && v.port == w.port && v.serial != w.serial &&
      v.goesBefore (Tab.get 7 s.served (portKey w.x w.y w.port)) w)

/-- A packet that is being sent, a tick later: once its last flit has crossed it stands at the next router, or at its home.  It keeps its
age and the ticks it has been blocked from router to router (log entry 43). -/
def Msg.moved (m : Msg) (now : Nat) : Msg :=
  match m.travel with
  | none => m
  | some t => match t.sending with
    | none => m
    | some (p, n) =>
      if 1 < n then { m with travel := some { t with sending := some (p, n - 1) } }
      else if 6 ≤ p then { m with travel := none }
      else
        let r := throughPort p t.x t.y
        { m with travel := some { t with x := r.1, y := r.2, inPort := inputOf p, since := now, sending := none,
                                         phase := if m.via = some r then 1 else t.phase } }

/-- A packet that waits at a router, a tick later: its age advances by 1 for each 16 ticks of waiting, to 255 at most (14 R362). -/
def Travel.waited (t : Travel) : Travel :=
  if t.blocked + 1 < 16 then { t with blocked := t.blocked + 1 } else { t with blocked := 0, age := min 255 (t.age + 1) }

/-- The state with a chosen packet started at its output port, and its flits counted on a channel of the mesh; the schedule may say
that the next buffer does not accept it at this tick (14 R361 to R363). -/
def State.startPacket (s : State) (w : Waiting) : State :=
  match s.lags with
  | true :: rest => { s with lags := rest }
  | lags =>
    let start := fun (m : Msg) =>
      if m.serial = w.serial then { m with travel := m.travel.map fun t => { t with sending := some (w.port, m.body.flits) } } else m
    let flits := ((s.packets.find? (·.serial == w.serial)).map (·.body.flits)).getD 0
    let s := { s with lags := lags.drop 1, served := Tab.set s.served (portKey w.x w.y w.port) w.inPort }.mapPackets start
    if w.port < 6 then s.countChannel (channelNo w.x w.y w.port) flits else s

/-- The packet that crosses the network from one destination number to another: no strand waits for it as for a message of its own. -/
def trafficMsg (source dest prio : Nat) (payer : Option Nat) (flits back cls backCls : Nat) : Msg :=
  { sender := { core := source, part := payer, dead := true, engine := true }, home := none, dest,
    body := .packet flits back cls backCls, user := payer.isSome, prio }

/-- A request of an agent, of so many flits, with the flits of its answer; `bulk`: the answer is of the bulk class (14 R359). -/
def Agent.request (a : Agent) (dest out back : Nat) (bulk : Bool := false) : Msg :=
  trafficMsg a.core dest a.prio a.payer out back 0 (if bulk then 3 else 1)

/-- The state with the answer to a message on its way from its home: a response or completion of so many flits (14 R359). -/
def State.sendBack (s : State) (m : Msg) (flits : Nat) (cls : Nat := 1) : State :=
  s.postTraffic (trafficMsg m.dest m.source m.prio none flits 0 cls 0)

/-- A packet that has arrived is answered, where it asks for an answer. -/
def State.answerPacket (s : State) (m : Msg) : State :=
  match m.body with
  | .packet _ back _ backCls => if back = 0 then s else s.sendBack m back backCls
  | _ => s

/-- The packets that have arrived leave the network, and are answered. -/
def State.endTraffic (s : State) : State :=
  let arrived := s.traffic.filter fun m => m.travel.isNone && !m.atPort
  arrived.foldl State.answerPacket { s with traffic := s.traffic.filter fun m => !(m.travel.isNone && !m.atPort) }

/-- One tick of the network: the messages that wait at ports begin injection where they may, the packets that are being sent move on
and those that have arrived are answered, and the output ports choose what they send next (14 R359 to R363). -/
def State.netTick (s : State) : State :=
  if s.packets.isEmpty then s
  else
    let s : State := s.injectWaiting
    let s : State := s.mapPackets fun m => m.moved s.gtime
    let s : State := s.endTraffic
    let s : State := s.chosenPackets.foldl State.startPacket s
    let wait := fun (t : Travel) => if t.sending.isSome then t else t.waited
    s.mapPackets fun m => { m with travel := m.travel.map wait }

/-! ## Sending -/

/-- The partition for which the strand that moves acts at a home core: its own; where it has none, the one that is named, and otherwise
that of the context resident there (log entry 31). -/
def State.homePart (s : State) (named : Option Nat) (h : Nat) : Option Nat :=
  match s.myPart.or named with
  | some p => some p
  | none => if (s.coreAt h).resident then some (s.coreAt h).part else none

/-- Sends a message of the strand that moves, counted in USC where it is a remote write (07 R203, R204); a write comes after the
messages that a fence of the strand put before it (10 R270). -/
def M.send (home : Option Nat) (dest : Nat) (body : MsgBody) (counted : Bool) (release : Bool := false)
    (bulk : Bool := false) (tag : RimMark := .ordinary) (part : Option Nat := none) (origin : Option Nat := none) :
    M Unit := do
  let s ← get
  let sender := s.senderOf s.cur
  let sender := match home with
    | some h => { sender with part := s.homePart part h }
    | none => sender
  if counted then M.modifyMe fun t => { t with usc := t.usc + 1 }
  modify fun s => s.post
    { sender, home, dest, body, counted, release, bulk, tag, origin, user := s.me.mode == .user, prio := s.me.prio,
      fence := if body.isWriting then s.me.fenced else 0 }

/-- The kind and number of the port through which a location is reached from a core (07 R213). -/
def portOfKey (core key : Nat) : Nat × Nat :=
  if key < 2 ^ 40 then (2, bankOfKey key)
  else if key < 2 ^ 50 then
    let c := (key - 2 ^ 48) / 2 ^ 20
    if c = core then (0, 0) else (1, c)
  else if key < 2 ^ 51 then (4, key / 2 ^ 47 % 8)
  else (3, key / 2 ^ 50 % 2)

/-- The strand waits for the port of a location (07 R212, R213). -/
def M.waitFor {α : Type} (key : Nat) : M α := do
  let s ← get
  let (kind, port) := portOfKey s.myCoreNo key
  M.modifyMe fun t => { t with awaits := { t.awaits with kind, port } }
  M.wait

/-- The request of a read, or of the acquisition of a line, by the strand that moves, which performs it itself: it waits until the
request may begin injection (14 R359, R364).  The instruction does not send again what it has sent, where it is tried again. -/
def M.exchangeWith (dest out back : Nat) (waits : M Unit) : M Unit := do
  let s ← get
  let w := s.me.awaits
  if w.paid ≤ w.seen then
    let m := s.myAgent.request dest out back
    if !s.mayBegin s.packets m then waits
    set (s.postTraffic m)
    M.modifyMe fun t => { t with awaits := { t.awaits with paid := w.seen + 1 } }
  M.modifyMe fun t => { t with awaits := { t.awaits with seen := w.seen + 1 } }

/-- The same at the home of a location. -/
def M.exchange (key out back : Nat) : M Unit := M.exchangeWith (destOfKey key) out back (M.waitFor key)

/-- The strand waits until its messages fit in USC (07 R204). -/
def M.roomInUsc (n : Nat) : M Unit := do
  if 1024 < (← M.me).usc + n then M.wait

/-! ## Timed slots -/

/-- The CSRs of a core with SLOTPER, SLOTMAP and SLOTSTRICT as they are in force at a tick (14 R366). -/
def Core.slotsAt (c : Core) (tick : Nat) : CtxCsrs :=
  match c.slotOld with
  | none => c.csrs
  | some o => if o.tick = tick then { c.csrs with slotper := o.per, slotmap := o.map, slotstrict := o.strict } else c.csrs

/-- The slot index at a tick (14 R366). -/
def slotIndex (c : CtxCsrs) (tick : Nat) : Nat := tick / 2 ^ (bitsNat c.slotper 3 0 - 6) % 64

/-- The tick lies in a slot of the core (14 R366). -/
def slotOwned (c : CtxCsrs) (tick : Nat) : Bool := bitAt c.slotmap (slotIndex c tick)

/-- Remote L-space writes of the strand that moves are slotted (14 R367). -/
def State.slottedNow (s : State) : Bool :=
  s.me.mode == .user && !s.me.kind.ofNoPartition && !isChiplet s.myCoreNo && bitAt (s.myCore.slotsAt s.gtime).slotper 16

/-- SLOT_VIOLATION, where a slotted instruction issues outside the core's slots under STRICT (14 R368); one that follows a SLOTWAIT is
checked as at the tick that SLOTWAIT wrote, which lies in a slot of the core's, and never raises it (19 R411). -/
def M.slotCheck (addr : Word) : M Unit := do
  let s ← get
  let c := s.myCore.slotsAt s.gtime
  if s.slottedNow && bitAt c.slotstrict 0 && s.me.slotTie.isNone && !slotOwned c s.gtime then
    M.trap { code := 0x0E, addr := addr,
             info := BitVec.ofNat 64 (slotIndex c s.gtime + s.gtime % 2 ^ 32 * 2 ^ 32) }

/-- The slotted messages of a core that are injected and undelivered (14 R345, R367). -/
def State.slottedInFlight (s : State) (c : Nat) : Nat := (s.net.filter fun m => m.slotted && m.sender.core == c).length

end Sys2Proof.Machine
end

