-- ==== Sys2Proof/Machine/Barrier.lean ====
section
/-!
DEFINITION. Machine/Barrier.lean: barriers and domains at an event unit (11 R281 to R290), and the words that show them.
-/

namespace Sys2Proof.Machine

/-- Barrier `b` of a core. -/
def Core.barrierAt (c : Core) (b : Nat) : Barrier := Tab.get {} c.barriers b

/-- Barrier `b` of core `c`. -/
def State.barrierOf (s : State) (c b : Nat) : Barrier := (s.coreAt c).barrierAt b

/-- The state with a barrier replaced. -/
def State.setBarrier (s : State) (c b : Nat) (x : Barrier) : State :=
  s.setCore c { s.coreAt c with barriers := Tab.set (s.coreAt c).barriers b x }

/-- The members of domain `j` of core `c`, in domain order (11 R285). -/
def State.domainOf (s : State) (c j : Nat) : List Nat := Tab.get [] (s.coreAt c).domains j

/-- The home of barrier `b` of core `c`: its domain's first core where it is bound (11 R285, R287). -/
def State.barrierHome (s : State) (c b : Nat) : Nat :=
  let x := s.barrierOf c b
  if x.bound then (s.domainOf c x.dom).headD c else c

/-- The greatest magnitude of count (11 R281). -/
def countMax : Int := 2 ^ 32 - 1

/-- Magnitude of count. -/
def Barrier.bytes (x : Barrier) : Nat := x.count.natAbs

/-- The counts word (11 R284). -/
def Barrier.countsWord (x : Barrier) : Word :=
  BitVec.ofNat 64 (x.target * 2 ^ 48 + x.arr * 2 ^ 32 + x.bytes)

/-- The flags word (11 R284). -/
def Barrier.flagsWord (x : Barrier) : Word :=
  BitVec.ofNat 64 ((if x.err then 2 ^ 9 else 0) + (if x.count < 0 then 2 ^ 8 else 0) + x.dom * 4 +
    (if x.bound then 2 else 0) + (if x.phase then 1 else 0))

/-- The barrier whose words these are (13 R342). -/
def Barrier.ofWords (counts flags : Word) : Barrier :=
  let n : Int := bitsNat counts 31 0
  { target := bitsNat counts 63 48, arr := bitsNat counts 47 32, count := if bitAt flags 8 then -n else n,
    phase := bitAt flags 0, bound := bitAt flags 1, dom := bitsNat flags 7 2, err := bitAt flags 9 }

/-- The firing condition (11 R282). -/
def Barrier.ready (x : Barrier) : Bool := decide (x.target ≤ x.arr) && x.count == 0

/-- The barrier after it fires (11 R282). -/
def Barrier.fired (x : Barrier) : Barrier := { x with phase := !x.phase, arr := 0, count := 0 }

/-- The barrier after `n` arrivals (11 R284). -/
def Barrier.arrive (x : Barrier) (n : Nat) : Barrier := { x with arr := min 65535 (x.arr + n) }

/-- The barrier after a byte subtraction (11 R283). -/
def Barrier.subtract (x : Barrier) (n : Nat) : Barrier :=
  if x.count - n < -countMax then { x with count := -countMax, err := true } else { x with count := x.count - n }

/-- An expectation of `n` bytes overflows (11 R283). -/
def Barrier.overflows (x : Barrier) (n : Nat) : Bool := decide (countMax < x.count + n)

/-- The barrier after an expectation that does not overflow (11 R283, R290). -/
def Barrier.expect (x : Barrier) (n : Nat) (arr : Bool) : Barrier :=
  let y := { x with count := x.count + n }
  if arr then y.arrive 1 else y

/-- The state after the firing condition of a barrier is checked at its home: where it fires, the new PHASE is sent to every
other core of the domain (11 R282, R287). -/
def State.checkBarrier (s : State) (c b : Nat) : State :=
  let x := s.barrierOf c b
  if s.barrierHome c b = c ∧ x.ready = true then
    let s := s.setBarrier c b x.fired
    let core := s.coreAt c
    let sender : Sender := { core := c, cid := bitsNat core.csrs.cidtag 15 0, part := some core.part, engine := true }
    if x.bound then
      ((s.domainOf c x.dom).filter (· != c)).foldl
        (fun s h => s.post { sender, home := some h, dest := h, body := .phase b x.fired.phase }) s
    else s
  else s

/-- The state after `n` arrivals at a barrier's home. -/
def State.arriveAt (s : State) (c b n : Nat) : State :=
  (s.setBarrier c b ((s.barrierOf c b).arrive n)).checkBarrier c b

/-- The state after a byte subtraction at a barrier's home. -/
def State.subtractAt (s : State) (c b n : Nat) : State :=
  (s.setBarrier c b ((s.barrierOf c b).subtract n)).checkBarrier c b

/-- The state after an expectation at a barrier's home, and the reply: the PHASE after the check, or nothing for an overflow
(11 R290). -/
def State.expectAt (s : State) (c b n : Nat) (arr : Bool) : State × Option Bool :=
  let x := s.barrierOf c b
  if x.overflows n then (s, none)
  else
    let s := (s.setBarrier c b (x.expect n arr)).checkBarrier c b
    (s, some (s.barrierOf c b).phase)

/-- The state after an expectation that no strand waits for: an overflow sets ERR (11 R283). -/
def State.expectErr (s : State) (c b n : Nat) (arr : Bool) : State :=
  match s.expectAt c b n arr with
  | (s, some _) => s
  | (s, none) => s.setBarrier c b { s.barrierOf c b with err := true }

/-- A context of a partition is resident at a core, and is not in its merge (13 R347, R355). -/
def State.isHome (s : State) (c : Nat) (p : Option Nat) : Bool :=
  let x := s.coreAt c
  x.resident && !x.merging && p == some x.part

end Sys2Proof.Machine
end

