-- ==== Sys2Proof/Machine/Fpu.lean ====
section
/-!
DEFINITION. Machine/Fpu.lean: scalar floating point (04 R108 to R114) and the scalar conversions (03 R80 to R82).
-/

namespace Sys2Proof.Machine

/-- Finishing a scalar floating-point form: FP_TRAP where a flag it would set is enabled, and otherwise the write of its
result, its flags and its draws (03 R66, R70). -/
def finishFp (fl : Flags) (draws : Nat) (write : Strand → Strand) (s : State) : Out :=
  if s.me.traps fl then raise (fpTrapExc fl 0) s
  else complete (fun t => ((write t).addFlags fl).draw draws) s

/-- A form that rounds its result into f[d] (04 R108, R109). -/
def fpuRound (f : FpFormat) (mode : FpMode) (raw : FpRaw) (d : Reg) (s : State) : Out :=
  let res := fpDeliver f mode (s.me.random 0).toNat raw
  finishFp res.2 (drawsOf mode 1) (fun t => t.writeF d (box f res.1)) s

/-- An arithmetic form with two operands. -/
def fpu2 (op : FpMode → FpVal → FpVal → FpRaw) (d a b : Reg) (r : Rnd) (p : Prec) (s : State) : Out :=
  let f := formatOf p
  let mode := s.me.modeOf r
  fpuRound f mode (op mode (s.me.fval f a) (s.me.fval f b)) d s

/-- FADD (04 R109). -/
def execFadd (d a b : Reg) (r : Rnd) (p : Prec) (s : State) : Out := fpu2 fpAdd d a b r p s
/-- FSUB (04 R109). -/
def execFsub (d a b : Reg) (r : Rnd) (p : Prec) (s : State) : Out := fpu2 fpSub d a b r p s
/-- FMUL (04 R109). -/
def execFmul (d a b : Reg) (r : Rnd) (p : Prec) (s : State) : Out := fpu2 (fun _ => fpMul) d a b r p s
/-- FDIV (04 R109). -/
def execFdiv (d a b : Reg) (r : Rnd) (p : Prec) (s : State) : Out := fpu2 (fun _ => fpDiv) d a b r p s

/-- FSQRT (04 R109). -/
def execFsqrt (d a : Reg) (r : Rnd) (p : Prec) (s : State) : Out :=
  let f := formatOf p
  fpuRound f (s.me.modeOf r) (fpSqrt (s.me.fval f a)) d s

/-- FMA: f[d] is the addend (04 R109). -/
def execFma (d a b : Reg) (r : Rnd) (p : Prec) (s : State) : Out :=
  let f := formatOf p
  let mode := s.me.modeOf r
  fpuRound f mode (fpFma mode (s.me.fval f a) (s.me.fval f b) (s.me.fval f d)) d s

/-- The lesser or greater of two values, chosen by `pick`, which says that the second is taken (04 R110). -/
def fpSelect (pick : FpVal → FpVal → Bool) (a b : FpVal) : FpRaw :=
  let fl := snanFlag [a, b]
  match a, b with
  | .nan _, .nan _ => .nan fl
  | .nan _, v | v, .nan _ =>
    match v with
    | .inf n => .inf n fl
    | .fin n m e => .exact ⟨n, m, e, false⟩ fl
    | .nan _ => .nan fl
  | a, b =>
    match (if pick a b then b else a) with
    | .inf n => .inf n 0
    | .fin n m e => .exact ⟨n, m, e, false⟩ 0
    | .nan _ => .nan 0

/-- The lesser, -0 below +0 (04 R110). -/
def fpMin (a b : FpVal) : FpRaw := fpSelect (fun a b => fpBefore b a) a b

/-- The greater, -0 below +0 (04 R110). -/
def fpMax (a b : FpVal) : FpRaw := fpSelect (fun a b => fpBefore a b) a b

/-- FMIN and FMAX round nothing and draw nothing (04 R108, R110). -/
def fpuPick (op : FpVal → FpVal → FpRaw) (d a b : Reg) (p : Prec) (s : State) : Out :=
  let f := formatOf p
  let res := fpDeliver f .rne 0 (op (s.me.fval f a) (s.me.fval f b))
  finishFp res.2 0 (fun t => t.writeF d (box f res.1)) s

/-- FMIN (04 R110). -/
def execFmin (d a b : Reg) (p : Prec) (s : State) : Out := fpuPick fpMin d a b p s
/-- FMAX (04 R110). -/
def execFmax (d a b : Reg) (p : Prec) (s : State) : Out := fpuPick fpMax d a b p s

/-- The result and flags of a compare: `quiet` sets NV only for a signalling NaN (04 R111). -/
def fpCompare (quiet : Bool) (rel : FpVal → FpVal → Bool) (a b : FpVal) : Bool × Flags :=
  if a.isNaN || b.isNaN then (false, if quiet then snanFlag [a, b] else flagNV) else (rel a b, 0)

/-- A compare into g[d] (04 R111). -/
def fpuCompare (quiet : Bool) (rel : FpVal → FpVal → Bool) (d a b : Reg) (p : Prec) : State → Out :=
  issue [] [d] fun s =>
    let f := formatOf p
    let res := fpCompare quiet rel (s.me.fval f a) (s.me.fval f b)
    finishFp res.2 0 (fun t => t.writeG d (boolWord res.1)) s

/-- a is less than or equal to b. -/
def fpLessEq (a b : FpVal) : Bool := fpLess a b || fpEqual a b

/-- FEQ (04 R111). -/
def execFeq (d a b : Reg) (p : Prec) (s : State) : Out := fpuCompare true fpEqual d a b p s
/-- FLT (04 R111). -/
def execFlt (d a b : Reg) (p : Prec) (s : State) : Out := fpuCompare false fpLess d a b p s
/-- FLE (04 R111). -/
def execFle (d a b : Reg) (p : Prec) (s : State) : Out := fpuCompare false fpLessEq d a b p s

/-- A code with the sign bit of FSGN's mode (04 R112, 05 R138). -/
def signCode (f : FpFormat) (m : SgnMode) (a b : Nat) : Nat :=
  let sa := a.testBit (f.width - 1)
  let sb := b.testBit (f.width - 1)
  let sign := match m with
    | .copy => sb
    | .inverse => !sb
    | .xor => sa != sb
  a % 2 ^ (f.width - 1) + if sign then 2 ^ (f.width - 1) else 0

/-- FSGN (04 R112). -/
def execFsgn (d a b : Reg) (m : SgnMode) (p : Prec) (s : State) : Out :=
  let f := formatOf p
  complete (fun t => t.writeF d (box f (signCode f m (unbox f (t.readF a)) (unbox f (t.readF b))))) s

/-- The KIND code of FCLASS (04 R113). -/
def fpKind (f : FpFormat) : FpVal → Nat
  | .fin _ m e => if m = 0 then 0 else if topExp m e < f.minExp then 1 else 2
  | .inf _ => 3
  | .nan false => 4
  | .nan true => 5

/-- The result word of FCLASS (04 R113). -/
def fclassWord (p : Prec) (w : Word) : Word :=
  let f := formatOf p
  let failed := match p with
    | .f32 => w.toNat / 2 ^ 32 != 2 ^ 32 - 1
    | .f64 => false
  let code := unbox f w
  BitVec.ofNat 64 (fpKind f (f.value code) + (if code.testBit (f.width - 1) then 256 else 0) +
    if failed then 512 else 0)

/-- FCLASS (04 R113). -/
def execFclass (d a : Reg) (p : Prec) (s : State) : Out :=
  issue [] [d] (complete fun t => t.writeG d (fclassWord p (t.readF a))) s

/-- FCVT (03 R80). -/
def execFcvt (d a : Reg) (dst src : FType) (r : Rnd) (s : State) : Out :=
  fpuRound (ftypeFormat dst) (s.me.modeOf r) (s.me.fval (ftypeFormat src) a).raw d s

/-- The bounds of an integer type. -/
def intBounds (bits : Nat) (unsigned : Bool) : Int × Int :=
  if unsigned then (0, (2 ^ bits : Nat) - 1) else (-(2 ^ (bits - 1) : Nat), (2 ^ (bits - 1) : Nat) - 1)

/-- FCVTI: a 32-bit signed result is sign-extended, a 32-bit unsigned result zero-extended (03 R81). -/
def execFcvti (d a : Reg) (wide z : Bool) (r : Rnd) (p : Prec) (s : State) : Out :=
  issue [] [d] (fun s =>
    let mode := s.me.modeOf r
    let lim := intBounds (if wide then 64 else 32) z
    let res := fpToInt mode (s.me.random 0).toNat lim.1 lim.2 (s.me.fval (formatOf p) a)
    finishFp res.2 (drawsOf mode 1) (fun t => t.writeG d (wordOfInt res.1)) s) s

/-- The integer that FCVTF converts (03 R82). -/
def fcvtfSource (w : Word) (wide z : Bool) : Int :=
  let bits := if wide then 64 else 32
  if z then ((w.toNat % 2 ^ bits : Nat) : Int) else signedOf bits w.toNat

/-- FCVTF (03 R82). -/
def execFcvtf (d a : Reg) (wide z : Bool) (r : Rnd) (p : Prec) (s : State) : Out :=
  issue [a] [] (fun s =>
    fpuRound (formatOf p) (s.me.modeOf r) (fpOfInt (fcvtfSource (s.me.readG a) wide z)) d s) s

/-- FMVGF (04 R114). -/
def execFmvgf (d a : Reg) (p : Prec) (s : State) : Out :=
  issue [a] [] (complete fun t => t.writeF d (box (formatOf p) (t.readG a).toNat)) s

/-- FMVFG (04 R114). -/
def execFmvfg (d a : Reg) (p : Prec) (s : State) : Out :=
  issue [] [d] (complete fun t => t.writeG d (match p with
    | .f32 => sextNat 32 (t.readF a).toNat
    | .f64 => t.readF a)) s

end Sys2Proof.Machine
end

