-- ==== Sys2Proof/Machine/Divert.lean ====
section
/-!
DEFINITION. Machine/Divert.lean: what happens to a message at its home: it is performed (10 R276, 11 R301 to R303), diverted
into a shadow image (13 R347 to R351), held through a merge (R355) or discarded (R352); and the answers it gives.
-/

namespace Sys2Proof.Machine

/-! ## Operations at memory -/

/-- The sum that AMOFADD and REDFADD store: rounded by RNE, the default NaN for any NaN (11 R302). -/
def fpSum (f : FpFormat) (x y : Nat) : Nat :=
  (fpDeliver f .rne 0 (fpAdd .rne (f.value x) (f.value y))).1

/-- The new value of a location (11 R302, R303). -/
def memResult (op : MemOp) (w : AmoWidth) (old y expected : Nat) : Nat :=
  let n := 8 * amoSize w
  let f := if w = .w64 then fp64 else fp32
  match op with
  | .swap => y
  | .add => (old + y) % 2 ^ n
  | .and => old &&& y
  | .or => old ||| y
  | .xor => old ^^^ y
  | .min => if signedOf n y < signedOf n old then y else old
  | .max => if signedOf n old < signedOf n y then y else old
  | .cas => if old = expected then y else old
  | .fadd =>
    if w = .pair then fpSum bf16 (old % 2 ^ 16) (y % 2 ^ 16) + fpSum bf16 (old / 2 ^ 16) (y / 2 ^ 16) * 2 ^ 16
    else fpSum f old y
  | .fmax => (fpDeliver f .rne 0 (fpMax (f.value old) (f.value y))).1

/-- The value that an AMO returns (11 R302). -/
def amoReturn (op : MemOp) (w : AmoWidth) (old : Nat) : Word :=
  match w with
  | .w64 => BitVec.ofNat 64 old
  | .w32 => if op = .fadd then BitVec.ofNat 64 old else sextNat 32 old
  | .pair => BitVec.ofNat 64 old

/-- An operation performed at a location: the value returned, and whether the location is poisoned, which leaves it unchanged (11
R301). -/
def State.performOp (s : State) (op : MemOp) (w : AmoWidth) (key : Nat) (y expected : Word) : State × Word × Bool :=
  let n := amoSize w
  let old := s.readMem key n
  let m := 2 ^ (8 * n)
  if s.isPoisoned key n then (s, amoReturn op w old, true)
  else (s.writeMem key n (memResult op w old (y.toNat % m) (expected.toNat % m)), amoReturn op w old, false)

/-- REDs performed one after another (11 R304). -/
def State.performReds (s : State) (op : MemOp) (w : AmoWidth) (items : List (Nat × Word)) : State :=
  items.foldl (fun s x => (s.performOp op w x.1 x.2 0).1) s

/-! ## Answers -/

/-- The sender's strand is at its core: its context is resident, or it belongs to no context (13 R344). -/
def State.senderLive (s : State) (m : Sender) : Bool :=
  let c := s.coreAt m.core
  isChiplet m.core || (m.sup && (s.strandAt (m.core * 4 + m.slot)).kind == .supervisor) ||
    (!m.sup && c.resident && bitsNat c.csrs.cidtag 15 0 == m.cid && m.part == some c.part)

/-- The strand of a sender stands behind a supervisor strand (13 R330). -/
def State.senderWaits (s : State) (m : Sender) : Bool :=
  m.slot == 0 && !m.sup && (s.strandAt (m.core * 4)).kind == .supervisor

/-- The strand of a sender that is live. -/
def State.senderStrand (s : State) (m : Sender) : Strand :=
  if s.senderWaits m then (s.coreAt m.core).waiting0.getD {} else s.strandAt (m.core * 4 + m.slot)

/-- The state with the strand of a live sender replaced. -/
def State.setSender (s : State) (m : Sender) (t : Strand) : State :=
  if s.senderWaits m then s.setCore m.core { s.coreAt m.core with waiting0 := some t }
  else s.setStrand (m.core * 4 + m.slot) t

/-- The departed context of a sender. -/
def Departed.isOf (x : Departed) (m : Sender) : Bool := x.cid == m.cid && m.part == some x.part

/-- The state with a departed context changed. -/
def State.mapDeparted (s : State) (m : Sender) (f : Departed → Departed) : State :=
  let c := s.coreAt m.core
  s.setCore m.core { c with departed := c.departed.map fun x => if x.isOf m then f x else x }

/-- The physical address of a slot's strand image in a husk (13 R342). -/
def imageAddr (husk slot : Nat) : Nat := husk + 0x60000 + slot * 0x10000

/-- A value that is owed to a departed strand lands in its image: the register's place, with its PEND bit cleared, and for poisoned
data its POIS bit set and the address kept at the core (13 R344). -/
def State.owe (s : State) (m : Sender) (slot : Nat) (reg : Reg) (kind : PendKind) (value : Word) (poison : Option Word) :
    State :=
  match (s.coreAt m.core).departed.find? (·.isOf m) with
  | none => s
  | some x =>
    let a := imageAddr x.husk slot
    let bit := 2 ^ reg.toNat
    let pend := s.readPa (a + 0x10) 8
    let s := s.writePa (a + 0x10) 8 (if pend / bit % 2 = 1 then pend - bit else pend)
    let s := s.writePa (a + 0x100 + 8 * reg.toNat) 8 value.toNat
    match poison with
    | none => s
    | some _ =>
      let s := s.writePa (a + 0x18) 8 (s.readPa (a + 0x18) 8 ||| bit)
      s.mapDeparted m fun x => { x with owed := x.owed ++ [{ slot, reg, kind, value, poison }] }

/-- The L-space address of a scratchpad location, or zero (07 R200). -/
def addrOfKey (key : Nat) : Word :=
  if 2 ^ 48 ≤ key then 0xFFFFFFFFC0000000 ||| BitVec.ofNat 64 ((key - 2 ^ 48) % 2 ^ 30) else 0

/-- A value on its way to a g register: the strand's mark becomes `landing`, or the value is owed to a departed strand (04 R92,
13 R344). -/
def State.land (s : State) (m : Sender) (reg : Reg) (kind : PendKind) (value : Word) (poison : Option Word) : State :=
  let t := s.senderStrand m
  if m.dead then s
  else if s.senderLive m && t.cond == .acquire reg then
    s.setSender m ((t.setMark reg (.landing kind value poison)).advance)
  else if reg = 0 then s
  else if s.senderLive m then
    if t.mark reg = .waiting kind then s.setSender m (t.setMark reg (.landing kind value poison)) else s
  else s.owe m m.slot reg kind value poison

/-- The answer to a load from another core, with its data and whether they are poisoned (04 R92, R93): to a g register, or to a
strand that waits at an FLW or FLD. -/
def State.answerLoad (s : State) (m : Sender) (size : Nat) (signed : Bool) (reg : Reg) (float : Bool)
    (raw : Nat) (bad : Bool) (addr : Word) : State :=
  let value : Word := if signed then sextNat (8 * size) raw else BitVec.ofNat 64 raw
  if m.dead then s
  else if !float then s.land m reg .load value (if bad then some addr else none)
  else if s.senderLive m then
    let t := s.senderStrand m
    if t.cond = .floatLoad reg then
      if bad then s.setSender m (t.enter (s.coreAt m.core) { code := 0x15, addr := addr } t.pc)
      else
        let w : Word := BitVec.ofNat 64 (if size = 4 then raw + (2 ^ 32 - 1) * 2 ^ 32 else raw)
        s.setSender m ((t.writeF reg w).advance)
    else s
  else s

/-- The poisoned answer to a load of which no data was read: its value is a free one (04 R93, 07 R199, 13 R352, log entry 6). -/
def State.answerNothing (s : State) (m : Sender) (size : Nat) (signed : Bool) (reg : Reg) (float : Bool) (addr : Word) : State :=
  let (s, x) := s.draw
  s.answerLoad m size signed reg float (x.toNat % 2 ^ (8 * size)) true addr

/-- The poisoned answer to an AMO that was not performed (07 R199, 13 R352, log entry 6). -/
def State.answerNoAmo (s : State) (m : Sender) (reg : Reg) (addr : Word) : State :=
  let (s, x) := s.draw
  s.land m reg .load x (some addr)

/-- What the read of a waiting vector load returns, to the strand that waits with it (10 R277, 13 R350). -/
def State.answerVload (s : State) (m : Sender) (x : Landed) : State :=
  let t := s.senderStrand m
  if m.dead || !s.senderLive m then s else s.setSender m { t with awaits := { t.awaits with got := x :: t.awaits.got } }

/-- The same for a read of which no data was read: a poisoned free value (07 R199, log entry 6). -/
def State.answerNoVload (s : State) (m : Sender) (key size : Nat) : State :=
  let (s, x) := s.draw
  s.answerVload m { key, size, value := x.toNat % 2 ^ (8 * size), poison := true }

/-- The answer to an expectation, to the strand that waits at its BEXP (11 R290). -/
def State.answerExpect (s : State) (m : Sender) (r : BexpReply) : State :=
  let t := s.senderStrand m
  if m.dead then s
  else match t.cond with
  | .bexp d a none => s.setSender m { t with cond := .bexp d a (some r) }
  | _ => s

/-- Messages and acknowledgements whose strands have ended: nothing is to answer to their senders. -/
def State.forsake (s : State) (dead : Sender → Bool) : State :=
  { s with net := s.net.map fun m => if dead m.sender then { m with sender := { m.sender with dead := true } } else m
           acks := s.acks.filter fun m => !dead m }

/-- A message is acknowledged (07 R203): the acknowledgement, a flit, is on its way to the sender. -/
def State.acknowledge (s : State) (m : Msg) : State :=
  if m.counted && !m.sender.dead then { s with acks := s.acks ++ [m.sender] }.sendBack m 1 else s

/-! ## Orphans -/

/-- OP of a RED's shadow record (13 R350). -/
def redCode : MemOp → Nat
  | .add => 1
  | .min => 2
  | .max => 3
  | .fadd => 4
  | _ => 5

/-- OP of a shadow record (13 R350). -/
def MsgBody.op : MsgBody → Nat
  | .store _ => 0
  | .red op _ _ _ | .reds op _ _ => redCode op
  | .arrive _ _ => 6
  | .expect _ _ _ _ => 7
  | .subtract _ _ => 8
  | .phase _ _ => 9
  | .load .. | .vload .. => 10
  | .amo .. => 11
  | .evsig .. | .packet .. => 0

/-- The location or barrier that a message aims at first. -/
def MsgBody.firstKey : MsgBody → Nat
  | .store cells => (cells.headD (0, 0)).1
  | .red _ _ k _ => k
  | .reds _ _ items => (items.headD (0, 0)).1
  | .vload k _ => k
  | .load k _ _ _ _ => k
  | .amo _ _ _ k _ _ _ _ => k
  | .arrive b _ | .expect b _ _ _ | .subtract b _ | .phase b _ => b
  | .evsig l _ _ => l
  | .packet .. => 0

/-- The message is bound for a barrier (13 R347). -/
def MsgBody.isBarrier : MsgBody → Bool
  | .arrive .. | .expect .. | .subtract .. | .phase .. => true
  | _ => false

/-- The state after an orphan is counted at a core (13 R352). -/
def State.orphan (s : State) (c : Nat) (addr : Word) (cid src op : Nat) : State :=
  let core := s.coreAt c
  let o := match core.pending.orphan with
    | some o => { o with count := min 0xFFFF (o.count + 1) }
    | none => { addr, info := BitVec.ofNat 64 (cid % 2 ^ 16 + src % 2 ^ 16 * 2 ^ 16 + op % 16 * 2 ^ 32), count := 1 }
  s.setCore c { core with pending := { core.pending with orphan := some o } }

/-- The orphan of a message, with the first location or the barrier at which it was discarded (13 R352). -/
def State.orphanMsg (s : State) (c : Nat) (m : Msg) (key : Nat) : State :=
  let addr := if m.body.isBarrier then BitVec.ofNat 64 key else addrOfKey key
  s.orphan c addr m.sender.cid m.sender.core m.body.op

/-! ## The diversion table -/

/-- Entry `i` of a table at a physical address; unused where it does not lie in local HBM or is poisoned (13 R349). -/
def State.readDivEntry (s : State) (base i : Nat) : DivEntry :=
  let pa := base + 32 * i
  let bad := match locateHbm 0 pa with
    | none => true
    | some k => s.isPoisoned k 32
  let kind := if bad then 0 else s.readPa (pa + 2) 1
  { index := i, addr := pa, cid := s.readPa pa 2, kind, full := s.readPa (pa + 3) 1 % 2 == 1,
    lo := s.readPa (pa + 4) 4, hi := s.readPa (pa + 8) 4, part := s.readPa (pa + 12) 1,
    shadow := s.readPa (pa + 16) 8, size := s.readPa (pa + 24) 4, used := s.readPa (pa + 28) 4 }

/-- The core reads its diversion table (13 R349). -/
def State.readDivTable (s : State) (c : Nat) : State :=
  let core := s.coreAt c
  let base := bitsNat core.divbase 51 5 * 32
  s.setCore c { core with divtab := (List.range (bitsNat core.divcount 5 0)).map (s.readDivEntry base) }

/-- The state with an entry of a core's table replaced, and its FULL and USED written back (13 R349). -/
def State.keepDivEntry (s : State) (c : Nat) (e : DivEntry) : State :=
  let core := s.coreAt c
  let s := s.setCore c { core with divtab := core.divtab.map fun x => if x.index = e.index then e else x }
  if e.kind = 0 then s
  else (s.writePa (e.addr + 3) 1 (if e.full then 1 else 0)).writePa (e.addr + 28) 4 e.used

/-- The lowest-numbered entry that a message for an absent context matches (13 R349). -/
def Core.divMatch (c : Core) (kind : Nat) (part : Option Nat) (ks : List Nat) : Option DivEntry :=
  c.divtab.find? fun e => e.kind == kind && part == some e.part &&
    ks.all fun k => decide (e.lo ≤ k) && decide (k < e.hi)

/-! ## Shadow records -/

/-- A shadow record but for its sequence number (13 R350). -/
structure ShadowRec where
  target : Nat
  src    : Nat
  op     : Nat
  width  : Nat := 0
  mask   : Nat := 0
  tag    : Nat := 0
  value  : Nat := 0
  data   : Nat := 0
  deriving DecidableEq, Repr

/-- The 64 bytes of a record (13 R350). -/
def ShadowRec.bytes (r : ShadowRec) (seq : Nat) : List Byte :=
  bytesOf 8 seq ++ bytesOf 4 r.target ++ bytesOf 2 r.src ++ bytesOf 1 r.op ++ bytesOf 1 r.width ++ bytesOf 4 r.mask ++
    bytesOf 4 r.tag ++ bytesOf 8 r.value ++ bytesOf 32 r.data

/-- The record at a location (13 R350). -/
def State.shadowAt (s : State) (key : Nat) : ShadowRec :=
  { target := s.readMem (key + 8) 4, src := s.readMem (key + 12) 2, op := s.readMem (key + 14) 1,
    width := s.readMem (key + 15) 1, mask := s.readMem (key + 16) 4, tag := s.readMem (key + 20) 4,
    value := s.readMem (key + 24) 8, data := s.readMem (key + 32) 32 }

/-- The width code of an AMO or RED (13 R350). -/
def widthCode : AmoWidth → Nat
  | .w32 => 0
  | .w64 => 1
  | .pair => 2

/-- The AMO or RED width of a code. -/
def widthOfCode (n : Nat) : AmoWidth := if n % 4 = 1 then .w64 else if n % 4 = 2 then .pair else .w32

/-- The AMO function code of an operation (11 R302). -/
def memOpCode : MemOp → Nat
  | .swap => 0
  | .add => 1
  | .and => 2
  | .or => 3
  | .xor => 4
  | .min => 5
  | .max => 6
  | .cas => 7
  | _ => 8

/-- The operation of an AMO function code. -/
def memOpOfCode (n : Nat) : MemOp :=
  match n % 16 with
  | 0 => .swap
  | 1 => .add
  | 2 => .and
  | 3 => .or
  | 4 => .xor
  | 5 => .min
  | 6 => .max
  | 7 => .cas
  | _ => .fadd

/-- The RED of a shadow record's OP (13 R350). -/
def redOfOp (n : Nat) : MemOp :=
  match n with
  | 1 => .add
  | 2 => .min
  | 3 => .max
  | 4 => .fadd
  | _ => .fmax

/-- The response tag of a load or AMO: the device's own coding of the slot, the register, the extension, the register file, a
supervisor strand, and the sender's CID (log entry 16). -/
def tagOf (m : Sender) (reg : Reg) (signed float : Bool) : Nat :=
  m.slot % 4 + reg.toNat * 4 + (if signed then 128 else 0) + (if float then 256 else 0) + (if m.sup then 512 else 0) +
    m.cid % 2 ^ 16 * 2 ^ 16

/-- The number with a byte placed at a position. -/
def placeByte (n i : Nat) (b : Byte) : Nat := n - n / 2 ^ (8 * i) % 256 * 2 ^ (8 * i) + b.toNat * 2 ^ (8 * i)

/-- The records of a store: one for each 32-byte block in which it writes (13 R350). -/
def storeRecs (src : Nat) (cells : List (Nat × Byte)) : List ShadowRec :=
  let blocks := (cells.map fun c => c.1 / 32).eraseDups.mergeSort
  blocks.map fun b =>
    (cells.filter fun c => c.1 / 32 = b).foldl
      (fun r c => { r with mask := r.mask ||| 2 ^ (c.1 % 32), data := placeByte r.data (c.1 % 32) c.2 })
      { target := b * 32, src, op := 0 }

/-- A record with one more operand in its block. -/
def ShadowRec.withOperand (r : ShadowRec) (n at_ : Nat) (v : Word) : ShadowRec :=
  { r with mask := r.mask ||| (2 ^ n - 1) * 2 ^ at_, data := r.data + v.toNat % 2 ^ (8 * n) * 2 ^ (8 * at_) }

/-- A RED of `n` bytes at a carve offset joins the latest record of its block that does not touch its bytes, or takes one of its own
(13 R350). -/
def addRed (base : ShadowRec) (n : Nat) (rs : List ShadowRec) (off : Nat) (v : Word) : List ShadowRec :=
  let fits := fun (r : ShadowRec) => r.target == off / 32 * 32 && r.mask &&& ((2 ^ n - 1) * 2 ^ (off % 32)) == 0
  match rs.reverse.find? fun r => r.target == off / 32 * 32 with
  | some r =>
    if fits r then (rs.reverse.replace r (r.withOperand n (off % 32) v)).reverse
    else rs ++ [{ base with target := off / 32 * 32 }.withOperand n (off % 32) v]
  | none => rs ++ [{ base with target := off / 32 * 32 }.withOperand n (off % 32) v]

/-- The records of a read of `n` bytes at a carve offset: one for each 32-byte block (13 R350). -/
def readRecs (base : ShadowRec) (off n : Nat) : List ShadowRec :=
  (List.range ((off % 32 + n + 31) / 32)).map fun i =>
    let b := (off / 32 + i) * 32
    { base with target := b, mask := ((List.range 32).map fun j => if off ≤ b + j ∧ b + j < off + n then 2 ^ j else 0).sum }

/-- The tag of a vector load's record: that of its sender, with a bit that says what it is (log entry 16). -/
def vloadTag (m : Sender) : Nat := tagOf m 0 false false + 1024

/-- The width code of a load (13 R350). -/
def loadWidth (n : Nat) : Nat := if 8 ≤ n then 1 else if n = 4 then 0 else 3

/-- The records of a message (13 R350); scratchpad targets are carve offsets. -/
def Msg.records (m : Msg) (base : Nat) : List ShadowRec :=
  let src := m.sender.core
  let block := fun k => (k - base) / 32 * 32
  let at_ := fun k => (k - base) % 32
  match m.body with
  | .store cells => storeRecs src (cells.map fun c => (c.1 - base, c.2))
  | .red _ w k v =>
    [{ target := block k, src, op := m.body.op, width := widthCode w, mask := (2 ^ amoSize w - 1) * 2 ^ at_ k,
       data := v.toNat % 2 ^ (8 * amoSize w) * 2 ^ (8 * at_ k) }]
  | .reds _ w items =>
    items.foldl (fun rs x => addRed { target := 0, src, op := m.body.op, width := widthCode w } (amoSize w) rs (x.1 - base) x.2) []
  | .vload k n => readRecs { target := 0, src, op := 10, width := loadWidth n, tag := vloadTag m.sender } (k - base) n
  | .load k n sg r fl =>
    [{ target := block k, src, op := 10, width := loadWidth n,
       mask := (2 ^ n - 1) * 2 ^ at_ k, tag := tagOf m.sender r sg fl }]
  | .amo op w o k _ v x r =>
    [{ target := block k, src, op := 11, width := widthCode w + memOpCode op * 4 + o % 4 * 64,
       mask := (2 ^ amoSize w - 1) * 2 ^ at_ k, tag := tagOf m.sender r false false,
       data := v.toNat + x.toNat * 2 ^ 64 }]
  | .arrive b n => [{ target := b, src, op := 6, value := n }]
  | .expect b n arr _ =>
    { target := b, src, op := 7, value := n } :: if arr then [{ target := b, src, op := 6, value := 1 }] else []
  | .subtract b n => [{ target := b, src, op := 8, value := n }]
  | .phase b p => [{ target := b, src, op := 9, value := if p then 1 else 0 }]
  | .evsig .. | .packet .. => []

/-- The carve offsets or the barrier that a message targets. -/
def Msg.targets (m : Msg) (base : Nat) : List Nat :=
  match m.body with
  | .store cells => cells.map fun c => c.1 - base
  | .red _ w k _ => [k - base, k - base + amoSize w - 1]
  | .reds _ w items => items.flatMap fun x => [x.1 - base, x.1 - base + amoSize w - 1]
  | .vload k n => [k - base, k - base + n - 1]
  | .amo _ w _ k _ _ _ _ => [k - base, k - base + amoSize w - 1]
  | .load k n _ _ _ => [k - base, k - base + n - 1]
  | b => [b.firstKey]

/-- The state with records appended to an entry's shadow image, each with the core's next arrival sequence number (13 R350). -/
def State.appendRecords (s : State) (c : Nat) (e : DivEntry) : List ShadowRec → State
  | [] => s
  | r :: rs =>
    let core := s.coreAt c
    let s := match locateHbm 0 (e.shadow + 64 * e.used) with
      | some k => s.writeBytes k (r.bytes core.arrival)
      | none => s
    let s := s.setCore c { s.coreAt c with arrival := core.arrival + 1 }
    let e := { e with used := e.used + 1 }
    (s.keepDivEntry c e).appendRecords c e rs

/-- The kind of a message in the diversion table (13 R349). -/
def MsgBody.divKind (b : MsgBody) : Nat := if b.isBarrier then 2 else 1

/-- What a diversion does with a message (13 R350 to R352). -/
inductive Diverted where
  | appended | refused | discarded
  deriving DecidableEq, Repr

/-- A message for an absent context is matched, and its records appended; where they do not fit it is refused, and where
nothing matches it is discarded as an orphan (13 R347 to R352). -/
def State.divert (s : State) (c : Nat) (m : Msg) : State × Diverted :=
  let base := scratchKey c 0
  let core := s.coreAt c
  match core.divMatch m.body.divKind m.sender.part (m.targets base) with
  | none => (s.orphanMsg c m m.body.firstKey, .discarded)
  | some e =>
    let rs := m.records base
    if e.size < e.used + rs.length then
      if e.full then (s, .refused)
      else
        let s := s.keepDivEntry c { e with full := true }
        let core := s.coreAt c
        let ev : Word × Word := (BitVec.ofNat 64 e.shadow, BitVec.ofNat 64 (e.index % 32 + e.cid % 2 ^ 16 * 2 ^ 16))
        (s.setCore c { core with pending := { core.pending with divFull := core.pending.divFull ++ [ev] } }, .refused)
    else (s.appendRecords c e rs, .appended)

/-! ## Performing a message -/

/-- The end of a core's carve: WAYS * 65,536 (07 R197). -/
def State.carveSize (s : State) (c : Nat) : Nat := bitsNat (s.coreAt c).csrs.spadways 4 0 * 65536

/-- The `n` bytes from a location of core `c`'s scratchpad lie within the carve in force (07 R199). -/
def State.carveHas (s : State) (c key n : Nat) : Bool := decide (key - scratchKey c 0 + n ≤ s.carveSize c)

/-- A barrier message at a core: one that is aimed at a barrier of the core goes on to the domain's home where that is another core,
and one that a core has sent on to this home is applied here, whatever this core's own definition names (11 R286, R287).  The reply to
an expectation goes to the strand that sent it. -/
def State.barrierMsg (s : State) (c : Nat) (m : Msg) : State :=
  let b := m.body.firstKey
  let h := s.barrierHome c b
  match m.body with
  | .phase b p => s.setBarrier c b { s.barrierOf c b with phase := p }
  | body =>
    if h ≠ c ∧ m.origin = none then
      s.post { m with origin := some c, home := some h, dest := h, body := body, user := false }
    else
      match body with
      | .arrive b n => s.arriveAt c b n
      | .subtract b n => s.subtractAt c b n
      | .expect b n arr reply =>
        match reply with
        | none => s.expectErr c b n arr
        | some _ =>
          match s.expectAt c b n arr with
          | (s, some p) => s.answerExpect m.sender (.phase p)
          | (s, none) => s.answerExpect m.sender .overflow
      | _ => s

/-- A message's lines used at their rim banks, with its retention tag (08 R224). -/
def State.useHome (s : State) (m : Msg) : State :=
  ((m.body.ranges.flatMap fun r => linesOf r.1 r.2).eraseDups).foldl (fun s line => s.rimUse line (some m.tag)) s

/-- A memory message performed at its location; at a scratchpad, against the carve in force (07 R199, 10 R276). -/
def State.performMsg (s : State) (m : Msg) : State :=
  let ok : Nat → Nat → Bool := fun k n => match m.home with
    | none => true
    | some c => s.carveHas c k n
  let lost : State → Nat → State := fun s k => match m.home with
    | none => s
    | some c => s.orphanMsg c m k
  let s := if m.home.isSome then s else s.useHome m
  match m.body with
  | .store cells =>
    let s := (cells.filter fun c => ok c.1 1).foldl (fun s c => s.writeByte c.1 c.2) s
    match cells.find? fun c => !ok c.1 1 with
    | some c => lost s c.1
    | none => s
  | .red op w k v => if ok k (amoSize w) then (s.performOp op w k v 0).1 else lost s k
  | .reds op w items =>
    let s := s.performReds op w (items.filter fun x => ok x.1 (amoSize w))
    match items.find? fun x => !ok x.1 (amoSize w) with
    | some x => lost s x.1
    | none => s
  | .load k n sg r fl =>
    let s := s.sendBack m 2
    if ok k n then s.answerLoad m.sender n sg r fl (s.readMem k n) (s.isPoisoned k n) (addrOfKey k)
    else s.answerNothing m.sender n sg r fl (addrOfKey k)
  | .vload k n =>
    let s := s.sendBack m (flitsOf n)
    if ok k n then s.answerVload m.sender { key := k, size := n, value := s.readMem k n, poison := s.isPoisoned k n }
    else s.answerNoVload m.sender k n
  | .amo op w _ k va v x r =>
    let s := s.sendBack m 2
    if ok k (amoSize w) then
      let (s, old, bad) := s.performOp op w k v x
      s.land m.sender r .load old (if bad then some va else none)
    else (lost s k).answerNoAmo m.sender r va
  | .evsig l v add =>
    let old := Tab.get 0 s.lines l
    let data := if add then bitsNat old 31 0 + bitsNat v 31 0 else bitsNat v 31 0
    let word : Word := BitVec.ofNat 64 ((bitsNat old 63 32 + 1) % 2 ^ 32 * 2 ^ 32 + data % 2 ^ 32)
    { s with lines := Tab.set s.lines l word }
  | _ => match m.home with
    | some c => s.barrierMsg c m
    | none => s

/-- The answer that a diversion gives at once to a BEXP: the PHASE of its own barrier (11 R290). -/
def State.answerDiverted (s : State) (m : Msg) : State :=
  match m.body with
  | .expect b _ _ (some _) =>
    s.answerExpect m.sender (.phase (s.barrierOf m.sender.core b).phase)
  | _ => s

/-- The answers that a discarded message gives: poisoned data to a load or AMO (13 R352), a refusal to a BEXP (11 R290). -/
def State.answerDiscarded (s : State) (m : Msg) : State :=
  match m.body with
  | .load k n sg r fl => s.answerNothing m.sender n sg r fl (addrOfKey k)
  | .vload k n => s.answerNoVload m.sender k n
  | .amo _ _ _ _ va _ _ r => s.answerNoAmo m.sender r va
  | .expect _ _ _ (some _) => s.answerExpect m.sender .discarded
  | _ => s

/-- The core index that a message of another module carries (13 R350). -/
def otherModule : Nat := 0xFFFE

/-- The partition that owns a CID: that of the context which carries it, resident or departed. -/
def State.partOfCid (s : State) (cid : Nat) : Option Nat :=
  (s.cores.findSome? fun c => if c.2.resident && bitsNat c.2.csrs.cidtag 15 0 == cid then some c.2.part else none).or
    (s.cores.findSome? fun c => (c.2.departed.find? (·.cid == cid)).map (·.part))

/-- A message with its partition: one of another module's copy carries the partition that owns its CID here (13 R347). -/
def State.withPart (s : State) (m : Msg) : Msg :=
  if m.sender.core = otherModule then { m with sender := { m.sender with part := s.partOfCid m.sender.cid, dead := true } } else m

/-- A message arrives at its home, having left the network.  It is performed where a context of its partition is resident,
held during that context's merge, and otherwise diverted, refused or discarded (13 R347, R355).  A message that is held or
refused is answered back, to stay in the network; so is a load or AMO that is diverted, which is not performed until its record
is replayed.  The read of a vector load that no entry matches is discarded by the instruction itself, which waits for it. -/
def State.arriveMsg (s : State) (m : Msg) : State × Option Msg :=
  let m := s.withPart m
  match m.home with
  | none => ((s.performMsg m).acknowledge m, none)
  | some c =>
    match m.body with
    | .evsig .. => (s.performMsg m, none)
    | _ =>
      if s.isHome c m.sender.part then ((s.performMsg m).acknowledge m, none)
      else if (s.coreAt c).resident && m.sender.part == some (s.coreAt c).part then (s, some { m with held := true })
      else if m.body.isVload && ((s.coreAt c).divMatch 1 m.sender.part (m.targets (scratchKey c 0))).isNone then (s, none)
      else
        match s.divert c m with
        | (s, .appended) =>
          match m.body with
          | .load .. | .amo .. | .vload .. => (s, some { m with diverted := true })
          | _ => ((s.answerDiverted m).acknowledge m, none)
        | (s, .discarded) => ((s.answerDiscarded m).acknowledge m, none)
        | (s, .refused) => (s, some { m with refused := true })

/-- Two messages are of one strand. -/
def Sender.sameStrand (x m : Sender) : Bool :=
  x.core == m.core && x.slot == m.slot && x.sup == m.sup && x.dead == m.dead && x.engine == m.engine &&
    (m.sup || isChiplet m.core || x.cid == m.cid)

/-- The messages of its strand below this serial number are performed before message `m`: all earlier ones where it is a release (10
R270, R272). -/
def Msg.fenceAt (m : Msg) : Nat := if m.release then m.serial else m.fence

/-- Message `x`, sent before `m`, is performed before it: both come from one core and are for one home core (10 R267), or they come
from one core and touch a common location (10 R265).  Two messages for G-space homes are not ordered otherwise, whether or not they
share a bank (10 R266). -/
def Msg.precedes (x m : Msg) : Bool :=
  x.source == m.source && x.dest == m.dest && (m.home.isSome || m.body.ranges.any fun r => x.touches r.1 r.2)

/-- Message `i` may arrive: its packet has come to its home, no message that is performed before it is still under way (10 R265,
R267), and no message of its strand that a release or a fence puts before it is unperformed, in the network or in a husk (10 R270,
R272). -/
def State.mayArrive (s : State) (i : Nat) : Bool :=
  match s.net[i]? with
  | none => false
  | some m =>
    m.travel.isNone && !m.atPort && !m.held && !m.diverted &&
      !((s.net.take i).any fun x => x.precedes m && !x.held && !x.diverted) &&
      !((s.net ++ s.spilled).any fun x => decide (x.serial < m.fenceAt) && x.sender.sameStrand m.sender && !x.body.isVload)

/-- Message `i` of the network reaches its home, where it may; one that is held there stands behind those that came before it. -/
def State.deliver (s : State) (i : Nat) : State :=
  match s.net[i]? with
  | none => s
  | some m =>
    if s.mayArrive i then
      match { s with net := s.net.eraseIdx i }.arriveMsg { m with refused := false } with
      | (s, none) => s
      | (s, some m) => { s with net := if m.held then s.net ++ [m] else s.net.insertIdx i m }
    else s

end Sys2Proof.Machine
end

