-- ==== Sys2Proof/Machine/Translate.lean ====
section
/-!
DEFINITION. Machine/Translate.lean: the walks that accesses make, with their requests and their uses of rim banks (08 R224 to R229, 14
R359), and the place that an address names (08 R215 to R220, 15 R374, R375).
-/

namespace Sys2Proof.Machine

/-- A word of memory is read or fetched past the caches: its request and its answer cross the network, and the line is used at its
bank (08 R222, R224, 14 R359). -/
def State.readHome (s : State) (a : Agent) (key : Nat) : State :=
  (s.postTraffic (a.request (destOfKey key) 1 2)).rimUse (key / 64) (some .ordinary)

/-- A word of memory is written past the caches. -/
def State.writeHome (s : State) (a : Agent) (key : Nat) : State :=
  (s.postTraffic (trafficMsg a.core (destOfKey key) a.prio a.payer 2 0 0 0)).rimUse (key / 64) (some .ordinary)

/-- The walker reads the entries of an address's walk (08 R226). -/
def M.walkOut (a : Agent) (va : Word) : M Unit :=
  modify fun s => (s.walkKeys a.ptbase va).foldl (fun s key => s.readHome a key) s

/-- A walk that comes to a level-3 entry, valid or not, in a 64 KiB range that does not carry one page: its own entry or any of
the sixteen, by a free value, each checked as a leaf is (08 R227).  The range is one of G-space, since S-space has 4 KiB pages
only (08 R226). -/
def M.contChoice (a : Agent) (va : Word) (w : Walk) : M Walk := do
  let s ← get
  match if spaceOf va = .sync then none else (s.walkKeys a.ptbase va)[3]? with
  | none => return w
  | some key =>
    let es := s.contGroup key
    if es.any (fun x => pteValid x && pteCont x) && !contUniform es then
      let n := (← M.free).toNat % 17
      if n = 16 then return w
      else
        let x := es.getD n 0
        return if pteValid x then checkLeaf false 3 (key / 128 * 128 + 8 * n) (contEntry x (key / 8 % 16)) else .invalid 3
    else return w

/-- The walk that an access uses: where a cached translation differs from the tables, the schedule chooses (08 R229).  A
write through a cached entry with D clear goes to the walker, which sees the tables (08 R227).  With translation off every access
faults at level 0, whatever is cached (08 R225). -/
def M.cachedWalk (a : Agent) (k : Acc) (va : Word) : M Walk := do
  let s ← get
  let w := s.walk a.ptbase va
  if !bitAt a.ptbase 0 then return w
  match s.tlb.find? (·.hits a va.toNat) with
  | none =>
    M.walkOut a va
    M.contChoice a va w
  | some x =>
    let same := match w with
      | .leaf _ size e _ => decide (pteStill e = pteStill x.leaf) && size == x.size
      | .invalid _ => false
    let set := bitAt x.leaf 6 && (bitAt x.leaf 7 || !k.isWrite)
    if !same && set && (← M.lag) then
      let level := if x.size = 2 ^ 30 then 1 else if x.size = 2 ^ 21 then 2 else 3
      return .leaf level x.size x.leaf (2 ^ 60)
    else
      if !same || !set then M.walkOut a va
      M.contChoice a va w

/-- The page of an address, its permissions checked, A and D set, and its translation cached: the leaf entry, and the
physical address of the byte (08 R226 to R229). -/
def M.page (a : Agent) (k : Acc) (va : Word) (extra : Nat) : M (Word × Nat × Nat) := do
  match ← M.cachedWalk a k va with
  | .invalid level => M.trap (xlateExc a k va false level extra)
  | .leaf level size e key =>
    let allowed := (a.mode != .user || pteUser e) && k.needs.all (bitAt e ·)
    if !allowed then M.trap (xlateExc a k va true level extra)
    let bits := 0x40 + if k.isWrite then 0x80 else 0
    let old := e.toNat
    if key ≠ 2 ^ 60 then
      let s ← get
      let now := s.readMem key 8
      if now ||| bits ≠ now then set ((s.writeMem key 8 (now ||| bits)).writeHome a key)
      let base := va.toNat / size * size
      let entry : TlbEntry := { core := a.core, cid := a.cid, base, size, leaf := BitVec.ofNat 64 (old ||| bits), glob := pteGlobal e }
      modify fun s => s.cacheLeaf entry
    return (e, ptePa e / size * size + va.toNat % size, level)

/-- The place of a G-space address, from its leaf, its physical address and the leaf's level (08 R216 to R219, 15 R374, R375). -/
def M.pagePlace (a : Agent) (k : Acc) (va : Word) (extra : Nat) (x : Word × Nat × Nat) : M Place := do
  let (e, pa, level) := x
  let s ← get
  let how : Caching := { nc := pteNc e, part := if (k = .load ∨ k = .store) ∧ a.plain = false then a.part else none, va := va.toNat }
  let stepTo : Nat → Option Nat := fun stride => s.locate (pteHome e) (pa + stride)
  match pteRegion e with
  | none =>
    match stepTo 0 with
    | none => M.trap (xlateExc a k va true level extra)
    | some key => return .mem key (pteLossy e) how none
  | some r =>
    match s.resolve a k r with
    | .error code => M.trap (accessExc va (extra + r * 2 ^ 32 + code * 2 ^ 44))
    | .ok i =>
      match stepTo (i * s.regionStride (a.part.getD 0) r) with
      | none => M.trap (xlateExc a k va true level extra)
      | some key => return .mem key (pteLossy e) how (some (r, i))

/-- The place of a G-space or S-space address (08 R215 to R220, 15 R374, R375). -/
def M.translate (a : Agent) (k : Acc) (va : Word) (extra : Nat) : M Place := do
  match spaceOf va with
  | .global => M.pagePlace a k va extra (← M.page a k va extra)
  | .sync =>
    if k = .fetch then M.trap (xlateExc a k va false 0 extra)
    let (_, pa, level) ← M.page a k va extra
    if 2 ^ 49 ≤ pa ∧ pa < 2 ^ 49 + windowsEnd then return .window (pa - 2 ^ 49)
    else M.trap (xlateExc a k va true level extra)
  | _ => M.trap (xlateExc a k va false 0 extra)

end Sys2Proof.Machine
end

