-- ==== Sys2Proof/Machine/Access.lean ====
section
/-!
DEFINITION. Machine/Access.lean: one access of a strand: its checks in their order (04 R106, R107), the carve (07 R201), the S
windows (08 R220, 11 R293, R294, 12 R313, 17 R393 to R395), lossy pages (03 R78), and its performance or its message (07 R203).
-/

namespace Sys2Proof.Machine

/-! ## Checks -/

/-- The departed record under which the queues of a core without a context go on (09 R263, log entry 51). -/
def Departed.isIdle (d : Departed) : Bool := d.part == 128

/-- The ways that SPADWAYS gives to an agent's context at its core: those in force now, or, where that context has left the core, those
it left with (07 R198, R201). -/
def State.waysOf (s : State) (a : Agent) : Nat :=
  let c := s.coreAt a.core
  if c.resident && a.part == some c.part && a.cid == bitsNat c.csrs.cidtag 15 0 then bitsNat c.csrs.spadways 4 0
  else ((c.departed.find? fun d => !d.isIdle && a.part == some d.part && a.cid == d.cid).map (·.ways)).getD 0

/-- The carve size that an agent's access to core `h` is checked against (07 R201). -/
def State.carveFor (s : State) (a : Agent) (h : Nat) : Nat :=
  if isChiplet a.core then
    if a.mode = .user ∨ !(s.coreAt h).resident then 0 else s.carveSize h
  else match a.part with
    | some p => if (s.partAt p).mask.getLsbD (clusterOf h) then s.waysOf a * 65536 else 0
    | none => 0

/-- The bits of a store that lossy pages of a code keep: a store must cover whole elements of this many bytes (03 R78). -/
def lossySize (lossy : Nat) : Nat := if lossy = 1 then 4 else if lossy = 2 then 2 else 1

/-- The window accepts an access of `n` bytes (11 R293, R294, 12 R313, 17 R393); `mode` is the accessing mode. -/
def windowAccepts (mode : Mode) (k : Acc) (off n : Nat) : Bool :=
  let ld := k == .load
  let st := k == .store
  if n ≠ 8 then false
  else if off < 0x08000000 then (ld && off % 64 == 0) || (st && (off % 64 == 0 || off % 64 == 8))
  else if off < 0x10000000 then (ld || st) && off % 64 == 0
  else if off < 0x20000000 then
    (ld && (off % 128 == 0 || off % 128 == 8)) || (st && (off % 128 == 16 || off % 128 == 24))
  else if off < 0x20080000 then ld && off % 4096 == 0 && mode != .user
  else
    let o := off - 0x20080000
    mode != .user &&
      if o < 0x1000 then (ld && (o % 64 == 0 || o % 64 == 8)) || (st && o % 64 == 0)
      else decide (o < 0x9200) && (ld || st) && o % 32 == 0

/-- The checks of an access of `n` bytes that depend on the place which its address translates to: the windows' own, and those of a lossy
page (03 R78, 04 R107). -/
def M.placeCheck (a : Agent) (k : Acc) (va : Word) (n : Nat) (vector : Bool) (extra : Nat) (p : Place) : M Place := do
  match p with
  | .window off =>
    if vector || !windowAccepts a.mode k off n then M.trap (accessExc va extra)
    return .window off
  | .mem key lossy how region =>
    let refused := match k with
      | .store => lossy != 0 && n < lossySize lossy
      | .amo | .red => lossy != 0
      | _ => false
    if refused then M.trap (accessExc va extra)
    return .mem key lossy how region
  | p => return p

/-- The checks of an access of `n` bytes at an address, in their order (04 R107): the place it reaches.  `extra` is what the
instruction's own entry puts into INFO. -/
def M.check (a : Agent) (k : Acc) (va : Word) (n : Nat) (vector : Bool) (extra : Nat) : M Place := do
  if va.toNat % n ≠ 0 then M.trap { code := 0x02, addr := va, info := BitVec.ofNat 64 extra }
  if spaceOf va = .scratch then
    if (← get).carveFor a (localCore va) < localOff va + n then
      M.trap { code := 0x07, addr := va, info := BitVec.ofNat 64 extra }
    return .carve (localCore va) (localOff va)
  M.placeCheck a k va n vector extra (← M.translate a k va extra)

/-! ## Lossy pages -/

/-- A value as a load from a lossy page returns it: the dropped bits of each element zero (03 R78). -/
def lossyRead (lossy key n v : Nat) : Nat :=
  if lossy = 0 then v
  else natOfBytes ((bytesOf n v).zipIdx.map fun (b, i) => if (key + i) % lossySize lossy < lossySize lossy / 2 then 0 else b)

/-- The elements of a value, rounded one by one. -/
def mapElems (w : Nat) (f : Nat → Nat) : Nat → Nat → Nat
  | 0, _ => 0
  | n + 1, v => f (v % 2 ^ w) + mapElems w f n (v / 2 ^ w) * 2 ^ w

/-- A value as a store to a lossy page rounds it (03 R78). -/
def lossyWrite (lossy n v : Nat) : Nat :=
  if lossy = 1 then mapElems 32 lossyBf16 (n / 4) v
  else if lossy = 2 then mapElems 16 lossyE5m2 (n / 2) v
  else v

/-! ## The windows -/

/-- OWNER of a semaphore cell, for a strand at a core (17 R394). -/
def cellOwner (core : Nat) : Nat := core

/-- The partition that a window access of the strand that moves acts for: that of the CID in its CIDTAG (11 R293). -/
def State.windowPart (s : State) : Option Nat :=
  match s.myPart with
  | some p => some p
  | none => s.partOfCid (bitsNat s.myCore.csrs.cidtag 15 0)

/-- The counts of a seed window, as a load or a host's read returns them (12 R313). -/
def Partition.seedCounts (p : Partition) : Word :=
  if p.made then BitVec.ofNat 64 (p.accepted % 2 ^ 32 * 2 ^ 32 + p.refused % 2 ^ 32) else 0

/-- The request of a word that an event unit, or the chiplet, holds: none for the core's own unit (14 R359). -/
def M.askUnit (dest : Nat) : M Unit := do
  if dest ≠ (← get).myCoreNo then M.exchangeWith dest 1 2 M.wait

/-- The destination number of the chiplet. -/
def chipletDest : Nat := 2048 + 128

/-- A load of the S windows, which has been accepted (11 R293, R294, 12 R313, 17 R394).  A barrier word of a core where no
context of the partition is resident is held, and the strand waits (11 R293); a strand of no partition acts for the one of its CIDTAG's
CID, or else for the context that is resident there (log entry 31). -/
def M.windowLoad (off : Nat) : M Word := do
  if (← get).syncBusy (← get).cur then M.wait
  if off < 0x10000000 then
    M.askUnit (off / 64 % 1024)
    return Tab.get 0 (← get).lines (off / 64)
  if off < 0x20000000 then
    let o := off - 0x10000000
    let c := o / 262144
    let b := o / 128 % 2048
    M.askUnit c
    let s ← get
    if !s.isHome c (s.homePart s.windowPart c) then M.wait
    if o % 128 = 8 then return (s.barrierOf c b).flagsWord
    let h := s.barrierHome c b
    if !s.isHome h (s.homePart s.windowPart h) then M.wait
    return (s.barrierOf h b).countsWord
  M.askUnit chipletDest
  let s ← get
  if off < 0x20080000 then
    return (s.partAt ((off - 0x20000000) / 4096)).seedCounts
  let o := off - 0x20080000
  if 0x1000 ≤ o then M.free
  else
    let cell := o / 64
    let w := Tab.get 0 s.cellsSem cell
    if o % 64 = 0 && !bitAt w 63 then
      let x : Word := BitVec.ofNat 64 (2 ^ 63 + cellOwner s.myCoreNo)
      set { s with cellsSem := Tab.set s.cellsSem cell x }
    return w

/-- The state with a message put into a mailbox (17 R395); the store wakes the module from retention (R401). -/
def State.putMail (s : State) (c sender : Nat) (fromHost : Bool) (value : Word) : State :=
  let s := { s with power := if s.power = Power.retention then Power.active else s.power }
  let core := s.coreAt c
  let mail : Mail := { value, sender, fromHost, lost := core.pending.mail.isSome }
  s.setCore c { core with pending := { core.pending with mail := some mail } }

/-- A barrier arrival or a signal releases the strand's earlier accesses: it waits until those that USC does not count are performed
(10 R272, R273). -/
def M.signalWait : M Unit := do
  let s ← get
  if s.uncountedBusy s.cur then M.wait

/-- A write that is performed at once, and the sending of an arrival, wait for the messages that a fence of the strand put before them
(10 R270). -/
def M.fencePast : M Unit := do
  let s ← get
  if s.net.any fun m => s.sentBy s.cur m && !m.body.isVload && decide (m.serial < s.me.fenced) then M.wait

/-- A store to the S windows, which has been accepted (11 R293, R294, 17 R394, R395).  An arrival and a signal release as BARR and
EVSIG do. -/
def M.windowStore (va : Word) (off : Nat) (value : Word) : M Unit := do
  M.fencePast
  let s ← get
  if s.syncBusy s.cur then M.wait
  if off < 0x10000000 then
    let l := off / 64
    if off % 64 = 0 then set { s with lines := Tab.set s.lines l value }
    else
      M.signalWait
      let old := Tab.get 0 s.lines l
      let word : Word := BitVec.ofNat 64 ((bitsNat old 63 32 + 1) % 2 ^ 32 * 2 ^ 32 + bitsNat value 31 0)
      set { s with lines := Tab.set s.lines l word }
  else if off < 0x20000000 then
    let o := off - 0x10000000
    let c := o / 262144
    let b := o / 128 % 2048
    if o % 128 = 24 then M.send (some c) c (.expect b (bitsNat value 31 0) false none) false (part := s.windowPart)
    else if bitsNat value 15 0 ≠ 0 then
      M.signalWait
      M.send (some c) c (.arrive b (bitsNat value 15 0)) false (part := s.windowPart)
  else
    let o := off - 0x20080000
    if 0x1000 ≤ o then modify fun s => s.putMail ((o - 0x1000) / 32) s.myCoreNo false value
    else
      let cell := o / 64
      let w := Tab.get 0 s.cellsSem cell
      if s.me.usc ≠ 0 then M.wait
      if value = 0 ∧ bitAt w 63 = true ∧ bitsNat w 15 0 = cellOwner s.myCoreNo then
        set { s with cellsSem := Tab.set s.cellsSem cell 0 }
      else M.trap (accessExc va 0)

/-! ## Reading -/

/-- A read of memory by the strand that moves passes its caches; a line that they do not hold is fetched from its home, and enters
the tiers that R221 assigns it (08 R221, R224). -/
def M.loadLines (how : Caching) (key n : Nat) : M Unit := do
  let s ← get
  let c := s.myCoreNo
  let far := (linesOf key n).filter fun line => !s.lineNear c line how.nc
  far.forM fun line => M.exchange (line * 64) 1 2
  modify fun s => s.readLines c how key n

/-- The strand waits at a vector load for a context of its partition at a core: its read is a message to it, held or diverted (10
R277, 13 R347 to R351). -/
def M.probe (c key n : Nat) : M Unit := do
  let s ← get
  if !(s.net.any fun m => s.sentBy s.cur m && m.body == .vload key n) then M.send (some c) c (.vload key n) false
  M.waitFor key

/-- A read of `n` bytes that needs no message of its own: the number, and whether its data is poisoned.  It waits behind the
strand's own messages to the place (04 R106, 10 R265, R267).  A read of another core's carve where no context of the partition is
resident is a message, and its data are those that it returns (10 R277, 13 R350); one that no diversion covers is an orphan (13 R352),
whose data are a free value. -/
def M.read (p : Place) (n : Nat) : M (Nat × Bool) := do
  let s ← get
  match p with
  | .mem key lossy how _ =>
    if s.inFlight s.cur key n then M.waitFor key
    M.loadLines how key n
    return (lossyRead lossy key n (s.readMem key n), s.isPoisoned key n)
  | .window off => return ((← M.windowLoad off).toNat, false)
  | .carve c off =>
    let key := scratchKey c off
    match s.me.awaits.got.find? fun x => x.key == key && x.size == n with
    | some x => return (x.value, x.poison)
    | none => pure ()
    if s.pairBusy s.myCoreNo c then M.waitFor key
    if c = s.myCoreNo then return (s.readMem key n, s.isPoisoned key n)
    let sender := s.senderOf s.cur
    let part := s.homePart none c
    if s.isHome c part then
      if s.carveHas c key n then
        M.exchange key 1 (flitsOf n)
        return (s.readMem key n, s.isPoisoned key n)
      else return ((← M.free).toNat % 2 ^ (8 * n), true)
    if (s.coreAt c).resident && part == some (s.coreAt c).part then M.probe c key n
    match (s.coreAt c).divMatch 1 part [off, off + n - 1] with
    | some _ =>
      M.probe c key n
      return (0, true)
    | none =>
      set (s.orphan c (addrOfKey key) sender.cid sender.core 10)
      return ((← M.free).toNat % 2 ^ (8 * n), true)

/-! ## Writing -/

/-- The bytes of a number as they are stored from a location. -/
def cellsOf (key n v : Nat) : List (Nat × Byte) := (bytesOf n v).zipIdx.map fun (b, i) => (key + i, b)

/-- A store to a location is performed in the core's own slice: the line is homed on its die, may be cached, and the slice
has cache ways (08 R221). -/
def State.ownLine (s : State) (key : Nat) (nc : Bool) : Bool :=
  let c := s.myCoreNo
  !isChiplet c && !nc && dieOfKey key == some (c / 256) && decide (bitsNat s.myCore.csrs.spadways 4 0 < 16)

/-- Where a write goes: performed at once in the core's own slice, or a message to a home (07 R203); `how` is the caching of the
page of a write to memory. -/
inductive Route where
  | here (how : Caching) (cells : List (Nat × Byte))
  | away (home : Option Nat) (dest : Nat) (how : Caching) (cells : List (Nat × Byte))
  deriving DecidableEq, Repr

/-- The route of a write of `n` bytes to memory or a carve, rounded as a lossy page rounds it. -/
def State.route (s : State) (p : Place) (n v : Nat) : Route :=
  match p with
  | .mem key lossy how _ =>
    let cells := cellsOf key n (lossyWrite lossy n v)
    if s.ownLine key how.nc then .here how cells else .away none (destOfKey key) how cells
  | .carve c off =>
    let cells := cellsOf (scratchKey c off) n v
    if c = s.myCoreNo then .here {} cells else .away (some c) c {} cells
  | .window _ => .here {} []

/-- The state with bytes written at their locations. -/
def State.writeCells (s : State) (cells : List (Nat × Byte)) : State := cells.foldl (fun s c => s.writeByte c.1 c.2) s

/-- Writes performed here wait behind the strand's own messages to the same bytes (10 R265), behind those that a fence put before them
(10 R270), and at the core's own slice behind the core's messages to it (10 R267). -/
def M.clearOf (cells : List (Nat × Byte)) : M Unit := do
  M.fencePast
  let s ← get
  match cells.find? fun c => s.inFlight s.cur c.1 1 with
  | some c => M.waitFor c.1
  | none => pure ()
  match cells.find? fun c => decide (2 ^ 48 ≤ c.1) with
  | some c => if s.pairBusy s.myCoreNo s.myCoreNo then M.waitFor c.1
  | none => pure ()

/-- The lines of a write to be performed in the own slice are brought there, in state M or E (08 R221). -/
def M.takeLines (cells : List (Nat × Byte)) : M Unit := do
  let s ← get
  let c := s.myCoreNo
  let far := (((cells.filter fun x => decide (x.1 < 2 ^ 40)).map fun x => x.1 / 64).eraseDups).filter fun line => !s.sliceOwns c line
  far.forM fun line => M.exchange (line * 64) 1 2

/-- A write performed here, whose lines have been brought: in the core's own slice cache, or in its carve (08 R221). -/
def M.putHere (how : Caching) (cells : List (Nat × Byte)) : M Unit :=
  modify fun s =>
    if cells.all fun c => decide (c.1 < 2 ^ 40) then s.storeOwn s.myCoreNo how cells else s.writeCells cells

/-- The retention tag that a message carries (08 R231). -/
def State.tagOfCells (s : State) (how : Caching) : RimMark := s.retentionTag how.part how.va

/-- Notes a message of a slotted instruction (14 R367). -/
def M.note (x : Slotted) : M Unit :=
  modify fun s => s.setMyCore { s.myCore with slotPend := s.myCore.slotPend ++ [x] }

/-- A message of an instruction that waits for its slots, with its elements (14 R367): it is noted, and the strand stalls. -/
def M.slotted (home : Option Nat) (body : MsgBody) (elems : List (Nat × Word)) (settled : Option (Nat × MWord))
    (indexed : Bool) (fault : Option Exc) (release : Bool := false) (trim : Option Nat := none) : M Unit := do
  let s ← get
  let m : Msg :=
    { sender := s.senderOf s.cur, home, dest := home.getD 0, body, counted := true, slotted := true, release, user := true,
      bulk := true, prio := s.me.prio, fence := s.me.fenced }
  M.note { slot := s.mySlotNo, msg := m, elems, settled, trim, indexed, fault := fault.map fun e => (e.code, e.addr, e.info) }
  M.modifyMe fun t => { t with cond := .slotted }

/-- A scalar store of a number of `n` bytes, which has passed its checks.  It completes the instruction, but a slotted one
waits for its injection. -/
def M.store (va : Word) (p : Place) (n v : Nat) : M Unit := do
  let s ← get
  match p with
  | .window off =>
    M.windowStore va off (BitVec.ofNat 64 v)
    M.done
  | _ => match s.route p n v with
    | .here how cells =>
      M.clearOf cells
      M.takeLines cells
      M.putHere how cells
      M.done
    | .away home dest how cells =>
      M.roomInUsc 1
      if home.isSome && s.slottedNow then
        M.slotCheck va
        M.slotted home (.store cells) [(0, va)] none false none
      else
        M.send home dest (.store cells) true (tag := s.tagOfCells how)
        M.done

end Sys2Proof.Machine
end

