-- ==== Sys2Proof/Machine/Vint.lean ====
section
/-!
DEFINITION. Machine/Vint.lean: integer vector forms (05 R131 to R135) and the grant of a vector length (05 R128).
-/

namespace Sys2Proof.Machine

/-- A b operand of a vector form: its value at an element, at a width. -/
abbrev VSource := Strand → Nat → Nat → Nat

/-- Element `e` of v[r] (05 R124). -/
def srcV (r : Reg) : VSource := fun t w e => velem w (t.readV r) e

/-- g[r] at the element width, for every element (05 R131). -/
def srcG (r : Reg) : VSource := fun t w _ => (t.readG r).toNat % 2 ^ w

/-- An integer form on the destination element and two source elements (05 R129, R132). -/
def vintOp (f : Nat → Nat → Nat → Nat → Nat) (b : VSource) (d a : Reg) (k : MaskReg) (e : Et) (t : Strand) : Strand :=
  let w := etWidth e
  t.writeV d (vput w (t.readV d) (activeElems t (t.elems e) k fun j =>
    f w (velem w (t.readV d) j) (velem w (t.readV a) j) (b t w j)))

/-- A saturating form: the exact result clamped to the signed range, with SAT where that changes it (05 R133). -/
def vsatOp (f : Int → Int → Int) (b : VSource) (d a : Reg) (k : MaskReg) (e : Et) (t : Strand) : Strand :=
  let w := etWidth e
  let xs := activeElems t (t.elems e) k fun j => f (signedOf w (velem w (t.readV a) j)) (signedOf w (b t w j))
  let lim := intBounds w false
  let clamp : Int → Int := fun x => max lim.1 (min lim.2 x)
  (t.writeV d (vput w (t.readV d) (xs.map (·.map fun x => wrapNat w (clamp x))))).addFlags
    (flagIf (xs.any fun x => match x with
      | some x => clamp x != x
      | none => false) flagSAT)

/-- The signed elements' product, its upper half (05 R132). -/
def mulHighS (w a b : Nat) : Nat := wrapNat w (signedOf w a * signedOf w b / 2 ^ w)

/-- A shift to the right that fills with the sign (05 R132). -/
def shiftSign (w a n : Nat) : Nat := wrapNat w (signedOf w a / 2 ^ n)

/-- The dot product of four signed bytes, added to the destination (05 R134). -/
def dot4 (d a b : Nat) : Nat :=
  wrapNat 32 ((List.range 4).foldl
    (fun acc i => acc + signedOf 8 (a / 2 ^ (8 * i)) * signedOf 8 (b / 2 ^ (8 * i))) (signedOf 32 d))

/-- One element narrowed by a mode, and whether it was clamped (05 R135). -/
def narrow (mode ws wd x : Nat) : Nat × Bool :=
  let top := 2 ^ wd - 1
  match mode with
  | 0 => (x % 2 ^ wd, false)
  | 1 =>
    let lim := intBounds wd false
    let v := signedOf ws x
    (wrapNat wd (max lim.1 (min lim.2 v)), decide (v < lim.1 ∨ lim.2 < v))
  | 2 => (min x top, decide (top < x))
  | _ =>
    let v := signedOf ws x
    ((max 0 (min (top : Int) v)).toNat, decide (v < 0 ∨ (top : Int) < v))

/-- The effective length of a form that names two widths: VLMAX of the wider (05 R126). -/
def Strand.elemsAt (t : Strand) (w : Nat) : Nat := min t.vl (8192 / w)

/-- VADD (05 R132). -/
def execVadd (d a b : Reg) (k : MaskReg) (e : Et) (s : State) : Out :=
  vissue (wordOf (.vadd d a b k e)) [] [] [d, a, b] (complete (vintOp (fun _ _ x y => x + y) (srcV b) d a k e)) s
/-- VADD with a scalar operand (05 R132, R131). -/
def execVaddScalar (d a b : Reg) (k : MaskReg) (e : Et) (s : State) : Out :=
  vissue (wordOf (.vaddScalar d a b k e)) [b] [] [d, a] (complete (vintOp (fun _ _ x y => x + y) (srcG b) d a k e)) s
/-- VSUB (05 R132). -/
def execVsub (d a b : Reg) (k : MaskReg) (e : Et) (s : State) : Out :=
  vissue (wordOf (.vsub d a b k e)) [] [] [d, a, b] (complete (vintOp (fun w _ x y => x + 2 ^ w - y) (srcV b) d a k e)) s
/-- VSUB with a scalar operand (05 R132, R131). -/
def execVsubScalar (d a b : Reg) (k : MaskReg) (e : Et) (s : State) : Out :=
  vissue (wordOf (.vsubScalar d a b k e)) [b] [] [d, a] (complete (vintOp (fun w _ x y => x + 2 ^ w - y) (srcG b) d a k e)) s
/-- VMUL (05 R132). -/
def execVmul (d a b : Reg) (k : MaskReg) (e : Et) (s : State) : Out :=
  vissue (wordOf (.vmul d a b k e)) [] [] [d, a, b] (complete (vintOp (fun _ _ x y => x * y) (srcV b) d a k e)) s
/-- VMUL with a scalar operand (05 R132, R131). -/
def execVmulScalar (d a b : Reg) (k : MaskReg) (e : Et) (s : State) : Out :=
  vissue (wordOf (.vmulScalar d a b k e)) [b] [] [d, a] (complete (vintOp (fun _ _ x y => x * y) (srcG b) d a k e)) s
/-- VMULH (05 R132). -/
def execVmulh (d a b : Reg) (k : MaskReg) (e : Et) (s : State) : Out :=
  vissue (wordOf (.vmulh d a b k e)) [] [] [d, a, b] (complete (vintOp (fun w _ x y => mulHighS w x y) (srcV b) d a k e)) s
/-- VMULH with a scalar operand (05 R132, R131). -/
def execVmulhScalar (d a b : Reg) (k : MaskReg) (e : Et) (s : State) : Out :=
  vissue (wordOf (.vmulhScalar d a b k e)) [b] [] [d, a] (complete (vintOp (fun w _ x y => mulHighS w x y) (srcG b) d a k e)) s
/-- VMULHZ (05 R132). -/
def execVmulhz (d a b : Reg) (k : MaskReg) (e : Et) (s : State) : Out :=
  vissue (wordOf (.vmulhz d a b k e)) [] [] [d, a, b] (complete (vintOp (fun w _ x y => x * y / 2 ^ w) (srcV b) d a k e)) s
/-- VMULHZ with a scalar operand (05 R132, R131). -/
def execVmulhzScalar (d a b : Reg) (k : MaskReg) (e : Et) (s : State) : Out :=
  vissue (wordOf (.vmulhzScalar d a b k e)) [b] [] [d, a] (complete (vintOp (fun w _ x y => x * y / 2 ^ w) (srcG b) d a k e)) s
/-- VMIN (05 R132). -/
def execVmin (d a b : Reg) (k : MaskReg) (e : Et) (s : State) : Out :=
  vissue (wordOf (.vmin d a b k e)) [] [] [d, a, b] (complete (vintOp (fun w _ x y => if signedOf w x ≤ signedOf w y then x else y) (srcV b) d a k e)) s
/-- VMIN with a scalar operand (05 R132, R131). -/
def execVminScalar (d a b : Reg) (k : MaskReg) (e : Et) (s : State) : Out :=
  vissue (wordOf (.vminScalar d a b k e)) [b] [] [d, a] (complete (vintOp (fun w _ x y => if signedOf w x ≤ signedOf w y then x else y) (srcG b) d a k e)) s
/-- VMAX (05 R132). -/
def execVmax (d a b : Reg) (k : MaskReg) (e : Et) (s : State) : Out :=
  vissue (wordOf (.vmax d a b k e)) [] [] [d, a, b] (complete (vintOp (fun w _ x y => if signedOf w y ≤ signedOf w x then x else y) (srcV b) d a k e)) s
/-- VMAX with a scalar operand (05 R132, R131). -/
def execVmaxScalar (d a b : Reg) (k : MaskReg) (e : Et) (s : State) : Out :=
  vissue (wordOf (.vmaxScalar d a b k e)) [b] [] [d, a] (complete (vintOp (fun w _ x y => if signedOf w y ≤ signedOf w x then x else y) (srcG b) d a k e)) s
/-- VMINZ (05 R132). -/
def execVminz (d a b : Reg) (k : MaskReg) (e : Et) (s : State) : Out :=
  vissue (wordOf (.vminz d a b k e)) [] [] [d, a, b] (complete (vintOp (fun _ _ x y => if x ≤ y then x else y) (srcV b) d a k e)) s
/-- VMINZ with a scalar operand (05 R132, R131). -/
def execVminzScalar (d a b : Reg) (k : MaskReg) (e : Et) (s : State) : Out :=
  vissue (wordOf (.vminzScalar d a b k e)) [b] [] [d, a] (complete (vintOp (fun _ _ x y => if x ≤ y then x else y) (srcG b) d a k e)) s
/-- VMAXZ (05 R132). -/
def execVmaxz (d a b : Reg) (k : MaskReg) (e : Et) (s : State) : Out :=
  vissue (wordOf (.vmaxz d a b k e)) [] [] [d, a, b] (complete (vintOp (fun _ _ x y => if y ≤ x then x else y) (srcV b) d a k e)) s
/-- VMAXZ with a scalar operand (05 R132, R131). -/
def execVmaxzScalar (d a b : Reg) (k : MaskReg) (e : Et) (s : State) : Out :=
  vissue (wordOf (.vmaxzScalar d a b k e)) [b] [] [d, a] (complete (vintOp (fun _ _ x y => if y ≤ x then x else y) (srcG b) d a k e)) s
/-- VAND (05 R132). -/
def execVand (d a b : Reg) (k : MaskReg) (e : Et) (s : State) : Out :=
  vissue (wordOf (.vand d a b k e)) [] [] [d, a, b] (complete (vintOp (fun _ _ x y => x &&& y) (srcV b) d a k e)) s
/-- VAND with a scalar operand (05 R132, R131). -/
def execVandScalar (d a b : Reg) (k : MaskReg) (e : Et) (s : State) : Out :=
  vissue (wordOf (.vandScalar d a b k e)) [b] [] [d, a] (complete (vintOp (fun _ _ x y => x &&& y) (srcG b) d a k e)) s
/-- VOR (05 R132). -/
def execVor (d a b : Reg) (k : MaskReg) (e : Et) (s : State) : Out :=
  vissue (wordOf (.vor d a b k e)) [] [] [d, a, b] (complete (vintOp (fun _ _ x y => x ||| y) (srcV b) d a k e)) s
/-- VOR with a scalar operand (05 R132, R131). -/
def execVorScalar (d a b : Reg) (k : MaskReg) (e : Et) (s : State) : Out :=
  vissue (wordOf (.vorScalar d a b k e)) [b] [] [d, a] (complete (vintOp (fun _ _ x y => x ||| y) (srcG b) d a k e)) s
/-- VXOR (05 R132). -/
def execVxor (d a b : Reg) (k : MaskReg) (e : Et) (s : State) : Out :=
  vissue (wordOf (.vxor d a b k e)) [] [] [d, a, b] (complete (vintOp (fun _ _ x y => x ^^^ y) (srcV b) d a k e)) s
/-- VXOR with a scalar operand (05 R132, R131). -/
def execVxorScalar (d a b : Reg) (k : MaskReg) (e : Et) (s : State) : Out :=
  vissue (wordOf (.vxorScalar d a b k e)) [b] [] [d, a] (complete (vintOp (fun _ _ x y => x ^^^ y) (srcG b) d a k e)) s
/-- VSHL (05 R132). -/
def execVshl (d a b : Reg) (k : MaskReg) (e : Et) (s : State) : Out :=
  vissue (wordOf (.vshl d a b k e)) [] [] [d, a, b] (complete (vintOp (fun w _ x y => x * 2 ^ (y % w)) (srcV b) d a k e)) s
/-- VSHL with a scalar operand (05 R132, R131). -/
def execVshlScalar (d a b : Reg) (k : MaskReg) (e : Et) (s : State) : Out :=
  vissue (wordOf (.vshlScalar d a b k e)) [b] [] [d, a] (complete (vintOp (fun w _ x y => x * 2 ^ (y % w)) (srcG b) d a k e)) s
/-- VSHR (05 R132). -/
def execVshr (d a b : Reg) (k : MaskReg) (e : Et) (s : State) : Out :=
  vissue (wordOf (.vshr d a b k e)) [] [] [d, a, b] (complete (vintOp (fun w _ x y => x / 2 ^ (y % w)) (srcV b) d a k e)) s
/-- VSHR with a scalar operand (05 R132, R131). -/
def execVshrScalar (d a b : Reg) (k : MaskReg) (e : Et) (s : State) : Out :=
  vissue (wordOf (.vshrScalar d a b k e)) [b] [] [d, a] (complete (vintOp (fun w _ x y => x / 2 ^ (y % w)) (srcG b) d a k e)) s
/-- VSAR (05 R132). -/
def execVsar (d a b : Reg) (k : MaskReg) (e : Et) (s : State) : Out :=
  vissue (wordOf (.vsar d a b k e)) [] [] [d, a, b] (complete (vintOp (fun w _ x y => shiftSign w x (y % w)) (srcV b) d a k e)) s
/-- VSAR with a scalar operand (05 R132, R131). -/
def execVsarScalar (d a b : Reg) (k : MaskReg) (e : Et) (s : State) : Out :=
  vissue (wordOf (.vsarScalar d a b k e)) [b] [] [d, a] (complete (vintOp (fun w _ x y => shiftSign w x (y % w)) (srcG b) d a k e)) s
/-- VSADD (05 R133). -/
def execVsadd (d a b : Reg) (k : MaskReg) (e : Et) (s : State) : Out :=
  vissue (wordOf (.vsadd d a b k e)) [] [] [d, a, b] (complete (vsatOp (· + ·) (srcV b) d a k e)) s
/-- VSADD with a scalar operand (05 R133, R131). -/
def execVsaddScalar (d a b : Reg) (k : MaskReg) (e : Et) (s : State) : Out :=
  vissue (wordOf (.vsaddScalar d a b k e)) [b] [] [d, a] (complete (vsatOp (· + ·) (srcG b) d a k e)) s
/-- VSSUB (05 R133). -/
def execVssub (d a b : Reg) (k : MaskReg) (e : Et) (s : State) : Out :=
  vissue (wordOf (.vssub d a b k e)) [] [] [d, a, b] (complete (vsatOp (· - ·) (srcV b) d a k e)) s
/-- VSSUB with a scalar operand (05 R133, R131). -/
def execVssubScalar (d a b : Reg) (k : MaskReg) (e : Et) (s : State) : Out :=
  vissue (wordOf (.vssubScalar d a b k e)) [b] [] [d, a] (complete (vsatOp (· - ·) (srcG b) d a k e)) s
/-- VMACC (05 R132). -/
def execVmacc (d a b : Reg) (k : MaskReg) (e : Et) (s : State) : Out :=
  vissue (wordOf (.vmacc d a b k e)) [] [] [d, a, b] (complete (vintOp (fun _ z x y => z + x * y) (srcV b) d a k e)) s
/-- VMACC with a scalar operand (05 R132, R131). -/
def execVmaccScalar (d a b : Reg) (k : MaskReg) (e : Et) (s : State) : Out :=
  vissue (wordOf (.vmaccScalar d a b k e)) [b] [] [d, a] (complete (vintOp (fun _ z x y => z + x * y) (srcG b) d a k e)) s
/-- VDOT4 (05 R134). -/
def execVdot4 (d a b : Reg) (k : MaskReg) (s : State) : Out :=
  vissue (wordOf (.vdot4 d a b k)) [] [] [d, a, b] (complete (vintOp (fun _ z x y => dot4 z x y) (srcV b) d a k .b32)) s
/-- VDOT4 with a scalar operand (05 R134, R131). -/
def execVdot4Scalar (d a b : Reg) (k : MaskReg) (s : State) : Out :=
  vissue (wordOf (.vdot4Scalar d a b k)) [b] [] [d, a] (complete (vintOp (fun _ z x y => dot4 z x y) (srcG b) d a k .b32)) s

/-- VNARROW (05 R135). -/
def execVnarrow (d a : Reg) (m : BitVec 2) (k : MaskReg) (e : Et) (s : State) : Out :=
  vissue (wordOf (.vnarrow d a m k e)) [] [] [d, a] (complete fun t =>
    let wd := etWidth e
    let xs := activeElems t (t.elemsAt (2 * wd)) k fun j => narrow m.toNat (2 * wd) wd (velem (2 * wd) (t.readV a) j)
    (t.writeV d (vput wd (t.readV d) (xs.map (·.map (·.1))))).addFlags
      (flagIf (xs.any fun x => (x.map (·.2)).getD false) flagSAT)) s

/-- VWIDEN (05 R135). -/
def execVwiden (d a : Reg) (x : Bool) (k : MaskReg) (e : Et) (s : State) : Out :=
  vissue (wordOf (.vwiden d a x k e)) [] [] [d, a] (complete fun t =>
    let wd := etWidth e
    let ws := wd / 2
    t.writeV d (vput wd (t.readV d) (activeElems t (t.elemsAt wd) k fun j =>
      let v := velem ws (t.readV a) j
      if x then v else wrapNat wd (signedOf ws v)))) s

/-- SETVL (05 R128). -/
def execSetvl (d a : Reg) (e : Et) (s : State) : Out :=
  vissue (wordOf (.setvl d a e)) [a] [d] [] (complete fun t =>
    let n := min (t.readG a).toNat (etVlmax e)
    { t.writeG d (BitVec.ofNat 64 n) with vl := n }) s

/-- SETVLI (05 R128). -/
def execSetvli (d : Reg) (u : BitVec 11) (e : Et) (s : State) : Out :=
  vissue (wordOf (.setvli d u e)) [] [d] [] (complete fun t =>
    let n := min u.toNat (etVlmax e)
    { t.writeG d (BitVec.ofNat 64 n) with vl := n }) s

end Sys2Proof.Machine
end

