-- ==== Sys2Proof/Machine/Vflt.lean ====
section
/-!
DEFINITION. Machine/Vflt.lean: floating-point vector forms (05 R130, R136 to R138) and the vector conversions (03 R83 to R85).
-/

namespace Sys2Proof.Machine

/-- One element's result and flags, where the element is active. -/
abbrev ElemResult := Option (Nat × Flags)

/-- The flags of all the elements. -/
def allFlags (xs : List ElemResult) : Flags := xs.foldl (fun fl x => fl ||| (x.map (·.2)).getD 0) 0

/-- The lowest element whose flags include an enabled one (03 R70). -/
def Strand.firstTrap (t : Strand) (xs : List ElemResult) : Nat :=
  (xs.findIdx? fun x => t.traps ((x.map (·.2)).getD 0)).getD 0

/-- Finishing a vector floating-point form: FP_TRAP where a flag it would set is enabled, and otherwise the write, the flags
and the draws (03 R66, R70, 05 R130). -/
def finishVec (xs : List ElemResult) (draws : Nat) (write : Strand → Strand) (s : State) : Out :=
  let fl := allFlags xs
  if s.me.traps fl then raise (fpTrapExc fl (s.me.firstTrap xs)) s
  else complete (fun t => ((write t).addFlags fl).draw draws) s

/-- Finishing a form that writes its elements' codes into v[d] at a width. -/
def finishVelems (w : Nat) (d : Reg) (xs : List ElemResult) (draws : Nat) (s : State) : Out :=
  finishVec xs draws (fun t => t.writeV d (vput w (t.readV d) (xs.map (·.map (·.1))))) s

/-- The default NaN where an f register's box fails, and otherwise its value's code, for every element (05 R131). -/
def srcF (f : FpFormat) (r : Reg) : VSource := fun t _ _ => unbox f (t.readF r)

/-- A source of a floating-point form: v[b], or f[b] for every element (05 R131). -/
def srcVF (scalar : Bool) (f : FpFormat) (r : Reg) : VSource := if scalar then srcF f r else srcV r

/-- A form that rounds by FSTAT's mode: element results from the values of d, a and b (05 R130, R136). -/
def vfltRound (scalar : Bool) (op : FpMode → FpVal → FpVal → FpVal → FpRaw) (d a b : Reg) (k : MaskReg) (e : Et)
    (s : State) : Out :=
  let t := s.me
  let f := t.etFormat e
  let w := etWidth e
  let n := t.elems e
  let src := srcVF scalar f b
  let xs := activeElems t n k fun j =>
    fpDeliver f t.rm (t.random j).toNat
      (op t.rm (f.value (velem w (t.readV d) j)) (f.value (velem w (t.readV a) j)) (f.value (src t w j)))
  finishVelems w d xs (drawsOf t.rm n) s

/-- A form whose results are never rounded: element codes and flags from the codes of a and b. -/
def vfltExact (scalar : Bool) (op : FpFormat → Nat → Nat → Nat × Flags) (d a b : Reg) (k : MaskReg) (e : Et)
    (s : State) : Out :=
  let t := s.me
  let f := t.etFormat e
  let w := etWidth e
  let src := srcVF scalar f b
  finishVelems w d (activeElems t (t.elems e) k fun j => op f (velem w (t.readV a) j) (src t w j)) 0 s

/-- The v registers that a form names. -/
def vfltRegs (scalar : Bool) (d a b : Reg) : List Reg := if scalar then [d, a] else [d, a, b]

/-- An estimate cut to 9 bits and then into the format: the result of VFRCPE or VFRSQE for m * 2^e (05 R137). -/
def estimate (f : FpFormat) (neg : Bool) (m : Nat) (e : Int) : Nat × Flags :=
  let p := min 9 (f.man + 1)
  let cut := Nat.log2 m + 1 - p
  let v := FpVal.fin neg (m / 2 ^ cut) (e + cut)
  let x : FpExact := ⟨neg, m / 2 ^ cut, e + cut, false⟩
  if fpLess (f.magnitude false f.maxCode) (if neg then v.negate else v) then
    (f.withSign neg f.infCode, flagOF ||| flagNX)
  else ((fpRound f .rtz 0 x).1, 0)

/-- VFRCPE of one element (05 R137). -/
def reciprocal (f : FpFormat) (v : FpVal) : Nat × Flags :=
  match v with
  | .nan s => fpNaN f (flagIf s flagNV)
  | .inf neg => (f.withSign neg 0, 0)
  | .fin neg m e =>
    if m = 0 then (f.withSign neg f.infCode, flagDZ)
    else
      let j := Nat.log2 m + 16
      estimate f neg (2 ^ j / m) (-e - j)

/-- VFRSQE of one element (05 R137). -/
def reciprocalRoot (f : FpFormat) (v : FpVal) : Nat × Flags :=
  match v with
  | .nan s => fpNaN f (flagIf s flagNV)
  | .inf neg => if neg then fpNaN f flagNV else (0, 0)
  | .fin neg m e =>
    if m = 0 then (f.withSign neg f.infCode, flagDZ)
    else if neg then fpNaN f flagNV
    else
      let odd := e % 2 == 1
      let m2 := if odd then 2 * m else m
      let e2 := if odd then e - 1 else e
      let j := Nat.log2 m2 + 16
      estimate f false (isqrt (2 ^ (2 * j) / m2)) (-(e2 / 2) - j)

/-- VFSCALE of one element by 2^k (03 R84); the powers below 2^-10000 round alike, whatever the element. -/
def scaleBy (v : FpVal) (k : Int) : FpRaw :=
  match v with
  | .nan s => .nan (flagIf s flagNV)
  | .inf neg => .inf neg 0
  | .fin neg m e => .exact ⟨neg, m, e + max k (-10000), false⟩ 0

/-- A form on floating-point elements is issued where NFMT0, if it reads it, is valid (03 R60). -/
def vfltIssue (word : IWord) (nf : Bool) (gs vs : List Reg) (k : State → Out) : State → Out :=
  vissue word gs [] vs fun s => if nf && !nfmtValid (s.me.nfmtAt 0) then raise (illegalExc word 3) s else k s

/-- VFADD (05 R136). -/
def execVfadd (d a b : Reg) (k : MaskReg) (e : Et) (s : State) : Out :=
  vissue (wordOf (.vfadd d a b k e)) [] [] (vfltRegs false d a b) (vfltRound false (fun m _ x y => fpAdd m x y) d a b k e) s
/-- VFADD with a scalar operand (05 R136, R131). -/
def execVfaddScalar (d a b : Reg) (k : MaskReg) (e : Et) (s : State) : Out :=
  vissue (wordOf (.vfaddScalar d a b k e)) [] [] (vfltRegs true d a b) (vfltRound true (fun m _ x y => fpAdd m x y) d a b k e) s
/-- VFSUB (05 R136). -/
def execVfsub (d a b : Reg) (k : MaskReg) (e : Et) (s : State) : Out :=
  vissue (wordOf (.vfsub d a b k e)) [] [] (vfltRegs false d a b) (vfltRound false (fun m _ x y => fpSub m x y) d a b k e) s
/-- VFSUB with a scalar operand (05 R136, R131). -/
def execVfsubScalar (d a b : Reg) (k : MaskReg) (e : Et) (s : State) : Out :=
  vissue (wordOf (.vfsubScalar d a b k e)) [] [] (vfltRegs true d a b) (vfltRound true (fun m _ x y => fpSub m x y) d a b k e) s
/-- VFMUL (05 R136). -/
def execVfmul (d a b : Reg) (k : MaskReg) (e : Et) (s : State) : Out :=
  vissue (wordOf (.vfmul d a b k e)) [] [] (vfltRegs false d a b) (vfltRound false (fun _ _ x y => fpMul x y) d a b k e) s
/-- VFMUL with a scalar operand (05 R136, R131). -/
def execVfmulScalar (d a b : Reg) (k : MaskReg) (e : Et) (s : State) : Out :=
  vissue (wordOf (.vfmulScalar d a b k e)) [] [] (vfltRegs true d a b) (vfltRound true (fun _ _ x y => fpMul x y) d a b k e) s
/-- VFDIV (05 R136). -/
def execVfdiv (d a b : Reg) (k : MaskReg) (e : Et) (s : State) : Out :=
  vissue (wordOf (.vfdiv d a b k e)) [] [] (vfltRegs false d a b) (vfltRound false (fun _ _ x y => fpDiv x y) d a b k e) s
/-- VFDIV with a scalar operand (05 R136, R131). -/
def execVfdivScalar (d a b : Reg) (k : MaskReg) (e : Et) (s : State) : Out :=
  vissue (wordOf (.vfdivScalar d a b k e)) [] [] (vfltRegs true d a b) (vfltRound true (fun _ _ x y => fpDiv x y) d a b k e) s
/-- VFMA (05 R136). -/
def execVfma (d a b : Reg) (k : MaskReg) (e : Et) (s : State) : Out :=
  vissue (wordOf (.vfma d a b k e)) [] [] (vfltRegs false d a b) (vfltRound false (fun m z x y => fpFma m x y z) d a b k e) s
/-- VFMA with a scalar operand (05 R136, R131). -/
def execVfmaScalar (d a b : Reg) (k : MaskReg) (e : Et) (s : State) : Out :=
  vissue (wordOf (.vfmaScalar d a b k e)) [] [] (vfltRegs true d a b) (vfltRound true (fun m z x y => fpFma m x y z) d a b k e) s
/-- VFMS (05 R136). -/
def execVfms (d a b : Reg) (k : MaskReg) (e : Et) (s : State) : Out :=
  vissue (wordOf (.vfms d a b k e)) [] [] (vfltRegs false d a b) (vfltRound false (fun m z x y => fpFma m x y z.negate) d a b k e) s
/-- VFMS with a scalar operand (05 R136, R131). -/
def execVfmsScalar (d a b : Reg) (k : MaskReg) (e : Et) (s : State) : Out :=
  vissue (wordOf (.vfmsScalar d a b k e)) [] [] (vfltRegs true d a b) (vfltRound true (fun m z x y => fpFma m x y z.negate) d a b k e) s
/-- VFNMA (05 R136). -/
def execVfnma (d a b : Reg) (k : MaskReg) (e : Et) (s : State) : Out :=
  vissue (wordOf (.vfnma d a b k e)) [] [] (vfltRegs false d a b) (vfltRound false (fun m z x y => fpFma m x.negate y z) d a b k e) s
/-- VFNMA with a scalar operand (05 R136, R131). -/
def execVfnmaScalar (d a b : Reg) (k : MaskReg) (e : Et) (s : State) : Out :=
  vissue (wordOf (.vfnmaScalar d a b k e)) [] [] (vfltRegs true d a b) (vfltRound true (fun m z x y => fpFma m x.negate y z) d a b k e) s
/-- VFMIN (05 R136). -/
def execVfmin (d a b : Reg) (k : MaskReg) (e : Et) (s : State) : Out :=
  vissue (wordOf (.vfmin d a b k e)) [] [] (vfltRegs false d a b) (vfltExact false (fun f x y => fpDeliver f .rne 0 (fpMin (f.value x) (f.value y))) d a b k e) s
/-- VFMIN with a scalar operand (05 R136, R131). -/
def execVfminScalar (d a b : Reg) (k : MaskReg) (e : Et) (s : State) : Out :=
  vissue (wordOf (.vfminScalar d a b k e)) [] [] (vfltRegs true d a b) (vfltExact true (fun f x y => fpDeliver f .rne 0 (fpMin (f.value x) (f.value y))) d a b k e) s
/-- VFMAX (05 R136). -/
def execVfmax (d a b : Reg) (k : MaskReg) (e : Et) (s : State) : Out :=
  vissue (wordOf (.vfmax d a b k e)) [] [] (vfltRegs false d a b) (vfltExact false (fun f x y => fpDeliver f .rne 0 (fpMax (f.value x) (f.value y))) d a b k e) s
/-- VFMAX with a scalar operand (05 R136, R131). -/
def execVfmaxScalar (d a b : Reg) (k : MaskReg) (e : Et) (s : State) : Out :=
  vissue (wordOf (.vfmaxScalar d a b k e)) [] [] (vfltRegs true d a b) (vfltExact true (fun f x y => fpDeliver f .rne 0 (fpMax (f.value x) (f.value y))) d a b k e) s
/-- VFSGN (05 R138). -/
def execVfsgn (d a b : Reg) (k : MaskReg) (e : Et) (s : State) : Out :=
  vissue (wordOf (.vfsgn d a b k e)) [] [] (vfltRegs false d a b) (vfltExact false (fun f x y => (signCode f .xor x y, 0)) d a b k e) s
/-- VFSGN with a scalar operand (05 R138, R131). -/
def execVfsgnScalar (d a b : Reg) (k : MaskReg) (e : Et) (s : State) : Out :=
  vissue (wordOf (.vfsgnScalar d a b k e)) [] [] (vfltRegs true d a b) (vfltExact true (fun f x y => (signCode f .xor x y, 0)) d a b k e) s

/-- VFSQRT (05 R136). -/
def execVfsqrt (d a : Reg) (k : MaskReg) (e : Et) (s : State) : Out :=
  vissue (wordOf (.vfsqrt d a k e)) [] [] [d, a] (vfltRound false (fun _ _ x _ => fpSqrt x) d a a k e) s
/-- VFRCPE (05 R137). -/
def execVfrcpe (d a : Reg) (k : MaskReg) (e : Et) (s : State) : Out :=
  vissue (wordOf (.vfrcpe d a k e)) [] [] [d, a] (vfltExact false (fun f x _ => reciprocal f (f.value x)) d a a k e) s
/-- VFRSQE (05 R137). -/
def execVfrsqe (d a : Reg) (k : MaskReg) (e : Et) (s : State) : Out :=
  vissue (wordOf (.vfrsqe d a k e)) [] [] [d, a]
    (vfltExact false (fun f x _ => reciprocalRoot f (f.value x)) d a a k e) s

/-- VFSCALE by an exponent for each element (03 R84). -/
def vfscaleOp (k : Strand → Nat → Nat → Int) (d a : Reg) (m : MaskReg) (e : Et) (s : State) : Out :=
  let t := s.me
  let f := t.etFormat e
  let w := etWidth e
  let n := t.elems e
  let xs := activeElems t n m fun j =>
    fpDeliver f t.rm (t.random j).toNat (scaleBy (f.value (velem w (t.readV a) j)) (k t w j))
  finishVelems w d xs (drawsOf t.rm n) s

/-- VFSCALE (03 R84). -/
def execVfscale (d a b : Reg) (k : MaskReg) (e : Et) (s : State) : Out :=
  vissue (wordOf (.vfscale d a b k e)) [] [] [d, a, b]
    (vfscaleOp (fun t w j => signedOf w (velem w (t.readV b) j)) d a k e) s
/-- VFSCALE with a scalar operand: k is f[b][31:0] read as signed (03 R84). -/
def execVfscaleScalar (d a b : Reg) (k : MaskReg) (e : Et) (s : State) : Out :=
  vissue (wordOf (.vfscaleScalar d a b k e)) [] [] [d, a]
    (vfscaleOp (fun t _ _ => signedOf 32 (t.readF b).toNat) d a k e) s

/-- VFCVT: a narrow type is NFMT0's (03 R83). -/
def execVfcvt (d a : Reg) (r : VRnd) (src : Et) (k : MaskReg) (e : Et) (s : State) : Out :=
  let word := wordOf (.vfcvt d a r src k e)
  vfltIssue word (src == .nf || e == .nf) [] [d, a] (fun s =>
    let t := s.me
    let mode := t.vmodeOf r
    let ws := etWidth src
    let n := t.elemsAt (max ws (etWidth e))
    let xs := activeElems t n k fun j =>
      fpDeliver (t.etFormat e) mode (t.random j).toNat ((t.etFormat src).value (velem ws (t.readV a) j)).raw
    finishVelems (etWidth e) d xs (drawsOf mode n) s) s

/-- VFCVTI (03 R81, R83). -/
def execVfcvti (d a : Reg) (r : VRnd) (z : Bool) (w : IntW) (k : MaskReg) (e : Et) (s : State) : Out :=
  vissue (wordOf (.vfcvti d a r z w k e)) [] [] [d, a] (fun s =>
    let t := s.me
    let mode := t.vmodeOf r
    let ws := etWidth e
    let wd := 8 * w.bytes
    let lim := intBounds wd z
    let n := t.elemsAt (max ws wd)
    let xs := activeElems t n k fun j =>
      let p := fpToInt mode (t.random j).toNat lim.1 lim.2 ((t.etFormat e).value (velem ws (t.readV a) j))
      (wrapNat wd p.1, p.2)
    finishVelems wd d xs (drawsOf mode n) s) s

/-- VFCVTF (03 R82, R83). -/
def execVfcvtf (d a : Reg) (r : VRnd) (z : Bool) (w : IntW) (k : MaskReg) (e : Et) (s : State) : Out :=
  vissue (wordOf (.vfcvtf d a r z w k e)) [] [] [d, a] (fun s =>
    let t := s.me
    let mode := t.vmodeOf r
    let ws := 8 * w.bytes
    let n := t.elemsAt (max ws (etWidth e))
    let xs := activeElems t n k fun j =>
      let x := velem ws (t.readV a) j
      fpDeliver (t.etFormat e) mode (t.random j).toNat (fpOfInt (if z then (x : Int) else signedOf ws x))
    finishVelems (etWidth e) d xs (drawsOf mode n) s) s

/-! ## VFMXQ -/

/-- The block size that MXBLK selects (03 R63). -/
def mxBlock (blk : Nat) : Nat := if blk = 1 then 16 else if blk = 2 then 64 else 32

/-- A format with the same precision and least value whose range is unbounded above, for every value that can arise (03
R85). -/
def FpFormat.unbounded (f : FpFormat) : FpFormat :=
  if f.exp = 0 then { f with man := f.man + 600, policy := .finite } else { f with exp := f.exp + 12, policy := .finite }

/-- One element of an MX block quantised at scale 2^-s (03 R85). -/
def mxElem (f : FpFormat) (mode : FpMode) (r : Nat) (v : FpVal) (sc : Int) : Nat × Flags :=
  match v with
  | .fin neg m e =>
    if m = 0 then (f.withSign neg 0, 0)
    else if !f.signed && neg then (0, flagNV ||| flagNX)
    else
      let p := fpRound { f.unbounded with signed := false } mode r ⟨neg, m, e - sc, false⟩
      if f.maxCode < p.1 then (f.withSign neg f.maxCode, flagSAT ||| flagNX) else (f.withSign neg p.1, p.2)
  | _ => (0, 0)

/-- The exponent of a finite non-zero value, floor(log2 |x|) (03 R74). -/
def FpVal.exponent : FpVal → Int
  | .fin _ m e => topExp m e
  | _ => 0

/-- The value is a NaN or an infinity. -/
def FpVal.notFinite : FpVal → Bool
  | .fin _ _ _ => false
  | _ => true

/-- The scale of a block: nothing where an element is not finite (03 R85). -/
def mxScale (f : FpFormat) (vs : List FpVal) : Option Int :=
  if vs.any (·.notFinite) then none
  else
    let nz := vs.filter fun v => !v.isZero
    match nz with
    | [] => some 0
    | v :: rest =>
      let top := rest.foldl (fun m v => max m v.exponent) v.exponent
      some (max (-127) (min 127 (top - (f.magnitude false f.maxCode).exponent)))

/-- VFMXQ's element codes and its scale bytes, one for each block with an active element (03 R85).  DEDUCED (log entry 26): NV of a
block with a NaN or an infinity counts as raised by every active element of the block, so FP_TRAP names the lowest of them. -/
def mxQuantise (t : Strand) (f : FpFormat) (mode : FpMode) (src : FpFormat) (a : Reg) (k : MaskReg) (n : Nat) :
    List ElemResult × List (Option Nat) :=
  let blk := mxBlock t.mxblk
  let w := src.width
  let vals := activeElems t n k fun j => src.value (velem w (t.readV a) j)
  let blocks := (List.range ((n + blk - 1) / blk)).map fun j => (vals.drop (j * blk)).take blk
  let scales := blocks.map fun vs =>
    let act := vs.filterMap id
    if act.isEmpty then none else some (mxScale f act)
  let xs := vals.zipIdx.map fun (v, j) =>
    match v, (scales.getD (j / blk) none) with
    | some v, some (some sc) => some (mxElem f mode (t.random j).toNat v sc)
    | some _, some none => some (f.nanCode.getD 0, flagNV)
    | _, _ => none
  (xs, scales.map (·.map fun sc => match sc with
    | some x => (x + 127).toNat
    | none => 255))

/-- VFMXQ (03 R85). -/
def execVfmxq (d a : Reg) (r : VRnd) (n : BitVec 2) (k : MaskReg) (e : Et) (s : State) : Out :=
  let word := wordOf (.vfmxq d a r n k e)
  vissue word [] [] [d, a] (fun s =>
    let t := s.me
    if !nfmtValid (t.nfmtAt n.toNat) then raise (illegalExc word 3) s
    else
      let mode := t.vmodeOf r
      let len := t.elems e
      let (xs, scales) := mxQuantise t (nfmtFormat (t.nfmtAt n.toNat)) mode (t.etFormat e) a k len
      finishVec xs (drawsOf mode len) (fun t =>
        let codes := vput 8 (t.readV d) (xs.map (·.map (·.1)))
        t.writeV d (vput 8 codes (List.replicate 992 none ++ scales))) s) s

end Sys2Proof.Machine
end

