-- ==== Sys2Proof/Machine/Vmask.lean ====
section
/-!
DEFINITION. Machine/Vmask.lean: mask forms (05 R139 to R142).
-/

namespace Sys2Proof.Machine

/-- The strand with the active bits below `n` of m[d] replaced (05 R139). -/
def Strand.putMask (t : Strand) (d k : MaskReg) (n : Nat) (f : Nat → Bool) : Strand :=
  t.writeM d (mmerge (t.readM d) (t.active n k) f)

/-- An integer compare (05 R139). -/
def vcmpOp (rel : Nat → Nat → Nat → Bool) (d : MaskReg) (a b : Reg) (k : MaskReg) (e : Et) (t : Strand) : Strand :=
  let w := etWidth e
  t.putMask d k (t.elems e) fun j => rel w (velem w (t.readV a) j) (velem w (t.readV b) j)

/-- A floating-point compare (05 R139): `quiet` sets NV only for a signalling NaN. -/
def vfcmpOp (quiet : Bool) (rel : FpVal → FpVal → Bool) (d : MaskReg) (a b : Reg) (k : MaskReg) (e : Et) (s : State) : Out :=
  let t := s.me
  let w := etWidth e
  let f := t.etFormat e
  let xs : List ElemResult := activeElems t (t.elems e) k fun j =>
    let p := fpCompare quiet rel (f.value (velem w (t.readV a) j)) (f.value (velem w (t.readV b) j))
    (if p.1 then 1 else 0, p.2)
  finishVec xs 0 (fun t => t.putMask d k (t.elems e) fun j => ((xs.getD j none).map (·.1)).getD 0 == 1) s

/-- A form on two masks (05 R140). -/
def maskOp (f : Bool → Bool → Bool) (d a b k : MaskReg) (e : Et) (t : Strand) : Strand :=
  t.putMask d k (t.elems e) fun j => f (mbit (t.readM a) j) (mbit (t.readM b) j)

/-- The least active element whose bit is set (05 R141). -/
def Strand.firstSet (t : Strand) (a k : MaskReg) (n : Nat) : Option Nat :=
  (List.range n).find? fun j => mbit (t.readM k) j && mbit (t.readM a) j

/-- The number of active elements whose bits are set (05 R141). -/
def Strand.countSet (t : Strand) (a k : MaskReg) (n : Nat) : Nat :=
  ((List.range n).filter fun j => mbit (t.readM k) j && mbit (t.readM a) j).length

/-- VCMPEQ (05 R139). -/
def execVcmpeq (d : MaskReg) (a b : Reg) (k : MaskReg) (e : Et) (s : State) : Out :=
  vissue (wordOf (.vcmpeq d a b k e)) [] [] [a, b] (complete (vcmpOp (fun _ x y => x == y) d a b k e)) s
/-- VCMPNE (05 R139). -/
def execVcmpne (d : MaskReg) (a b : Reg) (k : MaskReg) (e : Et) (s : State) : Out :=
  vissue (wordOf (.vcmpne d a b k e)) [] [] [a, b] (complete (vcmpOp (fun _ x y => x != y) d a b k e)) s
/-- VCMPLT (05 R139). -/
def execVcmplt (d : MaskReg) (a b : Reg) (k : MaskReg) (e : Et) (s : State) : Out :=
  vissue (wordOf (.vcmplt d a b k e)) [] [] [a, b] (complete (vcmpOp (fun w x y => signedOf w x < signedOf w y) d a b k e)) s
/-- VCMPLE (05 R139). -/
def execVcmple (d : MaskReg) (a b : Reg) (k : MaskReg) (e : Et) (s : State) : Out :=
  vissue (wordOf (.vcmple d a b k e)) [] [] [a, b] (complete (vcmpOp (fun w x y => signedOf w x ≤ signedOf w y) d a b k e)) s
/-- VCMPLO (05 R139). -/
def execVcmplo (d : MaskReg) (a b : Reg) (k : MaskReg) (e : Et) (s : State) : Out :=
  vissue (wordOf (.vcmplo d a b k e)) [] [] [a, b] (complete (vcmpOp (fun _ x y => x < y) d a b k e)) s
/-- VCMPLS (05 R139). -/
def execVcmpls (d : MaskReg) (a b : Reg) (k : MaskReg) (e : Et) (s : State) : Out :=
  vissue (wordOf (.vcmpls d a b k e)) [] [] [a, b] (complete (vcmpOp (fun _ x y => x ≤ y) d a b k e)) s
/-- VFCMPEQ (05 R139). -/
def execVfcmpeq (d : MaskReg) (a b : Reg) (k : MaskReg) (e : Et) (s : State) : Out :=
  vissue (wordOf (.vfcmpeq d a b k e)) [] [] [a, b] (vfcmpOp true fpEqual d a b k e) s
/-- VFCMPLT (05 R139). -/
def execVfcmplt (d : MaskReg) (a b : Reg) (k : MaskReg) (e : Et) (s : State) : Out :=
  vissue (wordOf (.vfcmplt d a b k e)) [] [] [a, b] (vfcmpOp false fpLess d a b k e) s
/-- VFCMPLE (05 R139). -/
def execVfcmple (d : MaskReg) (a b : Reg) (k : MaskReg) (e : Et) (s : State) : Out :=
  vissue (wordOf (.vfcmple d a b k e)) [] [] [a, b] (vfcmpOp false fpLessEq d a b k e) s
/-- MAND (05 R140). -/
def execMand (d a b k : MaskReg) (e : Et) (s : State) : Out :=
  vissue (wordOf (.mand d a b k e)) [] [] [] (complete (maskOp ((· && ·)) d a b k e)) s
/-- MOR (05 R140). -/
def execMor (d a b k : MaskReg) (e : Et) (s : State) : Out :=
  vissue (wordOf (.mor d a b k e)) [] [] [] (complete (maskOp ((· || ·)) d a b k e)) s
/-- MXOR (05 R140). -/
def execMxor (d a b k : MaskReg) (e : Et) (s : State) : Out :=
  vissue (wordOf (.mxor d a b k e)) [] [] [] (complete (maskOp ((· != ·)) d a b k e)) s
/-- MANDN (05 R140). -/
def execMandn (d a b k : MaskReg) (e : Et) (s : State) : Out :=
  vissue (wordOf (.mandn d a b k e)) [] [] [] (complete (maskOp (fun x y => x && !y) d a b k e)) s
/-- MPOPC (05 R141). -/
def execMpopc (d : Reg) (a k : MaskReg) (e : Et) (s : State) : Out :=
  vissue (wordOf (.mpopc d a k e)) [] [d] [] (complete fun t =>
    t.writeG d (BitVec.ofNat 64 (t.countSet a k (t.elems e)))) s
/-- MFIRST (05 R141). -/
def execMfirst (d : Reg) (a k : MaskReg) (e : Et) (s : State) : Out :=
  vissue (wordOf (.mfirst d a k e)) [] [d] [] (complete fun t =>
    t.writeG d (match t.firstSet a k (t.elems e) with
      | some f => BitVec.ofNat 64 f
      | none => BitVec.allOnes 64)) s
/-- MTOFIRST (05 R141). -/
def execMtofirst (d a k : MaskReg) (e : Et) (s : State) : Out :=
  vissue (wordOf (.mtofirst d a k e)) [] [] [] (complete fun t =>
    t.putMask d k (t.elems e) fun j => (t.firstSet a k (t.elems e)).all fun f => decide (j ≤ f)) s
/-- MBEFORE (05 R141). -/
def execMbefore (d a k : MaskReg) (e : Et) (s : State) : Out :=
  vissue (wordOf (.mbefore d a k e)) [] [] [] (complete fun t =>
    t.putMask d k (t.elems e) fun j => (t.firstSet a k (t.elems e)).all fun f => decide (j < f)) s
/-- MFROMG (05 R142). -/
def execMfromg (d : MaskReg) (a b : Reg) (s : State) : Out :=
  vissue (wordOf (.mfromg d a b)) [a, b] [] [] (complete fun t =>
    let i := (t.readG b).toNat % 16
    t.writeM d (mmerge (t.readM d) (fun j => j / 64 == i) fun j => bitAt (t.readG a) (j % 64))) s
/-- MTOG (05 R142). -/
def execMtog (d : Reg) (a : MaskReg) (b : Reg) (s : State) : Out :=
  vissue (wordOf (.mtog d a b)) [b] [d] [] (complete fun t =>
    t.writeG d (BitVec.ofNat 64 ((t.readM a).toNat >>> (64 * ((t.readG b).toNat % 16))))) s

end Sys2Proof.Machine
end

