-- ==== Sys2Proof/Machine/Vperm.lean ====
section
/-!
DEFINITION. Machine/Vperm.lean: permutation forms, reductions and the scan (05 R143 to R150, 03 R77).
-/

namespace Sys2Proof.Machine

/-- A movement form: each active element is a function of its index and its prior value (05 R143). -/
def moveOp (f : Strand → Nat → Nat → Nat → Nat) (d : Reg) (k : MaskReg) (e : Et) (t : Strand) : Strand :=
  let w := etWidth e
  t.writeV d (vput w (t.readV d) (activeElems t (t.elems e) k fun j => f t w j (velem w (t.readV d) j)))

/-- Element `i` of v[a], or zero past VLMAX (05 R143). -/
def elemOrZero (t : Strand) (w : Nat) (a : Reg) (i : Nat) : Nat := if i < 8192 / w then velem w (t.readV a) i else 0

/-- VSLIDEUP (05 R143). -/
def execVslideup (d a b : Reg) (k : MaskReg) (e : Et) (s : State) : Out :=
  vissue (wordOf (.vslideup d a b k e)) [b] [] [d, a] (complete (moveOp (fun t w j old =>
    let o := (t.readG b).toNat
    if j < o then old else velem w (t.readV a) (j - o)) d k e)) s
/-- VSLIDEDN (05 R143). -/
def execVslidedn (d a b : Reg) (k : MaskReg) (e : Et) (s : State) : Out :=
  vissue (wordOf (.vslidedn d a b k e)) [b] [] [d, a] (complete (moveOp (fun t w j _ =>
    elemOrZero t w a (j + (t.readG b).toNat)) d k e)) s
/-- VPERM (05 R143). -/
def execVperm (d a b : Reg) (k : MaskReg) (e : Et) (s : State) : Out :=
  vissue (wordOf (.vperm d a b k e)) [] [] [d, a, b] (complete (moveOp (fun t w j _ =>
    elemOrZero t w a (velem w (t.readV b) j)) d k e)) s
/-- VBFLY (05 R143). -/
def execVbfly (d a b : Reg) (k : MaskReg) (e : Et) (s : State) : Out :=
  vissue (wordOf (.vbfly d a b k e)) [b] [] [d, a] (complete (moveOp (fun t w j _ =>
    velem w (t.readV a) (j ^^^ ((t.readG b).toNat % (8192 / w)))) d k e)) s
/-- VZIP (05 R143). -/
def execVzip (d a b : Reg) (k : MaskReg) (e : Et) (s : State) : Out :=
  vissue (wordOf (.vzip d a b k e)) [] [] [d, a, b] (complete (moveOp (fun t w j _ =>
    velem w (t.readV (if j % 2 = 0 then a else b)) (j / 2)) d k e)) s
/-- VUNZIP (05 R143). -/
def execVunzip (d a b : Reg) (k : MaskReg) (e : Et) (s : State) : Out :=
  vissue (wordOf (.vunzip d a b k e)) [] [] [d, a, b] (complete (moveOp (fun t w j _ =>
    let n := t.elems e
    if 2 * j < n then velem w (t.readV a) (2 * j) else velem w (t.readV b) (2 * j - n)) d k e)) s

/-- VCOMPRESS (05 R144). -/
def execVcompress (d a : Reg) (k : MaskReg) (e : Et) (s : State) : Out :=
  vissue (wordOf (.vcompress d a k e)) [] [] [d, a] (complete fun t =>
    let w := etWidth e
    let xs := (activeElems t (t.elems e) k fun j => velem w (t.readV a) j).filterMap id
    t.writeV d (vput w (t.readV d) (xs.map some))) s

/-- The active elements replaced by consecutive elements from index `j` (05 R144). -/
def expandFrom (get : Nat → Nat) : Nat → List Bool → List (Option Nat)
  | _, [] => []
  | j, true :: bs => some (get j) :: expandFrom get (j + 1) bs
  | j, false :: bs => none :: expandFrom get j bs

/-- VEXPAND (05 R144). -/
def execVexpand (d a : Reg) (k : MaskReg) (e : Et) (s : State) : Out :=
  vissue (wordOf (.vexpand d a k e)) [] [] [d, a] (complete fun t =>
    let w := etWidth e
    let act := (List.range (t.elems e)).map (mbit (t.readM k))
    t.writeV d (vput w (t.readV d) (expandFrom (velem w (t.readV a)) 0 act))) s

/-- The count of set bits before each position, of the bits that a list marks (05 R145). -/
def countBefore : Nat → List Bool → List Nat
  | _, [] => []
  | c, b :: bs => c :: countBefore (if b then c + 1 else c) bs

/-- VIOTA (05 R145). -/
def execViota (d : Reg) (a k : MaskReg) (e : Et) (s : State) : Out :=
  vissue (wordOf (.viota d a k e)) [] [] [d] (complete fun t =>
    let w := etWidth e
    let n := t.elems e
    let cs := countBefore 0 ((List.range n).map fun j => mbit (t.readM k) j && mbit (t.readM a) j)
    t.writeV d (vput w (t.readV d) (cs.zipIdx.map fun (c, j) => if mbit (t.readM k) j then some c else none))) s

/-- VMERGE (05 R146). -/
def execVmerge (d a b : Reg) (k : MaskReg) (e : Et) (s : State) : Out :=
  vissue (wordOf (.vmerge d a b k e)) [] [] [d, a, b] (complete fun t =>
    let w := etWidth e
    t.writeV d (vput w (t.readV d) ((List.range (t.elems e)).map fun j =>
      some (velem w (t.readV (if mbit (t.readM k) j then a else b)) j)))) s

/-- A nf code keeps only its format's low bits (03 R62). -/
def nfMask (t : Strand) (e : Et) (x : Nat) : Nat :=
  if e = .nf then x % 2 ^ (nfmtFormat (t.nfmtAt 0)).width else x

/-- VSPLAT (05 R147). -/
def execVsplat (d b : Reg) (k : MaskReg) (e : Et) (s : State) : Out :=
  let word := wordOf (.vsplat d b k e)
  let fp := e.isFloat && e != .b64
  vissue word (if fp then [] else [b]) [] [d] (fun s =>
    if e = .nf ∧ nfmtValid (s.me.nfmtAt 0) = false then raise (illegalExc word 3) s
    else complete (moveOp (fun t w _ _ =>
      if fp then unbox (t.etFormat e) (t.readF b) else nfMask t e ((t.readG b).toNat % 2 ^ w)) d k e) s) s

/-- VEXTR (05 R147). -/
def execVextr (d a b : Reg) (e : Et) (s : State) : Out :=
  let fp := e.isFloat && e != .b64
  vissue (wordOf (.vextr d a b e)) [b] (if fp then [] else [d]) [a] (complete fun t =>
    let w := etWidth e
    let x := elemOrZero t w a (t.readG b).toNat
    if fp then t.writeF d (box (t.etFormat e) x) else t.writeG d (sextNat w x)) s

/-! ## Reductions -/

/-- One level of the tree: neighbours combine, one alone passes, two absent ones are absent (03 R77). -/
def treeLevel {α : Type} (op : α → α → α) : List (Option α) → List (Option α)
  | x :: y :: rest =>
    (match x, y with
      | some x, some y => some (op x y)
      | some x, none => some x
      | none, y => y) :: treeLevel op rest
  | xs => xs

/-- The root of the tree over up to 2^fuel positions (03 R77). -/
def treeRoot {α : Type} (op : α → α → α) : Nat → List (Option α) → Option α
  | 0, xs => xs.headD none
  | n + 1, xs => treeRoot op n (treeLevel op xs)

/-- An integer reduction, with its start (05 R148). -/
def vredOp (node : Nat → Nat → Nat → Nat) (join : Word → Word → Word) (d a b : Reg) (k : MaskReg) (e : Et) (t : Strand) :
    Strand :=
  let w := etWidth e
  match treeRoot (node w) 10 (activeElems t (t.elems e) k fun j => velem w (t.readV a) j) with
  | none => t.writeG d (t.readG b)
  | some r => t.writeG d (join (t.readG b) (sextNat w r))

/-- VREDSUM (05 R148). -/
def execVredsum (d a b : Reg) (k : MaskReg) (e : Et) (s : State) : Out :=
  vissue (wordOf (.vredsum d a b k e)) [b] [d] [a]
    (complete (vredOp (fun w x y => (x + y) % 2 ^ w) (fun x y => x + y) d a b k e)) s
/-- VREDMAX (05 R148). -/
def execVredmax (d a b : Reg) (k : MaskReg) (e : Et) (s : State) : Out :=
  vissue (wordOf (.vredmax d a b k e)) [b] [d] [a]
    (complete (vredOp (fun w x y => if signedOf w x < signedOf w y then y else x)
      (fun x y => if x.slt y then y else x) d a b k e)) s
/-- VREDMIN (05 R148). -/
def execVredmin (d a b : Reg) (k : MaskReg) (e : Et) (s : State) : Out :=
  vissue (wordOf (.vredmin d a b k e)) [b] [d] [a]
    (complete (vredOp (fun w x y => if signedOf w y < signedOf w x then y else x)
      (fun x y => if y.slt x then y else x) d a b k e)) s

/-- A node of a floating-point reduction: its code, its lowest present leaf, the flags raised below it, and the lowest leaf
that an enabled flag counts for (03 R70, R77). -/
structure FpNode where
  code  : Nat
  leaf  : Nat
  flags : Flags
  trap  : Option Nat
  deriving DecidableEq, Repr

/-- The lesser of two leaves, where either is given. -/
def minLeaf : Option Nat → Option Nat → Option Nat
  | some x, some y => some (min x y)
  | some x, none => some x
  | none, y => y

/-- Combining two nodes by an operation on codes (03 R70, R77). -/
def FpNode.join (t : Strand) (op : Nat → Nat → Nat × Flags) (x y : FpNode) : FpNode :=
  let p := op x.code y.code
  let leaf := min x.leaf y.leaf
  { code := p.1, leaf, flags := x.flags ||| y.flags ||| p.2,
    trap := minLeaf (minLeaf x.trap y.trap) (if t.traps p.2 then some leaf else none) }

/-- The mode of a reduction: RNE where FSTAT selects RSR (03 R66, 05 R149). -/
def Strand.reductionMode (t : Strand) : FpMode := if t.rm = .rsr then .rne else t.rm

/-- A floating-point reduction with its start (05 R149). -/
def vfredOp (op : FpMode → FpVal → FpVal → FpRaw) (d a b : Reg) (k : MaskReg) (e : Et) (s : State) : Out :=
  let t := s.me
  let f := t.etFormat e
  let w := etWidth e
  let mode := t.reductionMode
  let node := fun x y => fpDeliver f mode 0 (op mode (f.value x) (f.value y))
  let leaves := (activeElems t (t.elems e) k fun j => (⟨velem w (t.readV a) j, j, 0, none⟩ : FpNode))
  let start := unbox f (t.readF b)
  match treeRoot (FpNode.join t node) 10 leaves with
  | none => complete (fun t => t.writeF d (box f start)) s
  | some r =>
    let all := FpNode.join t node ⟨start, r.leaf, 0, none⟩ r
    match all.trap with
    | some i => raise (fpTrapExc all.flags i) s
    | none => complete (fun t => (t.writeF d (box f all.code)).addFlags all.flags) s

/-- VFREDSUM (05 R149). -/
def execVfredsum (d a b : Reg) (k : MaskReg) (e : Et) (s : State) : Out :=
  vissue (wordOf (.vfredsum d a b k e)) [] [] [a] (vfredOp fpAdd d a b k e) s
/-- VFREDMAX (05 R149). -/
def execVfredmax (d a b : Reg) (k : MaskReg) (e : Et) (s : State) : Out :=
  vissue (wordOf (.vfredmax d a b k e)) [] [] [a] (vfredOp (fun _ => fpMax) d a b k e) s

/-- The running sums over the elements that are given (05 R150). -/
def scanFrom (w : Nat) : Nat → List (Option Nat) → List (Option Nat)
  | _, [] => []
  | acc, none :: xs => none :: scanFrom w acc xs
  | acc, some x :: xs => some ((acc + x) % 2 ^ w) :: scanFrom w ((acc + x) % 2 ^ w) xs

/-- VSCAN (05 R150). -/
def execVscan (d a b : Reg) (k : MaskReg) (e : Et) (s : State) : Out :=
  vissue (wordOf (.vscan d a b k e)) [b] [] [d, a] (complete fun t =>
    let w := etWidth e
    t.writeV d (vput w (t.readV d) (scanFrom w ((t.readG b).toNat % 2 ^ w)
      (activeElems t (t.elems e) k fun j => velem w (t.readV a) j)))) s

end Sys2Proof.Machine
end

