-- ==== Sys2Proof/Machine/Vdb.lean ====
section
/-!
DEFINITION. Machine/Vdb.lean: database, string and random forms (05 R152 to R161).
-/

namespace Sys2Proof.Machine

/-- VHASH (05 R152). -/
def execVhash (d a b : Reg) (k : MaskReg) (e : Et) (s : State) : Out :=
  vissue (wordOf (.vhash d a b k e)) [] [] [d, a, b] (complete (vintOp (fun _ _ x y =>
    (mix (BitVec.ofNat 64 x ^^^ BitVec.ofNat 64 y)).toNat) (srcV b) d a k e)) s

/-- VPART (05 R153). -/
def execVpart (d a b : Reg) (k : MaskReg) (e : Et) (s : State) : Out :=
  vissue (wordOf (.vpart d a b k e)) [b] [] [d, a] (complete (moveOp (fun t w j _ =>
    let lo := bitsNat (t.readG b) 5 0
    if w ≤ lo then 0 else velem w (t.readV a) j / 2 ^ lo % 2 ^ bitsNat (t.readG b) 11 8) d k e)) s

/-- VCONFLICT (05 R154). -/
def execVconflict (d a : Reg) (k : MaskReg) (e : Et) (s : State) : Out :=
  vissue (wordOf (.vconflict d a k e)) [] [] [d, a] (complete (moveOp (fun t w j _ =>
    ((List.range j).filter fun i => mbit (t.readM k) i && velem w (t.readV a) i == velem w (t.readV a) j).length)
    d k e)) s

/-- VMATCHB (05 R155). -/
def execVmatchb (d : MaskReg) (a b : Reg) (k : MaskReg) (s : State) : Out :=
  vissue (wordOf (.vmatchb d a b k)) [b] [] [a] (complete fun t =>
    let bytes := bytesOf 8 (t.readG b).toNat
    t.putMask d k (t.elems .b8) fun j => bytes.contains (BitVec.ofNat 8 (velem 8 (t.readV a) j))) s

/-- VRAND (05 R161). -/
def execVrand (d : Reg) (k : MaskReg) (e : Et) (s : State) : Out :=
  vissue (wordOf (.vrand d k e)) [] [] [d] (complete fun t =>
    let n := t.elems e
    (moveOp (fun t _ j _ => (t.random j).toNat) d k e t).draw n) s

/-! ## The element-progress timer -/

/-- PROGRESS at an element, with the port that is awaited and the groups of 64 elements that are complete (07 R213). -/
def progressExc (w : Await) (elem groups : Nat) (addr : Word) : Exc :=
  { code := 0x09, addr := addr,
    info := BitVec.ofNat 64 (elem % 1024 + w.kind % 16 * 2 ^ 12 + w.port % 4096 * 2 ^ 16 + groups % 2 ^ 16 * 2 ^ 32) }

/-- The exception is PROGRESS. -/
def Exc.isProgress (e : Exc) : Bool := e.code == 0x09

/-- A part of a vector memory instruction or string form that performs an element: its result or its exception.  Where it waits, so
does the instruction, unless the timer or a span switch stops it (`stop`): then the element fails with PROGRESS (07 R212, R214). -/
def M.attemptElem {α : Type} (stop : Bool) (elem : Nat) (addr : Word) (m : M α) : M (Except Exc α) := do
  M.modifyMe fun t => { t with awaits := { t.awaits with elem } }
  tryCatch (do return .ok (← m)) fun st => do
    match st with
    | .trap e => return .error e
    | .wait => if stop then return .error (progressExc (← M.me).awaits elem (elem / 64) addr) else throw .wait

/-- A vector memory instruction or string form under its timer, which starts when it issues, restarts as it completes a further group
of 64 elements, and ends with it (07 R212). -/
def M.timed (work : M Unit) : M Unit := do
  let s ← get
  let now := s.cyclesOf s.myCoreNo
  M.modifyMe fun t => { t with timer := some (t.timer.getD { since := now }), awaits := { t.awaits with seen := 0 } }
  let restart := fun (t : Strand) => match t.timer with
    | some x => if x.group < t.awaits.elem / 64 then { t with timer := some { since := now, group := t.awaits.elem / 64 } } else t
    | none => t
  match ← tryCatch (do work; return none) fun st => return some st with
  | none => M.modifyMe fun t => if t.cond = .slotted then t else t.untimed
  | some .wait =>
    M.modifyMe restart
    M.wait
  | some (.trap e) =>
    M.modifyMe Strand.untimed
    M.trap e

/-! ## String stubs -/

/-- A string stub (05 R156). -/
structure Stub where
  len   : Nat
  text  : Word
  first : Nat
  deriving DecidableEq, Repr

/-- The address that TEXT names (05 R156). -/
def textAddr (text : Nat) : Word :=
  BitVec.ofNat 64 (if text / 2 ^ 31 = 2 ^ 17 - 1 then 0xFFFF000000000000 + text else text)

/-- Stub `i` of a register (05 R156). -/
def stubAt (x : VWord) (i : Nat) : Stub :=
  let hi := velem 64 x (2 * i + 1)
  { len := hi / 2 ^ 48, text := textAddr (hi % 2 ^ 48), first := velem 64 x (2 * i) }

/-- One byte of a text (05 R158, R159). -/
def M.textByte (text : Word) (i elem : Nat) : M Nat := do
  let va := text + BitVec.ofNat 64 i
  let p ← M.check (← get).myAgent .load va 1 true elem
  let (x, bad) ← M.read p 1
  if bad then M.trap { code := 0x15, addr := va, info := BitVec.ofNat 64 elem }
  return x

/-- Byte `i` of a stub's string: from PREFIX below 8, and otherwise from the text (05 R156). -/
def M.stubByte (x : Stub) (i elem : Nat) : M Nat :=
  if i < 8 then pure (x.first / 2 ^ (8 * i) % 256) else M.textByte x.text i elem

/-- The least index from `i` at which two strings differ, over `n` bytes, with the two bytes (05 R157).  The byte of the first string
is read before that of the second, in ascending index, so the first of them to fail is the one that is reported (log entry 32). -/
def M.stubDiffer (x y : Stub) (elem : Nat) : Nat → Nat → M (Option (Nat × Nat × Nat))
  | 0, _ => pure none
  | n + 1, i => do
    let bx ← M.stubByte x i elem
    let yb ← M.stubByte y i elem
    if bx = yb then M.stubDiffer x y elem n (i + 1) else return some (i, bx, yb)

/-- VSTRCMP of one stub: both destination elements (05 R157). -/
def M.stubCompare (x y : Stub) (elem : Nat) : M (Nat × Nat) := do
  let m := min x.len y.len
  match ← M.stubDiffer x y elem m 0 with
  | some (i, bx, yb) => return (if bx < yb then 2 ^ 64 - 1 else 1, i)
  | none => return (if x.len = y.len then 0 else if x.len < y.len then 2 ^ 64 - 1 else 1, m)

/-- The bytes of a string from `i`, `n` of them, as a number (05 R157). -/
def M.stubBytes (x : Stub) (elem : Nat) : Nat → Nat → M Nat
  | 0, _ => pure 0
  | n + 1, i => do
    let b ← M.stubByte x i elem
    return b + 256 * (← M.stubBytes x elem n (i + 1))

/-- The hash over the chunks of a string that remain, from chunk `c` (05 R157). -/
def M.stubHash (x : Stub) (elem : Nat) : Nat → Nat → Word → M Word
  | 0, _, h => pure h
  | n + 1, c, h => do
    let w ← M.stubBytes x elem (min x.len (8 * c + 8) - 8 * c) (8 * c)
    M.stubHash x elem n (c + 1) (mix (h ^^^ BitVec.ofNat 64 w))

/-- The bytes of a text from `i`, `n` of them, as a number (05 R157). -/
def M.textBytes (text : Word) (elem : Nat) : Nat → Nat → M Nat
  | 0, _ => pure 0
  | n + 1, i => do
    let b ← M.textByte text i elem
    return b + 256 * (← M.textBytes text elem n (i + 1))

/-- The exception of the least of `n` elements that failed; PROGRESS counts the groups of 64 in which none did (07 R209, R213). -/
def leastFault (n : Nat) : List (Nat × Exc) → Option Exc
  | [] => none
  | (j, e) :: rest =>
    if e.isProgress then
      let bad := j :: rest.map (·.1)
      let groups := ((List.range ((n + 63) / 64)).filter fun g => !bad.any fun i => i / 64 == g).length
      some { e with info := setBits e.info 47 32 groups }
    else some e

/-- A string form: every stub that does not fault completes, FMASK names those that do, and the exception is that of the
least of them; a stop fails the stubs that wait (05 R157, R159, 07 R212).  The address that PROGRESS reports of a stub is that of the
text that v[a] names (log entry 33). -/
def stringWork (d a : Reg) (k : MaskReg) (stub : Strand → Nat → M (Nat × Nat)) (stop : Bool) : M Unit := do
  let t ← M.me
  let n := t.elems .b64
  let mask := fun e => mbit (t.readM k) e && (t.fmask == 0 || mbit t.fmask e)
  let todo := (List.range (n / 2)).filter fun i => mask (2 * i)
  let res ← todo.mapM fun i => do
    return (i, ← M.attemptElem stop (2 * i) (stubAt (t.readV a) i).text (stub t i))
  let put : List (Option Nat) := ((List.range (n / 2)).map fun i =>
    match res.find? (·.1 == i) with
    | some (_, .ok p) => [some p.1, some p.2]
    | _ => [none, none]).flatten
  let failed := res.filterMap fun r => match r.2 with
    | .error e => some (r.1, e)
    | .ok _ => none
  M.modifyMe fun t => { t.writeV d (vput 64 (t.readV d) put) with
    fmask := mbuild fun e => failed.any fun r => 2 * r.1 == e }
  match leastFault n (failed.map fun r => (2 * r.1, r.2)) with
  | none => M.done
  | some e => M.trap e

/-- The work of VSTRLD (05 R157). -/
def vstrldWork (d a : Reg) (k : MaskReg) (stop : Bool) : M Unit :=
  stringWork d a k (fun t i => do
    let x := stubAt (t.readV a) i
    return (← M.textBytes x.text (2 * i) (min x.len 8) 0, velem 64 (t.readV a) (2 * i + 1))) stop
/-- The work of VSTRCMP (05 R157). -/
def vstrcmpWork (d a b : Reg) (k : MaskReg) (stop : Bool) : M Unit :=
  stringWork d a k (fun t i => M.stubCompare (stubAt (t.readV a) i) (stubAt (t.readV b) i) (2 * i)) stop
/-- The work of VSTRHASH (05 R157). -/
def vstrhashWork (d a : Reg) (k : MaskReg) (stop : Bool) : M Unit :=
  stringWork d a k (fun t i => do
    let x := stubAt (t.readV a) i
    return ((← M.stubHash x (2 * i) ((x.len + 7) / 8) 0 (BitVec.ofNat 64 x.len)).toNat, 0)) stop

/-- VSTRLD (05 R157). -/
def execVstrld (d a : Reg) (k : MaskReg) (s : State) : Out :=
  vissue (wordOf (.vstrld d a k)) [] [] [d, a] (runM (M.timed (vstrldWork d a k false))) s
/-- VSTRCMP (05 R157). -/
def execVstrcmp (d a b : Reg) (k : MaskReg) (s : State) : Out :=
  vissue (wordOf (.vstrcmp d a b k)) [] [] [d, a, b] (runM (M.timed (vstrcmpWork d a b k false))) s
/-- VSTRHASH (05 R157). -/
def execVstrhash (d a : Reg) (k : MaskReg) (s : State) : Out :=
  vissue (wordOf (.vstrhash d a k)) [] [] [d, a] (runM (M.timed (vstrhashWork d a k false))) s

end Sys2Proof.Machine
end

