-- ==== Sys2Proof/Machine/Vmem.lean ====
section
/-!
DEFINITION. Machine/Vmem.lean: vector loads and stores, their partial effects and restarts (07 R203 to R214), and the twin
store (15 R382).
-/

namespace Sys2Proof.Machine

/-! ## Elements -/

/-- A read of one field of an element: its number, or the exception of its first failing check; poisoned data fails (07
R205, R210). -/
def M.elemRead (va : Word) (sz elem : Nat) : M Nat := do
  let p ← M.check (← get).myAgent .load va sz true elem
  let (x, bad) ← M.read p sz
  if bad then M.trap { code := 0x15, addr := va, info := BitVec.ofNat 64 elem }
  return x

/-- The fields of an element read in ascending order (07 R206). -/
def M.fieldsRead (sz elem : Nat) : List Word → M (List Nat)
  | [] => pure []
  | va :: vas => do
    let x ← M.elemRead va sz elem
    return x :: (← M.fieldsRead sz elem vas)

/-- The route of one field of a store element, after its checks. -/
def M.elemRoute (va : Word) (sz elem v : Nat) : M Route := do
  let p ← M.check (← get).myAgent .store va sz true elem
  return (← get).route p sz v

/-- The routes of a store element's fields (07 R206). -/
def M.fieldsRoute (sz elem : Nat) : List (Word × Nat) → M (List Route)
  | [] => pure []
  | (va, v) :: xs => do
    let r ← M.elemRoute va sz elem v
    return r :: (← M.fieldsRoute sz elem xs)

/-- What a store element writes, in streams whose messages are formed apart; and the exception of a field that fails after earlier ones
have passed (07 R206, 15 R382). -/
structure StoreElem where
  streams : List (List Route)
  fault   : Option Exc := none
  deriving DecidableEq, Repr

/-! ## Ordered forms -/

/-- How an ordered form ends: no element fails, it is trimmed at an element, or an element's exception is raised (07 R208). -/
inductive OrderedEnd where
  | whole
  | trim (elem : Nat)
  | fail (elem : Nat) (e : Exc)
  deriving DecidableEq, Repr

/-- The elements of an ordered form, performed one by one until one fails: their results, and the failing one (07 R208). -/
def M.orderedElems {α : Type} (stop : Bool) (addr : Nat → Word) (act : Nat → M α) :
    List Nat → M (List (Nat × α) × Option (Nat × Exc))
  | [] => pure ([], none)
  | e :: es => do
    match ← M.attemptElem stop e (addr e) (act e) with
    | .error x => return ([], some (e, x))
    | .ok v =>
      let (xs, f) ← M.orderedElems stop addr act es
      return ((e, v) :: xs, f)

/-- The end of an ordered form whose least active element is `first` (07 R208). -/
def orderedEnd (firstFault : Bool) (first : Option Nat) (f : Option (Nat × Exc)) : OrderedEnd :=
  match f with
  | none => .whole
  | some (k, e) => if !e.isProgress && (e.code == 0x07 || firstFault) && first != some k then .trim k else .fail k e

/-- The strand after an ordered form: VL trimmed and ESTART set (07 R208). -/
def OrderedEnd.settle (o : OrderedEnd) (t : Strand) : Strand :=
  match o with
  | .whole => { t with estart := 0 }
  | .trim k => { t with vl := k, estart := 0 }
  | .fail k _ => { t with estart := k }

/-- The active elements from ESTART (07 R208). -/
def Strand.orderedFrom (t : Strand) (n : Nat) (k : MaskReg) : List Nat :=
  (List.range n).filter fun e => decide (t.estart ≤ e) && mbit (t.readM k) e

/-- The exception that an ordered form raises, if any. -/
def OrderedEnd.fault : OrderedEnd → Option Exc
  | .fail _ e => some e
  | _ => none

/-- Completes an instruction, or raises its exception. -/
def M.finish : Option Exc → M Unit
  | none => M.done
  | some e => M.trap e

/-- An ordered load of elements of `sz` bytes into `regs`, field f of element e from `addr e f` (07 R206, R208). -/
def orderedLoad (stop : Bool) (firstFault : Bool) (sz : Nat) (regs : List Reg) (k : MaskReg) (e : Et)
    (addr : Strand → Nat → Nat → Word) : M Unit := do
  let t ← M.me
  let todo := t.orderedFrom (t.elems e) k
  let fields := fun j => (List.range regs.length).map (addr t j)
  let (xs, f) ← M.orderedElems stop (fun j => addr t j 0) (fun j => M.fieldsRead sz j (fields j)) todo
  let o := orderedEnd firstFault todo.head? f
  let column := fun i => (List.range (t.elems e)).map fun j => (xs.find? (·.1 == j)).map fun x => x.2.getD i 0
  M.modifyMe fun t => o.settle (regs.zipIdx.foldl (fun t (r, i) => t.writeV r (vput (8 * sz) (t.readV r) (column i))) t)
  M.finish o.fault

/-! ## Messages of a store -/

/-- A message of a vector store, or a write that is performed here, with its elements. -/
structure Batch where
  route : Route
  elems : List Nat
  deriving DecidableEq, Repr

/-- Two writes in one message: both are bound for one home, and fit in 2 KiB (07 R203). -/
def Route.join : Route → Route → Option Route
  | .away h d w cs, .away h2 d2 _ cs2 =>
    if h = h2 ∧ d = d2 ∧ cs.length + cs2.length ≤ 2048 then some (.away h d w (cs ++ cs2)) else none
  | _, _ => none

/-- The fields of one element that go to one home, joined, in order: an element is not cut where its home does not change. -/
def joinRuns : List Route → List Route
  | [] => []
  | r :: rs => match joinRuns rs with
    | [] => [r]
    | q :: qs => match r.join q with
      | some x => x :: qs
      | none => r :: q :: qs

/-- A run of element `e` joins the latest message, or begins the next; the latest stands first. -/
def addRun (e : Nat) (bs : List Batch) (r : Route) : List Batch :=
  match bs with
  | [] => [{ route := r, elems := [e] }]
  | b :: more => match b.route.join r with
    | some x => { route := x, elems := if b.elems.contains e then b.elems else b.elems ++ [e] } :: more
    | none => { route := r, elems := [e] } :: bs

/-- Messages of one stream of a store: runs of elements bound for one home that fit in 2 KiB, in ascending order (07 R203). -/
def groupRoutes (xs : List (Nat × List Route)) : List Batch :=
  (xs.foldl (fun bs x => (joinRuns x.2).foldl (addRun x.1) bs) []).reverse

/-- Messages of a store, stream by stream. -/
def groupStreams (xs : List (Nat × StoreElem)) : List Batch :=
  let n := (xs.map fun x => x.2.streams.length).foldl max 0
  ((List.range n).map fun i => groupRoutes (xs.map fun x => (x.1, x.2.streams.getD i []))).flatten

/-- A route is a message to another core's scratchpad. -/
def Route.isLocal : Route → Bool
  | .away (some _) _ _ _ => true
  | _ => false

/-- A route is a message. -/
def Route.isAway : Route → Bool
  | .away _ _ _ _ => true
  | _ => false

/-- The bytes of a write that is performed here. -/
def Route.hereCells : Route → List (Nat × Byte)
  | .here _ cells => cells
  | _ => []

/-- The first location of a message. -/
def Route.key : Route → Nat
  | .here _ cells | .away _ _ _ cells => (cells.headD (0, 0)).1

/-- Performs a write here, or sends its message. -/
def M.sendBatch (b : Batch) : M Unit := do
  match b.route with
  | .here how cells => M.putHere how cells
  | .away h d how cells => M.send h d (.store cells) true (bulk := true) (tag := (← get).tagOfCells how)

/-- What the messages of a slotted instruction are noted with (14 R367). -/
structure SlotNote where
  addr    : Nat → Word
  settled : Option (Nat × MWord)
  trim    : Option Nat := none
  indexed : Bool
  fault   : Option Exc

/-- One message of a slotted instruction (14 R367): one for another core's scratchpad waits for its slot, and any other is sent, and
noted with its serial number. -/
def M.slotBatch (x : SlotNote) (b : Batch) : M Unit := do
  let elems := b.elems.map fun e => (e, x.addr e)
  match b.route with
  | .away (some h) _ _ cells => M.slotted (some h) (.store cells) elems x.settled x.indexed x.fault (trim := x.trim)
  | .away none _ _ cells =>
    let s ← get
    M.sendBatch b
    M.note { slot := s.mySlotNo, msg := { sender := s.senderOf s.cur, home := none, dest := 0, body := .store cells }, elems,
             serial := some s.sent, settled := x.settled, trim := x.trim, indexed := x.indexed, fault := x.fault.map fun e => (e.code, e.addr, e.info) }
  | .here _ _ => M.sendBatch b

/-- The stores of a vector instruction, whose elements have passed their checks: they are performed or sent, and where some
are slotted the strand stalls for them.  Says whether it stalls.  It waits before it performs any. -/
def M.storeBatches (first : Word) (x : SlotNote) (bs : List Batch) : M Bool := do
  let s ← get
  let slot := s.slottedNow && bs.any (·.route.isLocal)
  if slot then M.slotCheck first
  let here := (bs.map (·.route.hereCells)).flatten
  M.clearOf here
  M.takeLines here
  match bs.filter (·.route.isAway) with
  | [] => pure ()
  | b :: more => if 1024 < s.me.usc + 1 + more.length then M.waitFor b.route.key
  if slot then bs.forM (M.slotBatch x) else bs.forM M.sendBatch
  return slot

/-! ## Ordered stores -/

/-- Of a store that would need more than 1,024 messages, the part whose messages are sent first: a half of its elements (07 R204). -/
def storePart (xs : List (Nat × StoreElem)) : List (Nat × StoreElem) × Option Nat :=
  if ((groupStreams xs).filter (·.route.isAway)).length ≤ 1024 then (xs, none)
  else (xs.take (xs.length / 2), (xs[xs.length / 2]?).map (·.1))

/-- The elements of an ordered store, checked one by one until one fails: what they write, with the passed fields of the failing
one. -/
def M.orderedStores (stop : Bool) (addr : Nat → Word) (act : Nat → M StoreElem) :
    List Nat → M (List (Nat × StoreElem) × Option (Nat × Exc))
  | [] => pure ([], none)
  | e :: es => do
    match ← M.attemptElem stop e (addr e) (act e) with
    | .error x => return ([], some (e, x))
    | .ok v =>
      match v.fault with
      | some x => return ([(e, v)], some (e, x))
      | none =>
        let (xs, f) ← M.orderedStores stop addr act es
        return ((e, v) :: xs, f)

/-- An ordered store: `act` checks element e and gives what it writes (07 R206 to R208).  A twin store of more than 1,024 messages is
performed in two parts, the second from ESTART (log entry 11). -/
def orderedStore (stop : Bool) (k : MaskReg) (e : Et) (addr : Strand → Nat → Word)
    (act : Strand → Nat → M StoreElem) : M Unit := do
  let t ← M.me
  let todo := t.orderedFrom (t.elems e) k
  let (xs, f) ← M.orderedStores stop (addr t) (act t) todo
  let (xs, next) := storePart xs
  let o := orderedEnd false todo.head? (if next.isSome then none else f)
  let first := todo.headD 0
  let after := o.settle t
  let note : SlotNote := { addr := addr t, settled := some (after.estart, t.fmask), trim := some after.vl, indexed := false, fault := o.fault }
  match ← M.attemptElem stop first (addr t first) (M.storeBatches (addr t first) note (groupStreams xs)) with
  | .error x =>
    if x.isProgress then M.modifyMe (OrderedEnd.fail first x).settle
    M.trap x
  | .ok true => pure ()
  | .ok false =>
    match next with
    | some j => M.modifyMe fun t => { t with estart := j, cond := .ready }
    | none =>
      M.modifyMe o.settle
      M.finish o.fault

/-! ## Indexed forms -/

/-- The active set of an indexed form (07 R209). -/
def Strand.indexedSet (t : Strand) (n : Nat) (mask : Nat → Bool) : List Nat :=
  (List.range n).filter fun e => mask e && (t.fmask == 0 || mbit t.fmask e)

/-- An aligned access to L-space that is not in range (07 R201).  A misaligned one does not count here: it fails with MISALIGN, which
04 R107 puts first, under case 3 of R209 (log entry 49). -/
def State.outOfRange (s : State) (va : Word) (sz : Nat) : Bool :=
  va.toNat % sz == 0 && spaceOf va == .scratch && decide (s.carveFor s.myAgent (localCore va) < localOff va + sz)

/-- The active set after the range rule, and the length to which it cuts VL: LOCAL_RANGE on its least element, or a cut at a later one
(07 R209). -/
def M.rangeRule (addr : Nat → Word) (sz : Nat) (set : List Nat) : M (List Nat × Option Nat) := do
  let s ← get
  match set.find? fun e => s.outOfRange (addr e) sz with
  | none => return (set, none)
  | some e =>
    if set.head? = some e then M.trap { code := 0x07, addr := addr e, info := BitVec.ofNat 64 e }
    else return (set.filter (· < e), some e)

/-- The strand with VL cut, where the range rule cuts it. -/
def Strand.cut (t : Strand) (vl : Option Nat) : Strand := { t with vl := vl.getD t.vl }

/-- The elements of an indexed form, each attempted by itself (07 R209, R212). -/
def M.indexedElems {α : Type} (stop : Bool) (addr : Nat → Word) (act : Nat → M α) :
    List Nat → M (List (Nat × Except Exc α))
  | [] => pure []
  | e :: es => do
    let r ← M.attemptElem stop e (addr e) (act e)
    return (e, r) :: (← M.indexedElems stop addr act es)

/-- The elements that succeeded. -/
def okElems {α : Type} (xs : List (Nat × Except Exc α)) : List (Nat × α) :=
  xs.filterMap fun x => match x.2 with
    | .ok v => some (x.1, v)
    | .error _ => none

/-- The elements that failed. -/
def badElems {α : Type} (xs : List (Nat × Except Exc α)) : List (Nat × Exc) :=
  xs.filterMap fun x => match x.2 with
    | .ok _ => none
    | .error e => some (x.1, e)

/-- The mask of some elements. -/
def maskOf (es : List Nat) : MWord := mbuild fun e => es.contains e

/-- An indexed load (07 R206, R209). -/
def indexedLoad (stop : Bool) (sz : Nat) (d : Reg) (k : MaskReg) (e : Et) (addr : Strand → Nat → Word) : M Unit := do
  let t ← M.me
  let (set, vl) ← M.rangeRule (addr t) sz (t.indexedSet (t.elems e) fun j => mbit (t.readM k) j)
  let xs ← M.indexedElems stop (addr t) (fun j => M.elemRead (addr t j) sz j) set
  let good := okElems xs
  let bad := badElems xs
  let column := (List.range (t.elems e)).map fun j => (good.find? (·.1 == j)).map (·.2)
  M.modifyMe fun t => { (t.writeV d (vput (8 * sz) (t.readV d) column)).cut vl with fmask := maskOf (bad.map (·.1)) }
  M.finish (leastFault (t.elems e) bad)

/-- The end of an indexed store or VREDM of `n` elements whose active set is `set`, of which `bad` fail: `send` performs or sends the
others, and says whether the strand stalls for slots.  A stop before that leaves every element unperformed (07 R209, R212). -/
def indexedFinish (stop : Bool) (n : Nat) (addr : Nat → Word) (set : List Nat) (bad : List (Nat × Exc)) (vl : Option Nat)
    (send : M Bool) : M Unit := do
  let first := set.headD 0
  match ← M.attemptElem stop first (addr first) send with
  | .error x =>
    if x.isProgress then
      M.modifyMe fun t => { t.cut vl with fmask := maskOf set }
      let w := (← M.me).awaits
      let all := set.map fun j => ((bad.find? (·.1 == j)).getD (j, progressExc w j 0 (addr j)))
      M.finish (leastFault n all)
    else M.trap x
  | .ok true => M.modifyMe fun t => t.cut vl
  | .ok false =>
    M.modifyMe fun t => { t.cut vl with fmask := maskOf (bad.map (·.1)) }
    M.finish (leastFault n bad)

/-- An indexed store (07 R206, R209).  `act` checks an element and gives what it writes. -/
def indexedStore (stop : Bool) (sz n : Nat) (mask : Strand → Nat → Bool) (addr : Strand → Nat → Word)
    (act : Strand → Nat → M StoreElem) : M Unit := do
  let t ← M.me
  let (set, vl) ← M.rangeRule (addr t) sz (t.indexedSet n (mask t))
  let xs ← M.indexedElems stop (addr t) (act t) set
  let bad := badElems xs
  let note : SlotNote :=
    { addr := addr t, settled := some (t.estart, maskOf (bad.map (·.1))), indexed := true, fault := leastFault n bad }
  indexedFinish stop n (addr t) set bad vl (M.storeBatches (addr t (set.headD 0)) note (groupStreams (okElems xs)))

/-! ## The forms -/

/-- Bytes of an element (07 R205). -/
def elemBytes (e : Et) : Nat := e.bytes

/-- The address of unit-stride element `j`. -/
def unitAddr (a : Reg) (sz : Nat) (t : Strand) (j : Nat) : Word := t.readG a + BitVec.ofNat 64 (j * sz)

/-- The address of strided element `j`. -/
def stridedAddr (a s : Reg) (t : Strand) (j : Nat) : Word := t.readG a + t.readG s * BitVec.ofNat 64 j

/-- The address of indexed element `j`. -/
def indexedAddr (a x : Reg) (sz : Nat) (t : Strand) (j : Nat) : Word :=
  t.readG a + BitVec.ofNat 64 (velem (8 * sz) (t.readV x) j * sz)

/-- The address of field `i` of segment `j` (07 R206). -/
def segmentAddr (a : Reg) (sz fields : Nat) (t : Strand) (j i : Nat) : Word :=
  t.readG a + BitVec.ofNat 64 ((j * fields + i) * sz)

/-- The registers of a segment form (07 R206). -/
def segmentRegs (d : Reg) (f : BitVec 3) : List Reg := (List.range (f.toNat + 1)).map fun i => d + BitVec.ofNat 5 i

/-- The refusal of a stride that is not a multiple of the element size (07 R206). -/
def M.strideCheck (a s : Reg) (sz : Nat) : M Unit := do
  let t ← M.me
  if (t.readG s).toNat % sz ≠ 0 then M.trap (misalignExc (t.readG a))

/-- The routes of a single-field store element. -/
def storeElem (v : Reg) (sz : Nat) (addr : Strand → Nat → Word) (t : Strand) (j : Nat) : M StoreElem := do
  return { streams := [← M.fieldsRoute sz j [(addr t j, velem (8 * sz) (t.readV v) j)]] }

/-- The work of VLD. -/
def vldWork (d a : Reg) (k : MaskReg) (e : Et) (stop : Bool) : M Unit :=
  orderedLoad stop false (elemBytes e) [d] k e fun t j _ => unitAddr a (elemBytes e) t j
/-- The work of VLDS. -/
def vldsWork (d a s : Reg) (k : MaskReg) (e : Et) (stop : Bool) : M Unit := do
  M.strideCheck a s (elemBytes e)
  orderedLoad stop false (elemBytes e) [d] k e fun t j _ => stridedAddr a s t j
/-- The work of VLDX. -/
def vldxWork (d a x : Reg) (k : MaskReg) (e : Et) (stop : Bool) : M Unit :=
  indexedLoad stop (elemBytes e) d k e (indexedAddr a x (elemBytes e))
/-- The work of VLDSEG. -/
def vldsegWork (d a : Reg) (f : BitVec 3) (k : MaskReg) (e : Et) (stop : Bool) : M Unit :=
  orderedLoad stop false (elemBytes e) (segmentRegs d f) k e (segmentAddr a (elemBytes e) (f.toNat + 1))
/-- The work of VLDFF. -/
def vldffWork (d a : Reg) (k : MaskReg) (e : Et) (stop : Bool) : M Unit :=
  orderedLoad stop true (elemBytes e) [d] k e fun t j _ => unitAddr a (elemBytes e) t j
/-- The work of VST. -/
def vstWork (d a : Reg) (k : MaskReg) (e : Et) (stop : Bool) : M Unit :=
  let sz := elemBytes e
  orderedStore stop k e (unitAddr a sz) (storeElem d sz (unitAddr a sz))
/-- The work of VSTS. -/
def vstsWork (d a s : Reg) (k : MaskReg) (e : Et) (stop : Bool) : M Unit := do
  let sz := elemBytes e
  M.strideCheck a s sz
  orderedStore stop k e (stridedAddr a s) (storeElem d sz (stridedAddr a s))
/-- The work of VSTX. -/
def vstxWork (d a x : Reg) (k : MaskReg) (e : Et) (stop : Bool) : M Unit := do
  let sz := elemBytes e
  let n := (← M.me).elems e
  indexedStore stop sz n (fun t j => mbit (t.readM k) j) (indexedAddr a x sz) (storeElem d sz (indexedAddr a x sz))
/-- The work of VSTSEG. -/
def vstsegWork (d a : Reg) (f : BitVec 3) (k : MaskReg) (e : Et) (stop : Bool) : M Unit :=
  let sz := elemBytes e
  let fields := f.toNat + 1
  orderedStore stop k e (fun t j => segmentAddr a sz fields t j 0) fun t j => do
    return { streams := [← M.fieldsRoute sz j ((segmentRegs d f).zipIdx.map fun (r, i) =>
      (segmentAddr a sz fields t j i, velem (8 * sz) (t.readV r) j))] }

/-- The offset of an address in region `r`, from its VBASE (15 R382). -/
def State.twinOffset (s : State) (part r : Nat) (va : Word) : Nat :=
  (va - BitVec.ofNat 64 (s.verField part (regionOff r) 8)).toNat

/-- An address lies outside the plain layout of a twinned region with elements of `sz` bytes (15 R382). -/
def State.twinBad (s : State) (part r : Nat) (va : Word) (sz : Nat) : Bool :=
  let off := regionOff r
  let flags := s.verField part (off + 32) 1
  flags / 2 % 2 == 0 || decide (s.verField part (off + 8) 8 ≤ s.twinOffset part r va) || 2 ^ (flags / 4 % 8) != sz

/-- The address in the transposed layout of an element of a twinned region (15 R382). -/
def State.twinAddr (s : State) (part r : Nat) (va : Word) (sz : Nat) : Word :=
  let off := regionOff r
  let o := s.twinOffset part r va
  let cols := s.verField part (off + 28) 4
  let i := o / (cols * sz)
  let c := o / sz % cols
  BitVec.ofNat 64 (s.verField part off 8 + s.verField part (off + 8) 8 + (c * s.verField part (off + 24) 4 + i) * sz)

/-- The plain place of an element of a twin store, with its region: once its page has been found, the tests of codes 7 and 5 come before
every other check (15 R375, R382).  A strand of no partition has no table, and fails with code 8 (R374). -/
def M.twinPlace (a : Agent) (va : Word) (sz j : Nat) : M (Place × Nat) := do
  if va.toNat % sz ≠ 0 ∨ spaceOf va ≠ .global then
    discard (M.check a .store va sz true j)
    M.trap (accessExc va (j + 7 * 2 ^ 44))
  let x ← M.page a .store va j
  match pteRegion x.1 with
  | none => M.trap (accessExc va (j + 7 * 2 ^ 44))
  | some r =>
    match a.part with
    | none => M.trap (accessExc va (j + r * 2 ^ 32 + 8 * 2 ^ 44))
    | some p =>
      if (← get).twinBad p r va sz then M.trap (accessExc va (j + r * 2 ^ 32 + 5 * 2 ^ 44))
      return (← M.placeCheck a .store va sz true j (← M.pagePlace a .store va j x), r)

/-- One element of a twin store: the plain and the transposed write; where the second fails the first is performed (15 R382). -/
def M.twinElem (v a : Reg) (sz : Nat) (t : Strand) (j : Nat) : M StoreElem := do
  let va := unitAddr a sz t j
  let x := velem (8 * sz) (t.readV v) j
  let agent := (← get).myAgent
  let (p, r) ← M.twinPlace agent va sz j
  let s ← get
  match ← M.attempt (M.elemRoute (s.twinAddr (agent.part.getD 0) r va sz) sz j x) with
  | .ok r => return { streams := [[s.route p sz x], [r]] }
  | .error x' => return { streams := [[s.route p sz x], []], fault := some x' }

/-- The work of VPST (15 R382). -/
def vpstWork (d a : Reg) (k : MaskReg) (e : Et) (stop : Bool) : M Unit :=
  orderedStore stop k e (unitAddr a (elemBytes e)) (M.twinElem d a (elemBytes e))

/-- VLD (07 R206). -/
def execVld (d a : Reg) (k : MaskReg) (e : Et) (s : State) : Out :=
  vissue (wordOf (.vld d a k e)) [a] [] [d] (runM (M.timed (vldWork d a k e false))) s
/-- VLDS (07 R206). -/
def execVlds (d a x : Reg) (k : MaskReg) (e : Et) (s : State) : Out :=
  vissue (wordOf (.vlds d a x k e)) [a, x] [] [d] (runM (M.timed (vldsWork d a x k e false))) s
/-- VLDX (07 R206, R209). -/
def execVldx (d a x : Reg) (k : MaskReg) (e : Et) (s : State) : Out :=
  vissue (wordOf (.vldx d a x k e)) [a] [] [d, x] (runM (M.timed (vldxWork d a x k e false))) s
/-- VLDSEG (07 R206). -/
def execVldseg (d a : Reg) (f : BitVec 3) (k : MaskReg) (e : Et) (s : State) : Out :=
  vissue (wordOf (.vldseg d a f k e)) [a] [] (segmentRegs d f) (runM (M.timed (vldsegWork d a f k e false))) s
/-- VLDFF (07 R206, R208). -/
def execVldff (d a : Reg) (k : MaskReg) (e : Et) (s : State) : Out :=
  vissue (wordOf (.vldff d a k e)) [a] [] [d] (runM (M.timed (vldffWork d a k e false))) s
/-- VST (07 R206). -/
def execVst (d a : Reg) (k : MaskReg) (e : Et) (s : State) : Out :=
  vissue (wordOf (.vst d a k e)) [a] [] [d] (runM (M.timed (vstWork d a k e false))) s
/-- VSTS (07 R206). -/
def execVsts (d a x : Reg) (k : MaskReg) (e : Et) (s : State) : Out :=
  vissue (wordOf (.vsts d a x k e)) [a, x] [] [d] (runM (M.timed (vstsWork d a x k e false))) s
/-- VSTX (07 R206, R209). -/
def execVstx (d a x : Reg) (k : MaskReg) (e : Et) (s : State) : Out :=
  vissue (wordOf (.vstx d a x k e)) [a] [] [d, x] (runM (M.timed (vstxWork d a x k e false))) s
/-- VSTSEG (07 R206). -/
def execVstseg (d a : Reg) (f : BitVec 3) (k : MaskReg) (e : Et) (s : State) : Out :=
  vissue (wordOf (.vstseg d a f k e)) [a] [] (segmentRegs d f) (runM (M.timed (vstsegWork d a f k e false))) s
/-- VPST (15 R382). -/
def execVpst (d a : Reg) (k : MaskReg) (e : Et) (s : State) : Out :=
  vissue (wordOf (.vpst d a k e)) [a] [] [d] (runM (M.timed (vpstWork d a k e false))) s

end Sys2Proof.Machine
end

