-- ==== Sys2Proof/Machine/Amo.lean ====
section
/-!
DEFINITION. Machine/Amo.lean: atomic operations and reductions at memory (11 R301 to R304).
-/

namespace Sys2Proof.Machine

/-- A release waits for the strand's earlier messages to be performed (10 R270, R272). -/
def M.releaseWait : M Unit := do
  let s ← get
  if s.me.usc ≠ 0 || s.anyBusy s.cur then M.wait

/-- An acquire waits for the strand's earlier loads and AMOs in flight (10 R270, R272). -/
def M.acquireWait : M Unit := do
  let s ← get
  if s.readBusy s.cur then M.wait

/-- An AMO performed as it issues, whose value is on its way to g[d]. -/
def M.amoHere (op : MemOp) (w : AmoWidth) (key : Nat) (va y expected : Word) (d : Reg) : M Unit := do
  let (s, old, bad) := (← get).performOp op w key y expected
  set s
  M.modifyMe fun t => t.setMark d (.landing .load old (if bad then some va else none))
  M.done

/-- An AMO (11 R302).  At memory of G-space, and at the core's own slice, it is performed as it issues; at another core's
slice it travels as a message.  Where it acquires, the strand waits for its value. -/
def amo (op : MemOp) (d a b : Reg) (r q : Bool) (w : AmoWidth) : State → Out :=
  issue (if op = .cas then [a, b, d] else [a, b]) [d] (runM do
    let t ← M.me
    let va := t.readG a
    let sz := amoSize w
    let p ← M.check (← get).myAgent .amo va sz false 0
    if r then M.releaseWait
    if q then M.acquireWait
    let s ← get
    let order := (if q then 1 else 0) + if r then 2 else 0
    match p with
    | .carve c off =>
      let key := scratchKey c off
      if c = s.myCoreNo then
        if s.pairBusy c c then M.wait
        M.fencePast
        M.amoHere op w key va (t.readG b) (t.readG d) d
      else
        M.send (some c) c (.amo op w order key va (t.readG b) (t.readG d) d) false
        if q then M.modifyMe fun t => { t with cond := .acquire d }
        else
          M.modifyMe fun t => t.setMark d (.waiting .load)
          M.done
    | .mem key _ _ _ =>
      if s.inFlight s.cur key sz then M.wait
      M.fencePast
      M.exchange key 2 2
      modify fun s => s.rimUse (key / 64) (some .ordinary)
      M.amoHere op w key va (t.readG b) (t.readG d) d
    | .window _ => M.trap (accessExc va 0))

/-- AMOSWAP (11 R302). -/
def execAmoswap (d a b : Reg) (_ : Scope) (r q : Bool) (w : AmoWidth) (s : State) : Out := amo .swap d a b r q w s
/-- AMOADD (11 R302). -/
def execAmoadd (d a b : Reg) (_ : Scope) (r q : Bool) (w : AmoWidth) (s : State) : Out := amo .add d a b r q w s
/-- AMOAND (11 R302). -/
def execAmoand (d a b : Reg) (_ : Scope) (r q : Bool) (w : AmoWidth) (s : State) : Out := amo .and d a b r q w s
/-- AMOOR (11 R302). -/
def execAmoor (d a b : Reg) (_ : Scope) (r q : Bool) (w : AmoWidth) (s : State) : Out := amo .or d a b r q w s
/-- AMOXOR (11 R302). -/
def execAmoxor (d a b : Reg) (_ : Scope) (r q : Bool) (w : AmoWidth) (s : State) : Out := amo .xor d a b r q w s
/-- AMOMIN (11 R302). -/
def execAmomin (d a b : Reg) (_ : Scope) (r q : Bool) (w : AmoWidth) (s : State) : Out := amo .min d a b r q w s
/-- AMOMAX (11 R302). -/
def execAmomax (d a b : Reg) (_ : Scope) (r q : Bool) (w : AmoWidth) (s : State) : Out := amo .max d a b r q w s
/-- AMOCAS (11 R302). -/
def execAmocas (d a b : Reg) (_ : Scope) (r q : Bool) (w : AmoWidth) (s : State) : Out := amo .cas d a b r q w s
/-- AMOFADD (11 R302). -/
def execAmofadd (d a b : Reg) (_ : Scope) (r q : Bool) (w : AmoWidth) (s : State) : Out := amo .fadd d a b r q w s

/-- Sends one RED, slotted where it must be (11 R303, 14 R367).  Says whether the strand stalls for its slot. -/
def M.sendRed (va : Word) (p : Place) (op : MemOp) (w : AmoWidth) (value : Word) (r : Bool) : M Bool := do
  let s ← get
  M.roomInUsc 1
  match p with
  | .carve c off =>
    let body := MsgBody.red op w (scratchKey c off) value
    if c ≠ s.myCoreNo && s.slottedNow then
      M.slotCheck va
      M.slotted (some c) body [(0, va)] none false none r
      return true
    else
      M.send (some c) c body true r
      return false
  | .mem key _ _ _ =>
    M.send none (destOfKey key) (.red op w key value) true r
    return false
  | .window _ => M.trap (accessExc va 0)

/-- A RED: it retires at issue and is counted in USC (11 R303).  Its release bit makes it wait at its home (10 R272). -/
def red (op : MemOp) (a b : Reg) (r : Bool) (w : AmoWidth) : State → Out :=
  issue [a, b] [] (runM do
    let t ← M.me
    let va := t.readG a
    let p ← M.check (← get).myAgent .red va (amoSize w) false 0
    let value : Word := BitVec.ofNat 64 ((t.readG b).toNat % 2 ^ (8 * amoSize w))
    if !(← M.sendRed va p op w value r) then M.done)

/-- REDADD (11 R303). -/
def execRedadd (a b : Reg) (_ : Scope) (r : Bool) (w : AmoWidth) (s : State) : Out := red .add a b r w s
/-- REDMIN (11 R303). -/
def execRedmin (a b : Reg) (_ : Scope) (r : Bool) (w : AmoWidth) (s : State) : Out := red .min a b r w s
/-- REDMAX (11 R303). -/
def execRedmax (a b : Reg) (_ : Scope) (r : Bool) (w : AmoWidth) (s : State) : Out := red .max a b r w s
/-- REDFADD (11 R303). -/
def execRedfadd (a b : Reg) (_ : Scope) (r : Bool) (w : AmoWidth) (s : State) : Out := red .fadd a b r w s
/-- REDFMAX (11 R303). -/
def execRedfmax (a b : Reg) (_ : Scope) (r : Bool) (w : AmoWidth) (s : State) : Out := red .fmax a b r w s

/-- The element width and operation of a VREDM type (11 R304). -/
def redTypeOf : RedType → AmoWidth × MemOp
  | .b32 => (.w32, .add)
  | .b64 => (.w64, .add)
  | .f32 => (.w32, .fadd)
  | .f64 => (.w64, .fadd)

/-- An element of a VREDM that passed its checks: the home, the destination number, the location and the value. -/
structure RedElem where
  home  : Option Nat
  dest  : Nat
  key   : Nat
  value : Word
  deriving DecidableEq, Repr

/-- A VREDM element's checks (11 R304). -/
def M.redElem (w : AmoWidth) (addr : Nat → Word) (v : Reg) (t : Strand) (j : Nat) : M RedElem := do
  let sz := amoSize w
  let p ← M.check (← get).myAgent .red (addr j) sz true j
  let value : Word := BitVec.ofNat 64 (velem (8 * sz) (t.readV v) j)
  match p with
  | .carve c off => return { home := some c, dest := c, key := scratchKey c off, value }
  | .mem key _ _ _ => return { home := none, dest := destOfKey key, key, value }
  | .window _ => M.trap (accessExc (addr j) j)

/-- A message of a VREDM: its elements in ascending order (07 R203). -/
structure RedBatch where
  home  : Option Nat
  dest  : Nat
  items : List (Nat × Nat × Word)
  deriving DecidableEq, Repr

/-- The message's body. -/
def RedBatch.body (b : RedBatch) (op : MemOp) (w : AmoWidth) : MsgBody := .reds op w (b.items.map (·.2))

/-- An element joins the latest message where it is bound for the same home and fits in 2 KiB, or begins the next; the latest stands
first (07 R203). -/
def addRedElem (sz : Nat) (bs : List RedBatch) (x : Nat × RedElem) : List RedBatch :=
  let (j, e) := x
  match bs with
  | b :: more =>
    if b.home = e.home ∧ b.dest = e.dest ∧ (b.items.length + 1) * sz ≤ 2048 then
      { b with items := b.items ++ [(j, e.key, e.value)] } :: more
    else { home := e.home, dest := e.dest, items := [(j, e.key, e.value)] } :: bs
  | [] => [{ home := e.home, dest := e.dest, items := [(j, e.key, e.value)] }]

/-- The messages of a VREDM: runs of elements bound for one home that fit in 2 KiB, in ascending order (11 R304, 07 R203). -/
def groupReds (sz : Nat) (xs : List (Nat × RedElem)) : List RedBatch := (xs.foldl (addRedElem sz) []).reverse

/-- One message of a slotted VREDM: one for another core's scratchpad waits for its slot, and any other is sent, and noted with its
serial number (14 R367). -/
def M.slotReds (op : MemOp) (w : AmoWidth) (r : Bool) (x : SlotNote) (b : RedBatch) : M Unit := do
  let s ← get
  let body := b.body op w
  let elems := b.items.map fun i => (i.1, x.addr i.1)
  if b.home.any (· != s.myCoreNo) then M.slotted b.home body elems x.settled x.indexed x.fault r
  else
    M.send b.home b.dest body true r
    M.note { slot := s.mySlotNo, msg := { sender := s.senderOf s.cur, home := b.home, dest := b.dest, body }, elems,
             serial := some s.sent, settled := x.settled, indexed := x.indexed, fault := x.fault.map fun e => (e.code, e.addr, e.info) }

/-- Sends the messages of a VREDM; says whether the strand stalls for slots. -/
def M.sendReds (op : MemOp) (w : AmoWidth) (r : Bool) (first : Word) (x : SlotNote) (bs : List RedBatch) : M Bool := do
  let s ← get
  let slot := s.slottedNow && bs.any fun b => b.home.any (· != s.myCoreNo)
  if slot then M.slotCheck first
  match bs with
  | [] => pure ()
  | b :: more => if 1024 < s.me.usc + 1 + more.length then M.waitFor ((b.items.headD (0, 0, 0)).2.1)
  if slot then bs.forM (M.slotReds op w r x)
  else bs.forM fun b => M.send b.home b.dest (b.body op w) true r
  return slot

/-- The work of VREDM: a RED for every element whose index is not all ones (11 R304). -/
def vredmWork (d a b : Reg) (r : Bool) (ty : RedType) (stop : Bool) : M Unit := do
  let t ← M.me
  let (w, op) := redTypeOf ty
  let sz := amoSize w
  let n := t.elemsAt (8 * sz)
  let addr : Nat → Word := fun j => t.readG a + BitVec.ofNat 64 (velem (8 * sz) (t.readV b) j * sz)
  let live := fun j => velem (8 * sz) (t.readV b) j != 2 ^ (8 * sz) - 1
  let (set, vl) ← M.rangeRule addr sz (t.indexedSet n live)
  let xs ← M.indexedElems stop addr (M.redElem w addr d t) set
  let bad := badElems xs
  let note : SlotNote :=
    { addr, settled := some (t.estart, maskOf (bad.map (·.1))), indexed := true, fault := leastFault n bad }
  indexedFinish stop n addr set bad vl (M.sendReds op w r (addr (set.headD 0)) note (groupReds sz (okElems xs)))

/-- The word of a VREDM (02 R43). -/
def vredmWord (d a b : Reg) (s : Scope) (r : Bool) (t : RedType) : IWord :=
  BitField.join 6 26 0x2D (RrAmo.pack ⟨d, a, b, s.code, BitVec.ofBool r, 0, t.code, 5⟩)

/-- VREDM (11 R304). -/
def execVredm (d a b : Reg) (sc : Scope) (r : Bool) (t : RedType) (s : State) : Out :=
  vissue (vredmWord d a b sc r t) [a] [] [d, b] (runM (M.timed (vredmWork d a b r t false))) s

end Sys2Proof.Machine
end

