-- ==== Sys2Proof/Machine/Bulk.lean ====
section
/-!
DEFINITION. Machine/Bulk.lean: accesses of many bytes that engines make beside the strands: tile spills and fills (06 R169), the
mill's commands (06 R194) and the copy queues (09 R241, R254).
-/

namespace Sys2Proof.Machine

/-- Issue of an instruction of a compute core's units: refused on a chiplet core (01 R17). -/
def unitIssue (w : IWord) (reads writes : List Reg) (k : State → Out) (s : State) : Out :=
  if isChiplet s.myCoreNo then raise (illegalExc w 5) s else issue reads writes k s

/-- The parts of `n` bytes from an address that lie within one aligned block of `blk` bytes each; `fuel` bounds their
number. -/
def blocksOf (blk : Nat) : Nat → Word → Nat → List (Word × Nat)
  | 0, _, _ => []
  | fuel + 1, va, n =>
    if n = 0 then []
    else
      let k := min n (blk - va.toNat % blk)
      (va, k) :: blocksOf blk fuel (va + BitVec.ofNat 64 k) (n - k)

/-- The parts of `n` bytes that lie within one page each. -/
def pagesOf (va : Word) (n : Nat) : List (Word × Nat) := blocksOf 4096 (n / 4096 + 2) va n

/-- The parts of `n` bytes that lie within one 2 KiB block each (09 R254, 18 R406). -/
def chunksOf (va : Word) (n : Nat) : List (Word × Nat) := blocksOf 2048 (n / 2048 + 2) va n

/-- The bytes before and after the `n` bytes from a location that complete their elements on a lossy page (03 R78). -/
def lossyEdges (lossy key n : Nat) : Nat × Nat :=
  let sz := lossySize lossy
  (key % sz, (sz - (key + n) % sz) % sz)

/-- The place of a part, which lies within one page.  S-space is refused; so are addresses that are never valid, with
ACCESS where `never` says so (09 R254), and a write of part of an element of a lossy page, unless the same copy also writes the
bytes that complete it (03 R78, 09 R248). -/
def M.bulkPlace (a : Agent) (k : Acc) (va : Word) (n : Nat) (never : Bool) (extra : Nat)
    (covers : Word → Bool := fun _ => false) : M Place := do
  match spaceOf va with
  | .scratch =>
    if (← get).carveFor a (localCore va) < localOff va + n then
      M.trap { code := 0x07, addr := va, info := BitVec.ofNat 64 extra }
    return .carve (localCore va) (localOff va)
  | .global =>
    let p ← M.translate a k va extra
    match p with
    | .mem key lossy _ _ =>
      let (lo, hi) := lossyEdges lossy key n
      let rest := ((List.range lo).map fun i => va - BitVec.ofNat 64 (i + 1)) ++
        (List.range hi).map fun i => va + BitVec.ofNat 64 (n + i)
      if k == .store && !rest.all covers then M.trap (accessExc va extra)
      return p
    | _ => return p
  | sp =>
    if never || sp = .sync then M.trap (accessExc va extra)
    M.translate a k va extra

/-- The first poisoned byte of a range, as an offset. -/
def State.firstPoison (s : State) (key n : Nat) : Option Nat :=
  ((s.poisoned.filter fun p => decide (key ≤ p) && decide (p < key + n)).map (· - key)).min?

/-- The bytes at a location as a load from a lossy page returns them (03 R78). -/
def State.lossyBytes (s : State) (lossy key n : Nat) : List Byte :=
  if lossy = 0 then s.bytesAt key n
  else (List.range n).map fun i =>
    if (key + i) % lossySize lossy < lossySize lossy / 2 then 0 else s.byteAt (key + i)

/-- The messages of up to 2 KiB that move `n` bytes. -/
def bulkMessages (n : Nat) : Nat := (n + 2047) / 2048

/-- The sizes of the messages that move `n` bytes. -/
def bulkSizes (n : Nat) : List Nat := (List.range (bulkMessages n)).map fun i => min 2048 (n - 2048 * i)

/-- An engine's read of `n` bytes at a home: its requests, whose answers are bulk data (09 R241, 14 R359, R364). -/
def State.askBulk (s : State) (a : Agent) (dest n : Nat) : State :=
  (bulkSizes n).foldl (fun s k => s.postTraffic (a.request dest 1 (flitsOf k) (bulk := true))) s

/-- An engine's write of `n` bytes that is performed at once: the bulk messages that carry it (14 R359, R364). -/
def State.giveBulk (s : State) (a : Agent) (dest n : Nat) : State :=
  (bulkSizes n).foldl (fun s k => s.postTraffic (trafficMsg a.core dest a.prio a.payer (flitsOf k) 0 3 0)) s

/-- An engine goes on where nothing charged as it is waits at its core's port, and the bucket there is above 0 (14 R364). -/
def State.portOpen (s : State) (a : Agent) : Bool :=
  s.mayInject a.core a.payer && !s.packets.any fun x => x.atPort && x.source == a.core && a.payer.isSome && x.charged == a.payer

/-- The same of the present state: otherwise the engine waits. -/
def M.portOpen (a : Agent) : M Unit := do
  if !(← get).portOpen a then M.wait

/-- The bytes at a place, read for an engine at core `a.core`: its requests go out (09 R241, 14 R364), and its lines are used at their rim banks (08 R224).  A read of a carve stands behind the core's messages to it (10 R267); one where no
context of the partition is resident holds the read (10 R277); a byte out of range at its home fails (07 R199), and so does a
poisoned one. -/
def M.bulkRead (a : Agent) (p : Place) (va : Word) (n : Nat) : M (List Byte) := do
  let s ← get
  let finish : Nat → List Byte → M (List Byte) := fun key bs =>
    match s.firstPoison key n with
    | some i => M.trap { code := 0x15, addr := va + BitVec.ofNat 64 i }
    | none => pure bs
  match p with
  | .mem key lossy how _ =>
    modify fun s => (s.askBulk a (destOfKey key) n).useLines how key n
    finish key (s.lossyBytes lossy key n)
  | .carve c off =>
    let key := scratchKey c off
    if s.pairBusy a.core c then M.wait
    if !(isChiplet a.core || a.part.isNone) then
      if !s.isHome c a.part then M.wait
      if !s.carveHas c key n then M.trap { code := 0x07, addr := va }
    if c ≠ a.core then modify fun s => s.askBulk a c n
    finish key (s.bytesAt key n)
  | .window _ => M.trap (accessExc va 0)

/-- `n` bytes from an address, read part by part. -/
def M.readBytes (a : Agent) (never : Bool) : List (Word × Nat) → M (List Byte)
  | [] => pure []
  | (va, n) :: rest => do
    let p ← M.bulkPlace a .load va n never 0
    let bs ← M.bulkRead a p va n
    return bs ++ (← M.readBytes a never rest)

/-! ## Prefetches -/

/-- Where a prefetch of a byte goes: it looks the address up as a load does, but sets no bit of a table and caches no translation; there
is none where a load would fail (08 R234, log entry 38). -/
def State.prefPlace (s : State) (a : Agent) (va : Word) : State × Option (Nat × Caching) :=
  if spaceOf va ≠ .global then (s, none)
  else
    let walked := fun (t : State) =>
      { s with lags := t.lags, fresh := t.fresh, sent := t.sent, traffic := t.traffic, cores := t.cores, rim := t.rim,
               rimUses := t.rimUses }
    match (M.translate a .load va 0).run.run s with
    | (.ok (.mem key _ how _), t) => (walked t, some (key, how))
    | (_, t) => (walked t, none)

/-- A prefetch of a line, with its request and its response (08 R234, 14 R364); 08 R231 names no prefetch among the accesses that carry
a tag. -/
def State.prefOne (s : State) (a : Agent) (how : Caching) (sole : Bool) (level : PrefLevel) (line : Nat) : State :=
  let back := if level = .rim then 1 else flitsOf 64
  let s := if level ≠ .rim ∧ s.lineNear a.core line how.nc then s
    else s.postTraffic (a.request (destOfKey (line * 64)) 1 back)
  s.prefLine a.core line how.nc sole level .ordinary

/-- A prefetch of `n` bytes, page by page, which stops at the first page that a load could not read; `fuel` bounds the number of
pages.  It answers whether it came to its end (08 R234). -/
def State.prefRange (s : State) (a : Agent) (sole : Bool) (level : PrefLevel) : Nat → Word → Nat → State × Bool
  | 0, _, _ => (s, true)
  | fuel + 1, va, n =>
    if n = 0 then (s, true)
    else
      let k := min n (4096 - va.toNat % 4096)
      match s.prefPlace a va with
      | (s, none) => (s, false)
      | (s, some (key, how)) =>
        ((linesOf key k).foldl (fun s line => s.prefOne a how sole level line) s).prefRange a sole level fuel
          (va + BitVec.ofNat 64 k) (n - k)

/-! ## Writes -/

/-- The bytes that a write to a place stores, each at its location: rounded on a lossy page (03 R78), together with the bytes `lo`
before them and `hi` after them that complete their elements. -/
def Place.cells (p : Place) (bs : List Byte) (lo hi : List Byte := []) : List (Nat × Byte) :=
  match p with
  | .mem key lossy _ _ =>
    let whole := lo ++ bs ++ hi
    let bs := if lossy = 0 then bs
      else ((bytesOf whole.length (lossyWrite lossy whole.length (natOfBytes whole))).drop lo.length).take bs.length
    bs.zipIdx.map fun (b, i) => (key + i, b)
  | .carve c off => bs.zipIdx.map fun (b, i) => (scratchKey c off + i, b)
  | .window _ => []

/-- The home of a write and its destination number. -/
def Place.dest (p : Place) : Option Nat × Nat :=
  match p with
  | .mem key _ _ _ => (none, destOfKey key)
  | .carve c _ => (some c, c)
  | .window _ => (none, 0)

/-- The retention tag of a write to a place (08 R231). -/
def State.tagOfPlace (s : State) (p : Place) : RimMark :=
  match p with
  | .mem _ _ how _ => s.tagOfCells how
  | _ => .ordinary

/-- Sends a message of an engine, in the mode of its agent: its serial number (14 R359). -/
def M.sendFor (a : Agent) (sender : Sender) (prio : Nat) (home : Option Nat) (dest : Nat) (tag : RimMark) (body : MsgBody) : M Nat := do
  let s ← get
  set (s.post { sender := { sender with engine := true }, home, dest, body, user := a.mode == .user, prio, bulk := true, tag })
  return s.sent

/-- Writes bytes for an engine as messages, one for each 2 KiB block, all of which have passed their checks: their serial
numbers. -/
def M.sendBytes (a : Agent) (sender : Sender) (prio : Nat) : List (Place × List Byte) → M (List Nat)
  | [] => pure []
  | (p, bs) :: rest => do
    let n ← M.sendFor a sender prio p.dest.1 p.dest.2 ((← get).tagOfPlace p) (.store (p.cells bs))
    return n :: (← M.sendBytes a sender prio rest)

/-- The places of the parts of a write, with their bytes, after the checks of all of them. -/
def M.blockPlaces (a : Agent) (never : Bool) (bs : List Byte) (off : Nat) : List (Word × Nat) → M (List (Place × List Byte))
  | [] => pure []
  | (va, n) :: rest => do
    let p ← M.bulkPlace a .store va n never 0
    return (p, (bs.drop off).take n) :: (← M.blockPlaces a never bs (off + n) rest)

/-- A write of bytes for an engine: its checks, and its messages. -/
def M.bulkSend (a : Agent) (sender : Sender) (prio : Nat) (va : Word) (bs : List Byte) : M (List Nat) := do
  let ps ← M.blockPlaces a false bs 0 (chunksOf va bs.length)
  M.sendBytes a sender prio ps

/-- Reads and writes performed at once wait behind the core's own messages to the same bytes (10 R265). -/
def M.clearBytes (core key n : Nat) : M Unit := do
  if (← get).net.any fun m => m.sender.core == core && m.touches key n then M.wait

/-- A part of a write performed at once at its home, with the messages that carry it (14 R364). -/
def M.putNow (a : Agent) (p : Place) (bs : List Byte) : M Unit := do
  match p with
  | .mem key _ how _ =>
    M.clearBytes a.core key bs.length
    modify fun s => (s.giveBulk a (destOfKey key) bs.length).useLines how key bs.length
  | _ => pure ()
  modify fun s => s.writeCells (p.cells bs)

/-- Writes bytes at once, after the checks of every page (06 R166). -/
def M.writeBytesNow (a : Agent) (va : Word) (bs : List Byte) : M Unit := do
  let ps ← M.blockPlaces a false bs 0 (pagesOf va bs.length)
  ps.forM fun (p, bs) => M.putNow a p bs

end Sys2Proof.Machine
end

