-- ==== Sys2Proof/Machine/Tile.lean ====
section
/-!
DEFINITION. Machine/Tile.lean: the tile file, its owner and save areas, and the tile instructions (06 R162 to R173).
-/

namespace Sys2Proof.Machine

/-! ## Save areas -/

/-- Tile `i` of a file. -/
def TileFile.tile (t : TileFile) (i : Nat) : TWord := Tab.get 0 t.tiles i

/-- The bit of tile `i` in ABSENT and DIRTY. -/
def tileBit (i : Nat) : BitVec 8 := BitVec.ofNat 8 (2 ^ i)

/-- TILE_SAVE: the slot whose area failed, 1 for a fill, the tile and the underlying cause (06 R166). -/
def tileSaveExc (slot : Nat) (fill : Bool) (i : Nat) (e : Exc) : Exc :=
  { code := 0x0A, addr := e.addr,
    info := BitVec.ofNat 64 (slot % 4 + (if fill then 4 else 0) + i % 8 * 8 + e.code * 256) }

/-- The address of tile `i` in a save area (06 R162). -/
def tileAddr (area : Word) (i : Nat) : Word := (area &&& ~~~0xFFF) + BitVec.ofNat 64 (16384 * i)

/-- The refusal of a save area that does not exist or does not lie in G-space (06 R166). -/
def M.areaCheck (area : Word) (i : Nat) : M Unit := do
  let sp := spaceOf (area &&& ~~~0xFFF)
  if !bitAt area 0 || sp == .sync || sp == .scratch then M.trap (accessExc (tileAddr area i) 0)

/-- `n` bytes of tile `i` from byte `off`, read from its save area (06 R165, R167). -/
def M.areaRead (a : Agent) (area : Word) (i off n : Nat) : M (List Byte) := do
  M.areaCheck area i
  let va := tileAddr area i + BitVec.ofNat 64 off
  let ps ← (pagesOf va n).mapM fun (va, n) => do
    let p ← M.bulkPlace { a with plain := true } .load va n false 0
    match p with
    | .mem key _ _ _ => M.clearBytes a.core key n
    | _ => pure ()
    M.bulkRead a p va n
  return ps.flatten

/-- Bytes of tile `i` from byte `off`, written to its save area (06 R165, R167). -/
def M.areaWrite (a : Agent) (area : Word) (i off : Nat) (bs : List Byte) : M Unit := do
  M.areaCheck area i
  M.writeBytesNow { a with plain := true } (tileAddr area i + BitVec.ofNat 64 off) bs

/-- A failure within a save area reported as TILE_SAVE (06 R166). -/
def M.asTileSave {α : Type} (slot : Nat) (fill : Bool) (i : Nat) (m : M α) : M α := do
  match ← M.attempt m with
  | .ok x => return x
  | .error e => M.trap (tileSaveExc slot fill i e)

/-! ## The owner -/

/-- A CID is that of the core's context. -/
def Core.holds (c : Core) (cid : Nat) : Bool := bitsNat c.csrs.cidtag 15 0 == cid

/-- The save area and PTBASE of the file's owner: its slot's own while its context is at the core, and those kept with the
file after it has departed (06 R164, R165). -/
def Core.ownerArea (c : Core) : Word × Word :=
  let t := c.tiles
  if c.holds t.cid then ((c.slots[t.slot % 4]'(Nat.mod_lt _ (by decide))).tsavea, c.csrs.ptbase)
  else (t.area, t.ptbase)

/-- The owner's agent for its spills: its permissions are those of the mode in which it claimed the file (06 R165, log entry 28). -/
def Core.ownerAgent (c : Core) (core : Nat) : Agent :=
  { core, part := c.tiles.part, cid := c.tiles.cid, mode := c.tiles.mode, ptbase := c.ownerArea.2, adopted := none }

/-- The strand in a slot owns its core's file: the file is the pair's of its CID and slot (06 R162). -/
def State.ownsFile (s : State) (core slot : Nat) : Bool :=
  let c := s.coreAt core
  c.tiles.valid && c.tiles.slot == slot && c.holds c.tiles.cid

/-- Changes the tile file of a core. -/
def M.modifyTiles (core : Nat) (f : TileFile → TileFile) : M Unit :=
  modify fun s => s.setCore core { s.coreAt core with tiles := f (s.coreAt core).tiles }

/-- The bytes of a tile. -/
def tileBytes (x : TWord) : List Byte := bytesOf 16384 x.toNat

/-- The tile whose bytes these are. -/
def tileOf (bs : List Byte) : TWord := BitVec.ofNat 131072 (natOfBytes bs)

/-- Spills some of the owner's tiles, each losing its DIRTY bit once it is written (06 R165, R166). -/
def M.spill (core : Nat) : List Nat → M Unit
  | [] => pure ()
  | i :: is => do
    let c := (← get).coreAt core
    if c.tiles.dirty.getLsbD i then
      M.asTileSave c.tiles.slot false i
        (M.areaWrite (c.ownerAgent core) c.ownerArea.1 i 0 (tileBytes (c.tiles.tile i)))
      M.modifyTiles core fun t => { t with dirty := t.dirty &&& ~~~(tileBit i) }
    M.spill core is

/-- The numbers of the tiles. -/
def tileNos : List Nat := List.range 8

/-- TSAVEA of a slot. -/
def State.tsaveaOf (s : State) (core slot : Nat) : Word :=
  ((s.coreAt core).slots[slot % 4]'(Nat.mod_lt _ (by decide))).tsavea

/-- The claim of the file for the strand that moves (06 R165). -/
def M.claim : M Unit := do
  let s ← get
  let core := s.myCoreNo
  if !s.ownsFile core s.mySlotNo then
    if s.myCore.tiles.valid then M.spill core tileNos
    let a := s.myAgent
    M.modifyTiles core fun _ =>
      { valid := true, cid := a.cid, slot := s.mySlotNo, part := a.part, mode := a.mode, absent := 0xFF, ptbase := a.ptbase,
        area := s.tsaveaOf core s.mySlotNo }

/-- Fills tile `i` of a file that the strand owns, where it is absent (06 R165, R166). -/
def M.fillTile (a : Agent) (slot i : Nat) : M Unit := do
  let s ← get
  if (s.coreAt a.core).tiles.absent.getLsbD i then
    let bs ← M.areaRead a (s.tsaveaOf a.core slot) i 0 16384
    M.modifyTiles a.core fun t =>
      { t with absent := t.absent &&& ~~~(tileBit i), tiles := Tab.set t.tiles i (tileOf bs) }

/-- Tile `i` of the strand that moves, claimed and filled. -/
def M.readTile (i : Nat) : M TWord := do
  M.claim
  let s ← get
  M.asTileSave s.mySlotNo true i (M.fillTile s.myAgent s.mySlotNo i)
  return (← get).myCore.tiles.tile i

/-- Writes tile `i` of a file that its core's owner holds; it is dirty and no longer absent (06 R165). -/
def M.putTile (core i : Nat) (x : TWord) : M Unit :=
  M.modifyTiles core fun t =>
    { t with absent := t.absent &&& ~~~(tileBit i), dirty := t.dirty ||| tileBit i, tiles := Tab.set t.tiles i x }

/-! ## Order with the mill -/

/-- The tiles that a plant from tiles reads (06 R184). -/
def PlantArgs.tilesRead (p : PlantArgs) : List Nat :=
  if p.tile then (List.range ((p.kv + 15) / 16)).map fun i => (p.src.toNat + i) % 8 else []

/-- The tile that a command reads (06 R168). -/
def MillOp.reads (op : MillOp) (i : Nat) : Bool :=
  match op with
  | .plant p => p.tilesRead.contains i
  | .mma _ t _ _ _ _ _ => t == i
  | _ => false

/-- The tile that a command writes (06 R168). -/
def MillOp.writes (op : MillOp) (i : Nat) : Bool :=
  match op with
  | .drainTile t _ _ _ _ _ _ => t == i
  | _ => false

/-- An instruction or mill command waits at its issue for the strand's earlier commands that write the tile, and where it writes the
tile for those that read it (06 R168). -/
def M.tileOrder (i : Nat) (write : Bool) : M Unit := do
  let s ← get
  let mine := fun (c : MillCmd) => c.slot == s.mySlotNo && c.part.isNone == (s.me.kind == .supervisor)
  if s.myCore.q3.any fun c => mine c && (c.op.writes i || (write && c.op.reads i)) then M.wait

/-! ## The instructions -/

/-- Row `r` of a tile. -/
def tileRow (x : TWord) (r : Nat) : VWord := BitVec.ofNat 8192 (x.toNat >>> (8192 * r))

/-- The tile with row `r` replaced. -/
def setTileRow (x : TWord) (r : Nat) (v : VWord) : TWord :=
  (x &&& ~~~(BitVec.ofNat 131072 ((2 ^ 8192 - 1) <<< (8192 * r)))) ||| BitVec.ofNat 131072 (v.toNat <<< (8192 * r))

/-- The word of a TILE or MILL form (02 R35). -/
def tmWord (major : BitVec 6) (d a b : Reg) (m : BitVec 7) (f : BitVec 4) : IWord := rrWord major d a b m f

/-- TZERO (06 R170). -/
def execTzero (d : TileReg) (s : State) : Out :=
  vissue (tmWord 0x2A (d.setWidth 5) 0 0 0 0) [] [] [] (runM do
    M.tileOrder d.toNat true
    M.claim
    M.putTile (← get).myCoreNo d.toNat 0
    M.done) s

/-- The address of row `r` (06 R171). -/
def rowAddr (base stride : Word) (r : Nat) : Word := base + stride * BitVec.ofNat 64 r

/-- A part of row `j` of TLD or TST, checked (06 R171). -/
def M.rowPlace (k : Acc) (va : Word) (n j : Nat) : M Place := do
  M.bulkPlace (← get).myAgent k va n false j

/-- Row `j`, loaded (06 R171). -/
def M.rowLoad (base stride : Word) (j : Nat) : M VWord := do
  let parts ← (pagesOf (rowAddr base stride j) 1024).mapM fun (va, n) => do
    let p ← M.rowPlace .load va n j
    match p with
    | .window _ => M.trap (accessExc va j)
    | _ => pure ()
    let (x, bad) ← M.read p n
    if bad then M.trap { code := 0x15, addr := va, info := BitVec.ofNat 64 j }
    return bytesOf n x
  return BitVec.ofNat 8192 (natOfBytes parts.flatten)

/-- Rows `j` onward, loaded until one fails (06 R171). -/
def M.rowsLoad (base stride : Word) : Nat → Nat → M (List VWord × Option Exc)
  | 0, _ => pure ([], none)
  | n + 1, j => do
    match ← M.attempt (M.rowLoad base stride j) with
    | .error e => return ([], some e)
    | .ok v =>
      let (vs, f) ← M.rowsLoad base stride n (j + 1)
      return (v :: vs, f)

/-- The operands of TLD and TST must be multiples of 64 (06 R171). -/
def M.rowAlign (base stride : Word) : M Unit := do
  if base.toNat % 64 ≠ 0 ∨ stride.toNat % 64 ≠ 0 then M.trap (misalignExc base)

/-- TLD (06 R165, R171). -/
def execTld (d : TileReg) (a b : Reg) (n : BitVec 4) (s : State) : Out :=
  vissue (tmWord 0x2A (d.setWidth 5) a b (BitField.join 4 3 n 0) 1) [a, b] [] [] (runM do
    let t ← M.me
    let base := t.readG a
    let stride := t.readG b
    M.rowAlign base stride
    M.tileOrder d.toNat true
    M.claim
    let (rows, fault) ← M.rowsLoad base stride (n.toNat + 1) 0
    let whole := rows.length == 16
    let old ← if whole then pure 0 else M.readTile d.toNat
    let core := (← get).myCoreNo
    if !rows.isEmpty then M.putTile core d.toNat (rows.zipIdx.foldl (fun x (v, i) => setTileRow x i v) old)
    match fault with
    | some e => M.trap e
    | none => M.done) s

/-- The parts of row `j` of TST, checked, each with its bytes' place in the row. -/
def M.rowPlaces (base stride : Word) (j : Nat) : M (List (Place × Nat × Nat)) := do
  let start := rowAddr base stride j
  (pagesOf start 1024).mapM fun (va, n) => do
    let p ← M.rowPlace .store va n j
    match p with
    | .window _ => M.trap (accessExc va j)
    | _ => pure ()
    return (p, (va - start).toNat, n)

/-- Rows `j` onward, checked until one fails (06 R171). -/
def M.rowsPlaces (base stride : Word) : Nat → Nat → M (List (Nat × List (Place × Nat × Nat)) × Option Exc)
  | 0, _ => pure ([], none)
  | n + 1, j => do
    match ← M.attempt (M.rowPlaces base stride j) with
    | .error e => return ([], some e)
    | .ok ps =>
      let (more, f) ← M.rowsPlaces base stride n (j + 1)
      return ((j, ps) :: more, f)

/-- The routes of a row of a tile. -/
def State.rowRoutes (s : State) (x : TWord) (j : Nat) (ps : List (Place × Nat × Nat)) : List Route :=
  let bs := bytesOf 1024 (tileRow x j).toNat
  ps.map fun (p, off, n) => s.route p n (natOfBytes ((bs.drop off).take n))

/-- The part lies in another core's scratchpad. -/
def Place.isRemote (p : Place) (core : Nat) : Bool :=
  match p with
  | .carve c _ => c != core
  | _ => false

/-- TST (06 R171): rows before a failing one are stored, also where they wait for slots, and the instruction runs whole again after
service.  A slotted TST outside its core's slots raises SLOT_VIOLATION before it claims the file (14 R368). -/
def execTst (d : TileReg) (a b : Reg) (n : BitVec 4) (s : State) : Out :=
  vissue (tmWord 0x2A (d.setWidth 5) a b (BitField.join 4 3 n 0) 2) [a, b] [] [] (runM do
    let t ← M.me
    let base := t.readG a
    let stride := t.readG b
    M.rowAlign base stride
    M.tileOrder d.toNat false
    let (rows, fault) ← M.rowsPlaces base stride (n.toNat + 1) 0
    let core := (← get).myCoreNo
    if rows.any fun r => r.2.any fun p => p.1.isRemote core then M.slotCheck base
    let x ← M.readTile d.toNat
    let s ← get
    let routes := rows.map fun (j, ps) => (j, s.rowRoutes x j ps)
    let note : SlotNote := { addr := rowAddr base stride, settled := none, indexed := false, fault }
    if !(← M.storeBatches base note (groupRoutes routes)) then M.finish fault) s

/-- TMOVVT (06 R170). -/
def execTmovvt (d : TileReg) (a b : Reg) (s : State) : Out :=
  vissue (tmWord 0x2A (d.setWidth 5) a b 0 3) [b] [] [a] (runM do
    M.tileOrder d.toNat true
    let x ← M.readTile d.toNat
    let t ← M.me
    M.putTile (← get).myCoreNo d.toNat (setTileRow x (bitsNat (t.readG b) 3 0) (t.readV a))
    M.done) s

/-- TMOVTV (06 R170). -/
def execTmovtv (d : Reg) (a : TileReg) (b : Reg) (s : State) : Out :=
  vissue (tmWord 0x2A d (a.setWidth 5) b 0 4) [b] [] [d] (runM do
    M.tileOrder a.toNat false
    let x ← M.readTile a.toNat
    M.modifyMe fun t => t.writeV d (tileRow x (bitsNat (t.readG b) 3 0))
    M.done) s

/-- One element of TOPA: its code and flags (06 R172). -/
def topaElem (x y c : Nat) : Nat × Flags :=
  fpDeliver fp32 .rne 0 (fpFma .rne (bf16.value x) (bf16.value y) (fp32.value c))

/-- TOPA (06 R172). -/
def execTopa (d : TileReg) (a b : Reg) (z : Bool) (s : State) : Out :=
  vissue (tmWord 0x2A (d.setWidth 5) a b (if z then 1 else 0) 5) [] [] [a, b] (runM do
    M.tileOrder d.toNat true
    M.claim
    let old ← if z then pure 0 else M.readTile d.toNat
    let t ← M.me
    let xs := (List.range 16).map fun i =>
      (List.range 256).map fun j =>
        topaElem (velem 16 (t.readV a) i) (velem 16 (t.readV b) j) (velem 32 (tileRow old i) j)
    let fl := xs.foldl (fun fl row => row.foldl (fun fl e => fl ||| e.2) fl) 0
    if t.traps fl then
      let at_ := (xs.map (·.map (t.traps ·.2))).flatten.findIdx id
      M.trap { code := 0x14, info := BitVec.ofNat 64 (fl.toNat + at_ % 256 * 2 ^ 32 + at_ / 256 * 2 ^ 44) }
    M.putTile (← get).myCoreNo d.toNat
      (BitVec.ofNat 131072 ((xs.zipIdx.map fun (row, i) =>
        (packElems 32 (fun j => (row.getD j (0, 0)).1) 256) <<< (8192 * i)).foldl (· + ·) 0))
    M.modifyMe fun t => t.addFlags fl
    M.done) s

/-- TSAVE (06 R173). -/
def execTsave (r : Bool) (s : State) : Out :=
  vissue (tmWord 0x2A 0 0 0 (if r then 1 else 0) 6) [] [] [] (runM do
    let s ← get
    if s.ownsFile s.myCoreNo s.mySlotNo then
      tileNos.forM fun i => M.tileOrder i false
      M.spill s.myCoreNo tileNos
      if r then M.modifyTiles s.myCoreNo fun t => { t with valid := false }
    M.done) s

/-- Every absent tile filled, or none (06 R166, R173). -/
def M.fillAll : M Unit := do
  let s ← get
  let old := s.myCore.tiles
  match ← M.attempt (tileNos.forM fun i => discard (M.readTile i)) with
  | .ok _ => pure ()
  | .error e =>
    M.modifyTiles s.myCoreNo fun _ => old
    M.trap e

/-- TRESTORE (06 R173). -/
def execTrestore (s : State) : Out :=
  vissue (tmWord 0x2A 0 0 0 0 7) [] [] [] (runM do
    tileNos.forM fun i => M.tileOrder i false
    M.claim
    M.fillAll
    M.done) s

end Sys2Proof.Machine
end

