-- ==== Sys2Proof/Machine/Mill.lean ====
section
/-!
DEFINITION. Machine/Mill.lean: leases and their arbitration (06 R174 to R181), the format context (06 R182), and the issue of the
mill's commands (06 R183 to R193).
-/

namespace Sys2Proof.Machine

/-! ## Leases -/

/-- T of a request word (06 R176). -/
def reqTrays (w : Word) : Nat := bitsNat w 5 0
/-- k of a request word. -/
def reqShape (w : Word) : Nat := bitsNat w 13 8
/-- R of a request word. -/
def reqRegions (w : Word) : Nat := bitsNat w 19 16
/-- N: columns of the panel (06 R175). -/
def reqCols (w : Word) : Nat := 256 * reqTrays w / reqShape w
/-- K_s: stored rows of the panel (06 R175). -/
def reqRows (w : Word) : Nat := 256 * reqShape w
/-- Bytes of accumulator memory (06 R175). -/
def reqBytes (w : Word) : Nat := reqRegions w * 64 * reqCols w
/-- Bytes of the save area (06 R177). -/
def reqArea (w : Word) : Nat := 4096 + reqBytes w + reqTrays w * 65536

/-- The request word keeps the limits of 06 R176. -/
def reqGood (w : Word) : Bool :=
  (w &&& ~~~0x1FF0F3F3F) == 0 && decide (1 ≤ reqTrays w) && decide (reqTrays w ≤ 40) &&
    [1, 2, 4, 5, 8, 10, 20, 40].contains (reqShape w) && reqTrays w % reqShape w == 0 &&
    decide (1 ≤ reqRegions w) && decide (reqRegions w ≤ 8) && (!bitAt w 32 || decide (bitsNat w 31 24 ≤ 20))

/-- The result word of a status (06 R176). -/
def leaseStatusWord (status : Nat) : Word := BitVec.ofNat 64 (status * 2 ^ 56)

/-- The result word of a grant (06 R176). -/
def leaseWord (w : Word) : Word := BitVec.ofNat 64 (2 ^ 63 + reqRows w * 2 ^ 16 + reqCols w)

/-- The lease of a core is held: granted, or displaced (06 R175, R179). -/
def Lease.isHeld (l : Lease) : Bool := l.status == .granted || l.displaced

/-- The lease or request is that of the strand of a slot, a supervisor strand or not (06 R175, 13 R330). -/
def Lease.isOf (l : Lease) (slot : Nat) (sup : Bool) : Bool := l.slot == slot && l.part.isNone == sup

/-- The strand of a lease or request, as a sender (06 R175). -/
def Lease.owner (l : Lease) (core : Nat) : Sender := { core, slot := l.slot, part := l.part, sup := l.part.isNone }

/-- The strand that moves is a supervisor strand. -/
def State.amSup (s : State) : Bool := s.me.kind == .supervisor

/-- The lease is held by the strand that moves, which has not released it (06 R175, R180). -/
def State.owns (s : State) (l : Lease) : Bool := l.isHeld && l.isOf s.mySlotNo s.amSup && !l.released

/-- The lease that a core holds. -/
def Core.held (c : Core) : Option Lease := c.leases.find? (·.isHeld)

/-- A list with the first element that fits changed. -/
def mapFirst {α : Type} (p : α → Bool) (f : α → α) : List α → List α
  | [] => []
  | x :: xs => if p x then f x :: xs else x :: mapFirst p f xs

/-- The core with its held lease changed. -/
def Core.mapHeld (c : Core) (f : Lease → Lease) : Core := { c with leases := mapFirst (·.isHeld) f c.leases }

/-- The leases of a core once one has ended, a request is withdrawn or a merge is over: where none is granted and none contends, a
revoked lease is requested again, and otherwise the request that waits longest joins the arbitration, with age 0 (06 R177, R196).
During a merge a revoked lease waits (13 R355). -/
def promote (merging : Bool) (now : Nat) (ls : List Lease) : List Lease :=
  let join := fun (l : Lease) => { l with status := .contending, joined := now }
  if ls.any fun l => l.status != .queued then ls
  else if ls.any (·.displaced) then if merging then ls else mapFirst (·.displaced) join ls
  else mapFirst (fun _ => true) join ls

/-- The compute cores of a cluster (01 R13). -/
def clusterCores (cl : Nat) : List Nat :=
  ([0, 1].map fun y => (List.range 4).map fun x => cl / 32 * 256 + cl % 32 / 4 * 32 + cl % 4 * 4 + 16 * y + x).flatten

/-- The leases and requests of a cluster, with their cores. -/
def State.clusterLeases (s : State) (cl : Nat) : List (Nat × Lease) :=
  ((clusterCores cl).map fun c => (s.coreAt c).leases.map fun l => (c, l)).flatten

/-- The trays that granted leases of a cluster occupy. -/
def State.traysUsed (s : State) (cl : Nat) : Nat :=
  (((s.clusterLeases cl).filter (·.2.status == .granted)).map fun x => reqTrays x.2.request).sum

/-- The accumulator memory that granted leases of a cluster occupy. -/
def State.accUsed (s : State) (cl : Nat) : Nat :=
  (((s.clusterLeases cl).filter (·.2.status == .granted)).map fun x => reqBytes x.2.request).sum

/-- A request fits in what is free of its cluster's mill (06 R174, R178). -/
def State.fits (s : State) (cl : Nat) (w : Word) : Bool :=
  decide (s.traysUsed cl + reqTrays w ≤ 40) && decide (s.accUsed cl + reqBytes w ≤ 2097152)

/-- The age of a request, which joined the arbitration at a core cycle of its cluster, has saturated (06 R178, 00 R4). -/
def Lease.saturated (l : Lease) (now : Nat) : Bool := decide (255 ≤ (now - l.joined) / 4096)

/-- Request x goes before request y at a core cycle of their cluster (06 R178). -/
def leaseAhead (now : Nat) (x y : Nat × Lease) : Bool :=
  let sx := x.2.saturated now
  let earlier := decide (x.2.issued < y.2.issued) || (x.2.issued == y.2.issued && decide (localIndex x.1 < localIndex y.1))
  if sx != y.2.saturated now then sx
  else if sx then earlier
  else if x.2.prio ≠ y.2.prio then decide (y.2.prio < x.2.prio)
  else earlier

/-- The core cycle of a cluster (00 R4). -/
def State.clusterCycles (s : State) (cl : Nat) : Nat := s.cycles - (s.clusterAt cl).behind

/-- The requests of a cluster that contend (06 R177, R178). -/
def State.contenders (s : State) (cl : Nat) : List (Nat × Lease) :=
  (s.clusterLeases cl).filter (·.2.status == .contending)

/-- The budget of a request word: commands, or cycles (06 R176). -/
def reqBudget (w : Word) : Nat := if bitAt w 32 then 2 ^ bitsNat w 31 24 else bitsNat w 31 24 + 1

/-- The lease with its budget renewed (06 R179). -/
def Lease.renew (l : Lease) (cycles : Nat) : Lease := { l with left := reqBudget l.request, since := cycles }

/-- The lease granted: every cell, region and the format context are zero at a first grant (06 R175), and are replayed after
a displacement or at resume (06 R185, R196). -/
def Lease.grant (l : Lease) (cycles : Nat) : Lease :=
  { l.renew cycles with status := .granted, displaced := false, replant := l.displaced }

/-- The leases of a core as one of its requests is granted: the others that contend wait for its end (06 R177, log entry 28). -/
def grantIn (now : Nat) (l : Lease) (ls : List Lease) : List Lease :=
  ls.map fun x => if x = l then l.grant now else if x.status = .contending then { x with status := .queued } else x

/-- The state with a contending request granted, and its strand, which waits for it, told (06 R176, R178). -/
def State.grantTo (s : State) (c : Nat) (l : Lease) : State :=
  let core := s.coreAt c
  let s := s.setCore c { core with leases := grantIn (s.cyclesOf c) l core.leases }
  let t := s.senderStrand (l.owner c)
  match t.cond with
  | .lease d => if l.displaced then s else s.setSender (l.owner c) ((t.writeG d (leaseWord l.request)).advance)
  | _ => s

/-- LEASE_GRANT: the request ahead of all others is granted, where it fits (06 R178). -/
def State.leaseGrant (s : State) (cl : Nat) : State :=
  let cs := s.contenders cl
  match cs.find? fun x => cs.all fun y => x == y || leaseAhead (s.clusterCycles cl) x y with
  | none => s
  | some (c, l) => if s.fits cl l.request then s.grantTo c l else s

/-- The physical locations of the pages of a lease save area, which must be a writable G-space range (06 R177). -/
def M.saveArea (base : Word) (n : Nat) : M (List Nat) := do
  if base.toNat % 4096 ≠ 0 then M.trap (misalignExc base)
  (pagesOf base n).mapM fun (va, _) => do
    match spaceOf va with
    | .sync | .scratch => M.trap (accessExc va 0)
    | _ =>
      match ← M.translate (← get).myAgent .store va 0 with
      | .mem key _ _ _ => return key
      | _ => M.trap (accessExc va 0)

/-- MLEASE (06 R176, R177): its request waits while the core's lease is held, displaced, or released and not yet ended; beside a request
of another strand that only contends it contends too. -/
def execMlease (d a b : Reg) (w : Bool) (s : State) : Out :=
  unitIssue (tmWord 0x2B d a b (if w then 1 else 0) 0) [a, b] [d] (runM do
    let s ← get
    let req := s.me.readG a
    let answer : Word → M Unit := fun x => do
      M.modifyMe fun t => t.writeG d x
      M.done
    let core := s.myCore
    if !reqGood req then answer (leaseStatusWord 2)
    else if 2097152 < reqBytes req then answer (leaseStatusWord 3)
    else if core.leases.any s.owns then answer (leaseStatusWord 4)
    else
      let pages ← M.saveArea (s.me.readG b) (reqArea req)
      let s ← get
      let core := s.myCore
      let l : Lease :=
        { slot := s.mySlotNo, part := if s.amSup then none else some core.part, request := req, save := s.me.readG b, pages,
          prio := s.me.prio, issued := s.gtime, joined := s.cyclesOf s.myCoreNo,
          status := if core.held.isSome then .queued else .contending }
      let s1 := s.setMyCore { core with leases := core.leases ++ [l] }
      if w then
        let cl := clusterOf s.myCoreNo
        let first := (s.contenders cl).all fun y => leaseAhead (s.cyclesOf s.myCoreNo) (s.myCoreNo, l) y
        if core.held.isNone && first && s.fits cl req then
          set (s1.grantTo s.myCoreNo l)
          answer (leaseWord req)
        else answer (leaseStatusWord 1)
      else
        set s1
        M.modifyMe fun t => { t with cond := .lease d }) s

/-! ## Issue of commands -/

/-- LEASE: the code and the command's fn (06 R181). -/
def leaseExc (code fn : Nat) : Exc := { code := 0x1A, info := BitVec.ofNat 64 (code + fn * 256) }

/-- The lease that a command runs under, checked (06 R181 codes 1 and 2); a command that finds q3 full waits (06 R193). -/
def M.lease (fn : Nat) : M Lease := do
  let s ← get
  if 16 ≤ s.myCore.q3.length then M.wait
  match s.myCore.leases.find? s.owns with
  | some l => return l
  | none => match s.myCore.held with
    | none => M.trap (leaseExc 1 fn)
    | some l => M.trap (leaseExc (if l.released then 1 else 2) fn)

/-- The lease of the strand that moves, changed. -/
def M.modifyOwn (f : Lease → Lease) : M Unit :=
  modify fun s => s.setMyCore { s.myCore with leases := mapFirst s.owns f s.myCore.leases }

/-- A command joins q3, after the strand's earlier memory operations where it reaches memory (06 R193). -/
def M.enqueue3 (op : MillOp) (memory : Bool) : M Unit := do
  let s ← get
  let c := s.myCore
  let n := c.qseq[3]
  let cmd : MillCmd :=
    { op, slot := s.mySlotNo, seq := n, mode := s.me.mode, part := s.myPart, adopted := s.me.adopted, slots := s.noteSlots s.myAgent,
      after := if memory then s.outstanding s.cur else [] }
  set (s.setMyCore { c with q3 := c.q3 ++ [cmd], qseq := c.qseq.set 3 ((n + 1) % 65536) })

/-- The strand that moves releases its lease, if it holds one: a command of q3, behind its earlier ones (06 R180). -/
def M.release : M Unit := do
  let s ← get
  if s.myCore.leases.any s.owns then
    if 16 ≤ s.myCore.q3.length then M.wait
    M.enqueue3 .release false
    M.modifyOwn fun l => { l with released := true }

/-- MRELEASE (06 R180). -/
def execMrelease (s : State) : Out :=
  unitIssue (tmWord 0x2B 0 0 0 0 1) [] [] (runM do
    M.release
    M.done) s

/-- The format context that governs the next command (06 R182). -/
def Core.issueFmt (c : Core) (l : Lease) : FmtCtx :=
  c.q3.foldl (fun f x => match x.op with
    | .mfmt g => g
    | _ => f) l.fmt

/-- A format code: bf16, f16, or an nf of the context's NFMT registers (06 R182). -/
def FmtCtx.format (c : FmtCtx) (code : Nat) : FpFormat :=
  if code = 0 then bf16
  else if code = 1 then fp16
  else nfmtFormat (c.nfmt[code % 4]'(Nat.mod_lt _ (by decide)))

def FmtCtx.aCode (c : FmtCtx) : Nat := bitsNat c.word 3 0
def FmtCtx.bCode (c : FmtCtx) : Nat := bitsNat c.word 11 8
def FmtCtx.amx (c : FmtCtx) : Bool := bitAt c.word 4
def FmtCtx.bmx (c : FmtCtx) : Bool := bitAt c.word 12
def FmtCtx.spn (c : FmtCtx) : Nat := bitsNat c.word 29 28

/-- Bytes of an element of a format code (06 R184, R187). -/
def codeBytes (code : Nat) : Nat := if code ≤ 1 then 2 else 1

/-- BLK of the context (06 R182, 03 R63). -/
def FmtCtx.block (c : FmtCtx) : Nat := mxBlock (bitsNat c.word 25 24)

/-- The size of an alignment group (03 R73, 06 R182). -/
def FmtCtx.group (c : FmtCtx) : Nat := if c.amx || c.bmx then c.block else 32

/-- N_z, or 64 for a dense panel (06 R186). -/
def FmtCtx.nz (c : FmtCtx) : Nat := 64 / 2 ^ c.spn

/-- The A magnitude width w (03 R72). -/
def FmtCtx.width (c : FmtCtx) : Nat :=
  if c.aCode ≤ 1 then 16 else if (c.format c.aCode).width ≤ 4 then 4 else 8

/-- DFMT as a format and its bytes (06 R182). -/
def FmtCtx.drain (c : FmtCtx) : FpFormat × Nat :=
  match bitsNat c.word 18 16 with
  | 1 => (bf16, 2)
  | 2 => (fp16, 2)
  | _ => (fp32, 4)

/-- DRND (06 R182). -/
def FmtCtx.drnd (c : FmtCtx) : FpMode :=
  match bitsNat c.word 22 20 with
  | 2 => .rtz
  | 3 => .rdn
  | 4 => .rup
  | _ => .rne

/-- The logical depth K of a lease's panel (06 R186). -/
def FmtCtx.depth (c : FmtCtx) (request : Word) : Nat := reqRows request * 64 / c.nz

/-- A format code is one that the context allows: bf16, f16, or an nf whose NFMT register is valid. -/
def fmtCodeGood (t : Strand) (code : Nat) : Bool :=
  code ≤ 1 || (decide (4 ≤ code) && decide (code ≤ 7) && nfmtValid (t.nfmtAt code))

/-- The word of MFMT keeps its limits (06 R182). -/
def fmtGood (t : Strand) (w : Word) : Bool :=
  (w &&& ~~~0x333771F1F) == 0 && bitsNat w 25 24 != 3 && decide (bitsNat w 22 20 ≤ 4) && decide (bitsNat w 18 16 ≤ 2) &&
    fmtCodeGood t (bitsNat w 3 0) && fmtCodeGood t (bitsNat w 11 8) && (!bitAt w 4 || decide (4 ≤ bitsNat w 3 0)) &&
    (!bitAt w 12 || decide (4 ≤ bitsNat w 11 8)) && !(bitsNat w 29 28 != 0 && bitAt w 12)

/-- MFMT (06 R182). -/
def execMfmt (a : Reg) (s : State) : Out :=
  let w := tmWord 0x2B 0 a 0 0 2
  unitIssue w [a] [] (runM do
    let _ ← M.lease 2
    let t ← M.me
    if !fmtGood t (t.readG a) then M.illegal w 3
    M.enqueue3 (.mfmt { word := t.readG a, nfmt := t.nfmt }) false
    M.done) s

/-- The number of columns of tray `t` that a plant of NV columns finds present, and the tray's first column (06 R175, R184). -/
def plantCols (request : Word) (nv t : Nat) : Nat × Nat :=
  let c0 := 256 * (t / reqShape request)
  (min 256 (nv - c0), c0)

/-- The stored rows of tray `t` that a plant of KV rows finds present, as a range (06 R175, R184). -/
def plantRows (request : Word) (kv t : Nat) : Nat × Nat :=
  let r0 := 256 * (t % reqShape request)
  (r0, min (r0 + 256) kv)

/-- The parts of memory that a plant from memory reads for its cells (06 R184). -/
def PlantArgs.parts (p : PlantArgs) (request : Word) (eb : Nat) : List (Word × Nat) :=
  ((List.range p.nt).map fun i =>
    let t := p.t0 + i
    let (nn, c0) := plantCols request p.nv t
    let (r0, r1) := plantRows request p.kv t
    if nn = 0 then []
    else ((List.range (r1 - r0)).map fun r =>
      pagesOf (p.src + p.pitch * BitVec.ofNat 64 (r0 + r) + BitVec.ofNat 64 (c0 * eb)) (nn * eb)).flatten).flatten

/-- The region that an address lies in under a PTBASE: none where it is in no page, and otherwise the page's (06 R184). -/
def State.regionAt (s : State) (ptbase va : Word) : Option (Option Nat) :=
  match spaceOf va with
  | .global => match s.walk ptbase va with
    | .leaf _ _ e _ => some (pteRegion e)
    | .invalid _ => none
  | _ => some none

/-- The tag of a plant, and the slot it names: none where its source touches no region, and a refusal where it touches one
and something else (06 R184). -/
def M.plantTag (p : PlantArgs) (request : Word) (eb : Nat) : M (TrayTag × Nat) := do
  if p.tile then return (.none, 0)
  let s ← get
  let a := s.myAgent
  let rs := ((p.parts request eb).filterMap fun x => s.regionAt a.ptbase x.1).eraseDups
  match rs.filterMap id with
  | [] => return (.none, 0)
  | r :: _ =>
    if 1 < rs.length then M.trap (accessExc p.src 0)
    match a.part, a.adopted with
    | some q, some v =>
      match s.readSlot q r v.toNat with
      | some i => return (.version r (BitVec.ofNat 32 (s.slotVer q r i)), i)
      | none => return (.none, 0)
    | _, _ => return (.none, 0)

/-- A doubleword of a plant descriptor (06 R183). -/
def M.descWord (base : Word) (i : Nat) : M Nat := do
  let va := base + BitVec.ofNat 64 (8 * i)
  let p ← M.check (← get).myAgent .load va 8 false 0
  let (x, bad) ← M.read p 8
  if bad then M.trap { code := 0x15, addr := va }
  return x

/-- PLANT (06 R183, R184): the tags of its trays are set at issue (20 R415). -/
def execPlant (a b : Reg) (t : Bool) (s : State) : Out :=
  let w := tmWord 0x2B 0 a b (if t then 1 else 0) 3
  unitIssue w [a, b] [] (runM do
    let l ← M.lease 3
    let me ← M.me
    let da := me.readG a
    let gb := me.readG b
    let t0 := bitsNat gb 5 0
    let nt := bitsNat gb 13 8
    if nt = 0 ∨ reqTrays l.request < t0 + nt then M.trap (leaseExc 7 3)
    if da.toNat % 32 ≠ 0 then M.trap (misalignExc da)
    let src ← M.descWord da 0
    let pitch ← M.descWord da 1
    let dims ← M.descWord da 2
    let aux ← M.descWord da 3
    let fmt := (← get).myCore.issueFmt l
    let kv := dims % 2 ^ 32
    let nv := dims / 2 ^ 32
    let bad := (if t then 128 else reqRows l.request) < kv ∨ reqCols l.request < nv ∨
      (aux ≠ 0 ∧ fmt.bmx = false ∧ fmt.spn = 0) ∨ (t = true ∧ (pitch ≠ 0 ∨ 8 ≤ src))
    if bad then M.illegal w 3
    let args : PlantArgs :=
      { src := BitVec.ofNat 64 src, pitch := BitVec.ofNat 64 pitch, kv, nv, aux := BitVec.ofNat 64 aux, t0, nt, tile := t,
        tag := .none, slotNo := 0, mode := me.mode, adopted := me.adopted }
    let (tag, slotNo) ← M.plantTag args l.request (codeBytes fmt.bCode)
    if t then
      args.tilesRead.forM fun i => M.tileOrder i false
      M.claim
    M.enqueue3 (.plant { args with tag, slotNo }) true
    let tray : Tray := { group := fmt.group, spn := fmt.spn, tag }
    M.modifyOwn fun l => { l with trays := (rangeFrom t0 nt).foldl (fun ts i => Tab.set ts i tray) l.trays }
    M.done) s

/-- The column blocks that a command names, checked (06 R181 code 4, R187). -/
def M.blocks (l : Lease) (gb : Word) (fn : Nat) : M (Nat × Nat) := do
  let n := reqCols l.request / 256
  let c0 := bitsNat gb 5 0
  let nc := if bitsNat gb 13 8 = 0 then n - c0 else bitsNat gb 13 8
  if n ≤ c0 ∨ n < c0 + nc then M.trap (leaseExc 4 fn)
  return (c0, nc)

/-- The relative trays of a range of column blocks (06 R175). -/
def blockTrays (request : Word) (c0 nc : Nat) : List Nat := rangeFrom (c0 * reqShape request) (nc * reqShape request)

/-- The tray was planted under another group size or sparsity than this context's (06 R181 code 6); one that was never planted is
accepted (log entry 28). -/
def Lease.mismatch (l : Lease) (fmt : FmtCtx) (i : Nat) : Bool :=
  l.trays.any fun x => x.1 == i && (x.2.group != fmt.group || x.2.spn != fmt.spn)

/-- A tagged tray does not carry the version that VERADOPT names (06 R187): its region and version. -/
def State.staleTray (s : State) (l : Lease) (i : Nat) : Option (Nat × Nat) :=
  match (Tab.get {} l.trays i).tag with
  | .none => none
  | .stale r v => some (r, v.toNat)
  | .version r v => if s.namedVersion s.myAgent r = some v.toNat then none else some (r, v.toNat)

/-- The version check of MMA and MMAS (06 R187). -/
def M.versionCheck (l : Lease) (trays : List Nat) : M Unit := do
  let s ← get
  match trays.filterMap fun i => (s.staleTray l i).map fun x => (i, x) with
  | [] => pure ()
  | (i, r, v) :: _ =>
    M.trap { code := 0x0C, info := BitVec.ofNat 64 (i % 256 + r % 256 * 256 + v % 2 ^ 32 * 2 ^ 32) }

/-- The issue checks that MMA and MMAS share: regions, blocks and trays (06 R187). -/
def M.mmaChecks (l : Lease) (d : TileReg) (gb : Word) (fn : Nat) (rowFits : Bool) : M (Nat × Nat) := do
  if reqRegions l.request ≤ d.toNat then M.trap (leaseExc 3 fn)
  let (c0, nc) ← M.blocks l gb fn
  if !rowFits then M.trap (leaseExc 5 fn)
  let fmt := (← get).myCore.issueFmt l
  if (blockTrays l.request c0 nc).any (l.mismatch fmt) then M.trap (leaseExc 6 fn)
  return (c0, nc)

/-- Bytes of an A row (06 R187). -/
def FmtCtx.rowBytes (c : FmtCtx) (request : Word) : Nat :=
  let k := c.depth request
  k * codeBytes c.aCode + if c.amx then (k + c.block - 1) / c.block else 0

/-- MMA (06 R187). -/
def execMma (d a : TileReg) (b : Reg) (n z : Bool) (r : BitVec 4) (s : State) : Out :=
  let m := BitField.join 1 6 (BitVec.ofBool n) (BitField.join 1 5 (BitVec.ofBool z) (BitField.join 4 1 r 0))
  unitIssue (tmWord 0x2B (d.setWidth 5) (a.setWidth 5) b m 4) [b] [] (runM do
    let l ← M.lease 4
    let fmt := (← get).myCore.issueFmt l
    let (c0, nc) ← M.mmaChecks l d ((← M.me).readG b) 4 (fmt.rowBytes l.request ≤ 1024)
    M.tileOrder a.toNat false
    discard (M.readTile a.toNat)
    M.versionCheck l (blockTrays l.request c0 nc)
    M.enqueue3 (.mma d.toNat a.toNat c0 nc (r.toNat + 1) n z) false
    M.done) s

/-- The rows of a command at addresses must be aligned (06 R187, R189). -/
def M.rowsAligned (base pitch : Word) (rows sz : Nat) : M Unit := do
  match ((List.range rows).map (rowAddr base pitch)).find? fun va => va.toNat % sz ≠ 0 with
  | some va => M.trap (misalignExc va)
  | none => pure ()

/-- The row pitch in g[b][63:32] (06 R187, R189). -/
def rowPitch (gb : Word) : Word := BitVec.ofNat 64 (bitsNat gb 63 32)

/-- MMAS (06 R187). -/
def execMmas (d : TileReg) (a b : Reg) (n z : Bool) (r : BitVec 4) (s : State) : Out :=
  let m := BitField.join 1 6 (BitVec.ofBool n) (BitField.join 1 5 (BitVec.ofBool z) (BitField.join 4 1 r 0))
  unitIssue (tmWord 0x2B (d.setWidth 5) a b m 5) [a, b] [] (runM do
    let l ← M.lease 5
    let t ← M.me
    let (c0, nc) ← M.mmaChecks l d (t.readG b) 5 true
    M.versionCheck l (blockTrays l.request c0 nc)
    M.rowsAligned (t.readG a) (rowPitch (t.readG b)) (r.toNat + 1) 2
    M.enqueue3 (.mmas d.toNat (t.readG a) (rowPitch (t.readG b)) c0 nc (r.toNat + 1) n z) true
    M.done) s

/-- MZERO (06 R188). -/
def execMzero (d : TileReg) (s : State) : Out :=
  unitIssue (tmWord 0x2B (d.setWidth 5) 0 0 0 6) [] [] (runM do
    let l ← M.lease 6
    if reqRegions l.request ≤ d.toNat then M.trap (leaseExc 3 6)
    M.enqueue3 (.mzero d.toNat) false
    M.done) s

/-- MDRAIN (06 R189). -/
def execMdrain (d a b : Reg) (r : BitVec 4) (c : Bool) (k : DrainKind) (s : State) : Out :=
  let m := BitField.join 4 3 r (BitField.join 1 2 (BitVec.ofBool c) (if k = .tile then 1 else 0))
  let reads := match k with
    | .address => [a, b]
    | .tile => [b]
  unitIssue (tmWord 0x2B d a b m 7) reads [d] (runM do
    let l ← M.lease 7
    let t ← M.me
    let gb := t.readG b
    let acc := bitsNat gb 18 16
    if reqRegions l.request ≤ acc then M.trap (leaseExc 3 7)
    let (c0, nc) ← M.blocks l gb 7
    let eb := ((← get).myCore.issueFmt l).drain.2
    let rows := r.toNat + 1
    match k with
    | .tile =>
      if 1024 < nc * 256 * eb then M.trap (leaseExc 8 7)
      M.tileOrder (bitsNat gb 34 32) true
      M.claim
      M.enqueue3 (.drainTile (bitsNat gb 34 32) acc c0 nc rows c d) true
    | .address =>
      M.rowsAligned (t.readG a) (rowPitch gb) rows eb
      M.enqueue3 (.drainAddr (t.readG a) (rowPitch gb) acc c0 nc rows c d) true
    M.modifyMe fun t => t.setMark d (.waiting .token)
    M.done) s

/-- MCHAIN (06 R190). -/
def execMchain (d : Reg) (a : TileReg) (b : Reg) (c : Bool) (s : State) : Out :=
  unitIssue (tmWord 0x2B d (a.setWidth 5) b (if c then 4 else 0) 8) [b] [] (runM do
    if (← M.me).vbusy [d] then M.wait
    let l ← M.lease 8
    let gb := (← M.me).readG b
    if reqRegions l.request ≤ a.toNat then M.trap (leaseExc 3 8)
    let col := bitsNat gb 13 8
    if reqCols l.request / 256 ≤ col then M.trap (leaseExc 4 8)
    M.enqueue3 (.mchain d a.toNat (bitsNat gb 3 0) col c) false
    M.modifyMe fun t => { t with vpend := t.vpend ||| (1 <<< d.toNat) }
    M.done) s

/-- MSTAT (06 R192). -/
def State.mstat (s : State) : Word :=
  let c := s.myCore
  let owned := c.leases.any s.owns
  let displ := c.leases.any (·.displaced)
  let left := match c.held with
    | none => 0
    | some l => if bitAt l.request 32 then min 0xFFFF ((l.since + reqBudget l.request - s.cyclesOf s.myCoreNo) / 16) else l.left
  let (seq, point) := match c.q3 with
    | [] => (0, 0)
    | x :: _ => (x.seq, x.progress)
  BitVec.ofNat 64 ((if c.halt.isSome then 2 ^ 63 else 0) + (if owned then 2 ^ 62 else 0) + (if displ then 2 ^ 61 else 0) +
    c.q3.length % 32 * 2 ^ 56 + seq % 2 ^ 16 * 2 ^ 40 + point % 2 ^ 16 * 2 ^ 16 + left % 2 ^ 16)

/-- MSTAT (06 R192). -/
def execMstat (d : Reg) (s : State) : Out :=
  unitIssue (tmWord 0x2B d 0 0 0 10) [] [d] (fun s => complete (fun t => t.writeG d s.mstat) s) s

end Sys2Proof.Machine
end

