-- ==== Sys2Proof/Machine/MillRun.lean ====
section
/-!
DEFINITION. Machine/MillRun.lean: the performance of the mill's commands: the aligned arithmetic (03 R72 to R76), plants and
re-plants (06 R184 to R186), products, drains and slices (06 R187 to R191), budgets and faults (06 R179, R194).
-/

namespace Sys2Proof.Machine

/-! ## Alignment -/

/-- A value times 2^(c - 127), where an E8M0 code is given; an element of a NaN-scaled block is a NaN (03 R63). -/
def scaled (scale : Option Nat) (v : FpVal) : FpVal :=
  match scale with
  | none => v
  | some c => if c = 255 then .nan false else match v with
    | .fin neg m e => .fin neg m (e + c - 127)
    | x => x

/-- The cell of a value at step 2^q, and whether bits were lost (03 R74, R76). -/
def alignCell (q : Int) (v : FpVal) : Cell × Bool :=
  match v with
  | .nan _ => (.nan, false)
  | .inf neg => (.inf neg, false)
  | .fin neg m e =>
    if m = 0 then (.num neg 0, false)
    else
      let p := roundInt .rne 0 false m (e - q)
      (if p.1 = 0 then .tiny neg else .num neg p.1.natAbs, p.2)

/-- The greatest exponent of the finite non-zero values (03 R74). -/
def groupExp (vs : List FpVal) : Option Int :=
  (vs.filterMap fun v => match v with
    | .fin _ m e => if m = 0 then none else some (topExp m e)
    | _ => none).max?

/-- A group aligned at width `w`: its cells, and the positions that lost bits (03 R74, R76). -/
def alignGroup (w : Nat) (xs : List (Nat × FpVal)) : PanelGroup × List Nat :=
  let e := (groupExp (xs.map (·.2))).getD 0
  let cs := xs.map fun (k, v) => (k, alignCell (e - w + 1) v)
  ({ exp := e, cells := cs.map fun (k, c, _) => (k, c) }, cs.filterMap fun (k, _, lost) => if lost then some k else none)

/-- The cell at a position, and whether a cell names it. -/
def PanelGroup.at (g : PanelGroup) (k : Nat) : Cell × Bool :=
  match g.cells.find? (·.1 == k) with
  | some x => (x.2, true)
  | none => (.num false 0, false)

/-- The product of two cells (03 R74, R75): a NaN, an infinity with its sign, or an integer. -/
inductive CellProd where
  | nan
  | inf (neg : Bool)
  | int (p : Int)
  deriving DecidableEq, Repr

/-- The sign of a cell. -/
def Cell.neg : Cell → Bool
  | .num n _ | .tiny n | .inf n => n
  | .nan => false

/-- The cell is a zero element. -/
def Cell.isZero (c : Cell) : Bool :=
  match c with
  | .num _ q => q == 0
  | _ => false

/-- The cell is an infinity. -/
def Cell.isInf (c : Cell) : Bool :=
  match c with
  | .inf _ => true
  | _ => false

/-- The magnitude bits of a cell. -/
def Cell.mag : Cell → Nat
  | .num _ q => q
  | _ => 0

/-- The product of two cells. -/
def cellProd (a b : Cell) : CellProd :=
  if a = .nan ∨ b = .nan then .nan
  else if a.isInf || b.isInf then
    if a.isZero || b.isZero then .nan else .inf (a.neg ^^ b.neg)
  else .int (if a.neg ^^ b.neg then -((a.mag * b.mag : Nat) : Int) else ((a.mag * b.mag : Nat) : Int))

/-- gval of a group of `n` positions (03 R74, R75); a position that no cell of a sparse panel names sets no flag (03 R69). -/
def groupValue (sparse : Bool) (n w : Nat) (a b : PanelGroup) : Nat × Flags :=
  let ps := (List.range n).map fun k => (cellProd (a.at k).1 (b.at k).1, !sparse || (b.at k).2)
  let nans := ps.filter (·.1 == .nan)
  let up := ps.any (·.1 == .inf false)
  let down := ps.any (·.1 == .inf true)
  if !nans.isEmpty || (up && down) then
    (fp32.nanCode.getD 0, flagIf (nans.any (·.2) || (up && down)) flagNV)
  else if up || down then (fp32.withSign down fp32.infCode, 0)
  else
    let p : Int := (ps.map fun x => match x.1 with
      | .int p => p
      | _ => 0).foldl (· + ·) 0
    if p = 0 then (0, 0)
    else fpRound fp32 .rne 0 ⟨decide (p < 0), p.natAbs, (a.exp - w + 1) + (b.exp - 15), false⟩

/-- One accumulation (03 R74). -/
def accumulate (acc g : Nat) : Nat × Flags := fpDeliver fp32 .rne 0 (fpAdd .rne (fp32.value acc) (fp32.value g))

/-! ## Accumulators -/

/-- The key of an accumulator element. -/
def accKey (region row col : Nat) : Nat := (region * 16 + row) * 16384 + col

/-- An accumulator element (06 R174). -/
def Lease.accAt (l : Lease) (region row col : Nat) : Nat := Tab.get 0 l.acc (accKey region row col)

/-- The lease with an accumulator element written; zero is not listed. -/
def Lease.setAcc (l : Lease) (region row col v : Nat) : Lease :=
  { l with acc := if v = 0 then Tab.drop (accKey region row col) l.acc else Tab.set l.acc (accKey region row col) v }

/-- The lease with a row's columns from `c` replaced. -/
def Lease.setRow (l : Lease) (region row c : Nat) (vs : List Nat) : Lease :=
  vs.zipIdx.foldl (fun l (v, i) => l.setAcc region row (c + i) v) l

/-- The key of a group of a tray's column: `g` counts the groups of the tray. -/
def panelKey (tray col g : Nat) : Nat := (tray * 256 + col) * 128 + g

/-! ## Running a command -/

/-- A computation run as strand `k`. -/
def M.asStrand {α : Type} (k : Nat) (m : M α) : M α := do
  let old := (← get).cur
  modify fun s => { s with cur := k }
  let r ← tryCatch (do return Except.ok (← m)) fun st => pure (Except.error st)
  modify fun s => { s with cur := old }
  match r with
  | .ok x => return x
  | .error st => throw st

/-- Changes the lease that a core holds. -/
def M.modifyLease (core : Nat) (f : Lease → Lease) : M Unit :=
  modify fun s => s.setCore core ((s.coreAt core).mapHeld f)

/-- Changes the command at the head of q3. -/
def M.modifyHead (core : Nat) (f : MillCmd → MillCmd) : M Unit :=
  modify fun s =>
    let c := s.coreAt core
    s.setCore core { c with q3 := match c.q3 with
      | [] => []
      | x :: xs => f x :: xs }

/-- What a command accesses memory with (06 R194): its reads resolve as they did at its issue (15 R374). -/
def State.cmdAgent (s : State) (core : Nat) (c : MillCmd) : Agent :=
  { s.agentOf (core * 4 + c.slot) with
    mode := c.mode, part := c.part, adopted := c.adopted
    prio := ((s.coreAt core).held.map (·.prio)).getD 0
    slotFix := some ((c.slots.filter fun x => !x.write).map fun x => (x.region, x.slotNo)) }

/-- The strand that issued a command. -/
def MillCmd.owner (c : MillCmd) (core : Nat) : Sender := { core, slot := c.slot, part := c.part, sup := c.part.isNone }

/-- Changes the strand that issued a command, where it has not ended: it may stand behind a supervisor strand (13 R330). -/
def M.modifyIssuer (core : Nat) (c : MillCmd) (f : Strand → Strand) : M Unit := do
  if !c.dead then modify fun s => s.setSender (c.owner core) (f (s.senderStrand (c.owner core)))

/-- Sets sticky flags in the strand that issued a command (03 R76). -/
def M.millFlags (core : Nat) (c : MillCmd) (fl : Flags) : M Unit := do
  if fl ≠ 0 then M.modifyIssuer core c (·.addFlags fl)

/-- The first `n` bytes of row `r` of the strand's own tile, of its 1,024, in the file or its save area (06 R167). -/
def M.queueTile (a : Agent) (slot i r n : Nat) : M (List Byte) := do
  let s ← get
  let n := min n 1024
  if s.ownsFile a.core slot then
    M.fillTile a slot i
    let x := ((← get).coreAt a.core).tiles.tile i
    return (bytesOf 1024 (tileRow x r).toNat).take n
  else M.areaRead a (s.tsaveaOf a.core slot) i (r * 1024) n

/-- Writes the first bytes of row `r` of the strand's own tile (06 R167). -/
def M.queueTilePut (a : Agent) (slot i r : Nat) (bs : List Byte) : M Unit := do
  let s ← get
  if s.ownsFile a.core slot then
    M.fillTile a slot i
    let x := ((← get).coreAt a.core).tiles.tile i
    let row := bs ++ (bytesOf 1024 (tileRow x r).toNat).drop bs.length
    M.putTile a.core i (setTileRow x r (BitVec.ofNat 8192 (natOfBytes row)))
  else M.areaWrite a (s.tsaveaOf a.core slot) i (r * 1024) bs

/-! ## Planting -/

/-- The alignment groups of one sparsity group: a dense panel has none, and counts 1 (06 R186). -/
def FmtCtx.subGroups (c : FmtCtx) : Nat := if c.spn = 0 then 1 else 64 / c.group

/-- The stored rows of an alignment group of a dense panel, or of a sparsity group of a sparse one (06 R186). -/
def FmtCtx.unitRows (c : FmtCtx) : Nat := if c.spn = 0 then c.group else c.nz

/-- The alignment groups of one tray, each a step of a plant (06 R186, R194). -/
def FmtCtx.trayGroups (c : FmtCtx) : Nat := 256 / c.unitRows * c.subGroups

/-- The element codes of bytes. -/
def codesOf (eb : Nat) (bs : List Byte) : List Nat :=
  (List.range (bs.length / eb)).map fun i => natOfBytes ((bs.drop (i * eb)).take eb)

/-- Where a plant reads: its source, or at a re-plant from tiles the copy slots (06 R184, R185). -/
inductive PlantFrom where
  | source
  | copies
  deriving DecidableEq, Repr

/-- The offset of a stored row of tray `t` in its copy slot: the bytes in the order they were read (06 R184). -/
def copyOffset (request : Word) (nn eb t row : Nat) : Nat :=
  4096 + reqBytes request + t * 65536 + (row - 256 * (t % reqShape request)) * nn * eb

/-- The location of a byte of a lease's save area (06 R177). -/
def Lease.areaKey (l : Lease) (off : Nat) : Nat := l.pages.getD (off / 4096) 0 + off % 4096

/-- Bytes of a lease's save area. -/
def M.areaBytes (l : Lease) (off n : Nat) : M (List Byte) := do
  let s ← get
  (List.range n).mapM fun i => do
    let k := l.areaKey (off + i)
    if s.isPoisoned k 1 then M.trap { code := 0x15, addr := l.save + BitVec.ofNat 64 (off + i) }
    return s.byteAt k

/-- Writes bytes of a lease's save area. -/
def M.areaPut (l : Lease) (off : Nat) (bs : List Byte) : M Unit :=
  modify fun s => bs.zipIdx.foldl (fun s (b, i) => s.writeByte (l.areaKey (off + i)) b) s

/-- The pages of a row in which a byte is needed are read; the bytes of the others stand as zero. -/
def M.readNeeded (a : Agent) (need : Nat → Bool) (off : Nat) : List (Word × Nat) → M (List Byte)
  | [] => pure []
  | (va, n) :: rest => do
    let bs ← if (List.range n).any fun i => need (off + i) then M.readBytes a false [(va, n)] else pure (List.replicate n 0)
    return bs ++ (← M.readNeeded a need (off + n) rest)

/-- The element codes of a stored row that are present in tray `t`, as far as its columns are needed (06 R184).  A tile row has 1,024
bytes: columns beyond them are absent (log entry 28). -/
def M.plantRow (l : Lease) (p : PlantArgs) (fmt : FmtCtx) (a : Agent) (src : PlantFrom) (t row : Nat) (need : Nat → Bool) :
    M (List Nat) := do
  let eb := codeBytes fmt.bCode
  let (nn, c0) := plantCols l.request p.nv t
  if p.kv ≤ row ∨ nn = 0 ∨ (List.range nn).any need = false then return []
  let bs ← match src, p.tile with
    | .copies, true => M.areaBytes l (copyOffset l.request nn eb t row) (min (nn * eb) (1024 - c0 * eb))
    | _, true => do
      let bs ← M.queueTile a l.slot ((p.src.toNat + row / 16) % 8) (row % 16) (c0 * eb + nn * eb)
      pure (bs.drop (c0 * eb))
    | _, false =>
      M.readNeeded a (fun i => need (i / eb)) 0
        (pagesOf (p.src + p.pitch * BitVec.ofNat 64 row + BitVec.ofNat 64 (c0 * eb)) (nn * eb))
  if p.tile && src == .source then M.areaPut l (copyOffset l.request nn eb t row) bs
  return codesOf eb bs

/-- The bytes of the AUX array for columns of tray `t`: row `i` of NV bytes (06 R184, R186). -/
def M.auxRow (l : Lease) (p : PlantArgs) (a : Agent) (t i : Nat) : M (List Nat) := do
  let (nn, c0) := plantCols l.request p.nv t
  if nn = 0 then return []
  let bs ← M.readBytes a false (pagesOf (p.aux + BitVec.ofNat 64 (i * p.nv + c0)) nn)
  return bs.map (·.toNat)

/-- The logical positions of one column's stored rows in a sparsity group, each with whether its index rises from the row before: one
that does not is planted as +0, and one above 63 names no position (06 R186). -/
def sparsePlaces : Option Nat → List Nat → List (Option (Nat × Bool))
  | _, [] => []
  | last, x :: xs =>
    (if x ≤ 63 then some (x, last.all fun y => decide (y < x)) else none) :: sparsePlaces (some x) xs

/-- Some row of a column breaks the index order (06 R186). -/
def sparseBad (ps : List (Option (Nat × Bool))) : Bool := ps.any fun p => p.all fun x => !x.2

/-- A cell joins those of its column: a later cell takes its position, and a cell of +0 for a broken index takes only a position that
has none (06 R186, log entry 28). -/
def addCell (cs : List (Nat × FpVal)) (pos : Nat) (good : Bool) (v : FpVal) : List (Nat × FpVal) :=
  if good then (cs.filter (·.1 != pos)) ++ [(pos, v)]
  else if cs.any (·.1 == pos) then cs
  else cs ++ [(pos, .fin false 0 0)]

/-- Alignment group `u` of a dense panel's tray `t`, by column: its cells and whether it lost bits (03 R74, 06 R184). -/
def M.denseUnit (l : Lease) (p : PlantArgs) (fmt : FmtCtx) (a : Agent) (src : PlantFrom) (t u : Nat) : M (List (PanelGroup × Flags)) := do
  let s0 := 256 * (t % reqShape l.request) + u * fmt.group
  let rows ← (rangeFrom s0 fmt.group).mapM fun row => M.plantRow l p fmt a src t row fun _ => true
  let present := s0 < p.kv ∧ (plantCols l.request p.nv t).1 ≠ 0
  let scales ← if fmt.bmx ∧ present then M.auxRow l p a t (s0 / fmt.group) else pure []
  return (List.range 256).map fun col =>
    let vals := rows.filterMap fun r => (r[col]?).map fun code => scaled (scales[col]?) ((fmt.format fmt.bCode).value code)
    let (grp, lost) := alignGroup 16 (vals.zipIdx.map fun (v, i) => (i, v))
    ({ grp with cells := grp.cells.filter fun c => !c.2.isZero }, flagIf (!lost.isEmpty) flagAL)

/-- Alignment group `u` of a sparse panel's tray `t`, by column: the index rows of its sparsity group are read, and of its stored rows
what has a cell in the alignment group (06 R186, R194). -/
def M.sparseUnit (l : Lease) (p : PlantArgs) (fmt : FmtCtx) (a : Agent) (src : PlantFrom) (t u : Nat) : M (List (PanelGroup × Flags)) := do
  let g := fmt.group
  let sub := u % fmt.subGroups
  let s0 := 256 * (t % reqShape l.request) + u / fmt.subGroups * fmt.nz
  let index ← (rangeFrom s0 fmt.nz).mapM fun row => if row < p.kv then M.auxRow l p a t row else pure []
  let places := (List.range 256).map fun col => sparsePlaces none (index.filterMap fun r => r[col]?)
  let need := fun (i col : Nat) => match (places.getD col []).getD i none with
    | some (x, good) => good && x / g == sub
    | none => false
  let rows ← (List.range fmt.nz).mapM fun i => M.plantRow l p fmt a src t (s0 + i) (need i)
  return (List.range 256).map fun col =>
    let ps := places.getD col []
    let cells := ps.zipIdx.foldl (fun cs (p, i) => match p with
      | some (x, good) =>
        let v := ((rows.getD i [])[col]?).map (fmt.format fmt.bCode).value
        if x / g = sub ∧ (good = false ∨ v.isSome) then addCell cs (x % g) good (v.getD (.fin false 0 0)) else cs
      | none => cs) []
    let (grp, lost) := alignGroup 16 cells
    (grp, flagIf (!lost.isEmpty) flagAL ||| flagIf (sparseBad ps) flagSAT)

/-- One step of a plant: alignment group `u` of tray `t` (06 R184, R186, R194).  It answers the sticky flags. -/
def M.plantUnit (core : Nat) (l : Lease) (p : PlantArgs) (fmt : FmtCtx) (a : Agent) (src : PlantFrom) (t u : Nat) :
    M Flags := do
  let cols ← if fmt.spn = 0 then M.denseUnit l p fmt a src t u else M.sparseUnit l p fmt a src t u
  M.modifyLease core fun l =>
    { l with panel := cols.zipIdx.foldl (fun tab (grp, col) =>
        if grp.1.cells.isEmpty then Tab.drop (panelKey t col u) tab else Tab.set tab (panelKey t col u) grp.1) l.panel }
  return cols.foldl (fun fl c => fl ||| c.2) 0

/-- Records that still govern some tray of theirs (06 R184). -/
def keepRecords : List PlantRec → List PlantRec
  | [] => []
  | r :: rs =>
    let covered := (rangeFrom r.args.t0 r.args.nt).all fun t =>
      rs.any fun x => decide (x.args.t0 ≤ t) && decide (t < x.args.t0 + x.args.nt)
    if covered then keepRecords rs else r :: keepRecords rs

/-- One step of a queued PLANT; whether it has finished (06 R184). -/
def M.plantStep (core : Nat) (l : Lease) (c : MillCmd) (p : PlantArgs) : M Bool := do
  let j := c.progress
  let n := l.fmt.trayGroups
  let fl ← M.plantUnit core l p l.fmt ((← get).cmdAgent core c) .source (p.t0 + j / n) (j % n)
  M.millFlags core c fl
  M.modifyHead core fun c => { c with progress := j + 1 }
  if p.nt * n ≤ j + 1 then
    M.modifyLease core fun l => { l with records := keepRecords (l.records ++ [{ args := p, fmt := l.fmt }]) }
    return true
  else return false

/-! ## Re-planting -/

/-- The slot of a recorded version still holds it (06 R185). -/
def State.stillHolds (s : State) (part : Option Nat) (p : PlantArgs) : Bool :=
  match p.tag, part with
  | .version r v, some q => decide (2 ≤ s.slotState q r p.slotNo) && s.slotVer q r p.slotNo == v.toNat
  | .version _ _, none => false
  | _, _ => true

/-- Replays one record, from its first step (06 R185); `redo` counts the groups planted. -/
def M.replay (core : Nat) (r : PlantRec) : M Unit := do
  let s ← get
  match (s.coreAt core).held with
  | none => pure ()
  | some l =>
    let p := r.args
    let agent := { s.agentOf (core * 4 + l.slot) with mode := p.mode, part := l.part, adopted := p.adopted }
    let agent := match p.tag with
      | .version r _ => { agent with slotFix := some [(r, p.slotNo)] }
      | _ => agent
    M.portOpen agent
    if !s.stillHolds agent.part p then
      M.modifyLease core fun l =>
        { l with trays := l.trays.map fun (i, x) =>
            match x.tag with
            | .version q v =>
              if p.t0 ≤ i ∧ i < p.t0 + p.nt ∧ x.tag = p.tag then (i, { x with tag := .stale q v }) else (i, x)
            | _ => (i, x) }
    let n := r.fmt.trayGroups
    (List.range (p.nt * n)).forM fun j => do
      if j < r.limit.getD (j + 1) then
        M.modifyLease core fun l => { l with redo := j }
        discard (M.plantUnit core l p r.fmt agent .copies (p.t0 + j / n) (j % n))

/-- The offset of an accumulator element in the save area (06 R177). -/
def accOffset (request : Word) (region row col : Nat) : Nat := 4096 + ((region * 16 + row) * reqCols request + col) * 4

/-- The accumulator elements of a lease, as region, row and column. -/
def accPlaces (request : Word) : List (Nat × Nat × Nat) :=
  ((List.range (reqRegions request)).map fun a =>
    ((List.range 16).map fun i => (List.range (reqCols request)).map fun j => (a, i, j)).flatten).flatten

/-- The lease record at the start of the save area (06 R177): the request word, the format context, the progress point of the command
under way, the number of plant records, and from offset 64 the records, 96 bytes each (log entry 50). -/
def Lease.recordBytes (l : Lease) (point : Nat) : List Byte :=
  let ctx := fun (f : FmtCtx) => bytesOf 8 f.word.toNat ++ f.nfmt.toList.flatMap fun x => bytesOf 8 x.toNat
  let tag := fun (t : TrayTag) => match t with
    | .none => (0, 0, 0)
    | .version r v => (1, r, v.toNat)
    | .stale r v => (2, r, v.toNat)
  let one := fun (r : PlantRec) =>
    let p := r.args
    let g := tag p.tag
    bytesOf 8 p.src.toNat ++ bytesOf 8 p.pitch.toNat ++ bytesOf 4 p.kv ++ bytesOf 4 p.nv ++ bytesOf 8 p.aux.toNat ++ bytesOf 1 p.t0 ++
      bytesOf 1 p.nt ++ bytesOf 1 (if p.tile then 1 else 0) ++ bytesOf 1 p.mode.code ++ bytesOf 1 g.1 ++ bytesOf 1 g.2.1 ++
      bytesOf 1 p.slotNo ++ bytesOf 1 (if p.adopted.isSome then 1 else 0) ++ bytesOf 4 g.2.2 ++ bytesOf 4 ((p.adopted.map (·.toNat)).getD 0) ++
      bytesOf 4 (r.limit.getD 0xFFFFFFFF) ++ bytesOf 4 0 ++ ctx r.fmt
  bytesOf 8 l.request.toNat ++ ctx l.fmt ++ bytesOf 8 point ++ bytesOf 8 l.records.length ++ (l.records.take 42).flatMap one

/-- The format context in the lease record. -/
def M.areaFmt (l : Lease) : M FmtCtx := do
  let word := fun (i : Nat) => do return (BitVec.ofNat 64 (natOfBytes (← M.areaBytes l (8 + 8 * i) 8)) : Word)
  return { word := ← word 0, nfmt := #v[← word 1, ← word 2, ← word 3, ← word 4] }

/-- Re-planting: the records in order, then the accumulators and the format context where they lie in the save area (06 R179,
R185). -/
def M.replant (core : Nat) : M Unit := do
  match ((← get).coreAt core).held with
  | none => pure ()
  | some l =>
    M.modifyLease core fun l => { l with panel := [] }
    l.records.forM (M.replay core)
    if l.inArea then
      let vs ← (accPlaces l.request).mapM fun (a, i, j) => do
        return ((a, i, j), natOfBytes (← M.areaBytes l (accOffset l.request a i j) 4))
      let fmt ← M.areaFmt l
      M.modifyLease core fun l =>
        { vs.foldl (fun l ((a, i, j), v) => l.setAcc a i j v) { l with acc := [] } with inArea := false, fmt }
    M.modifyLease core fun l => { l with replant := false }

/-! ## Products -/

/-- The groups of an A row: its elements with their scales and signs, aligned (03 R73, R74, 06 R187). -/
def aGroups (fmt : FmtCtx) (depth : Nat) (neg : Bool) (bs : List Byte) : List (PanelGroup × List Nat) :=
  let f := fmt.format fmt.aCode
  let eb := codeBytes fmt.aCode
  let codes := codesOf eb (bs.take (depth * eb))
  let scale := fun gi => if fmt.amx then some ((bs.getD (depth * eb + gi) 0).toNat) else none
  (List.range ((depth + fmt.group - 1) / fmt.group)).map fun gi =>
    let vs := ((codes.drop (gi * fmt.group)).take fmt.group).map fun c => scaled (scale gi) (f.value c)
    alignGroup fmt.width ((vs.map fun v => if neg then v.negate else v).zipIdx.map fun (v, i) => (i, v))

/-- Group `gi` of column `j` of the panel. -/
def Lease.groupAt (l : Lease) (fmt : FmtCtx) (gi j : Nat) : PanelGroup :=
  let per := fmt.trayGroups
  Tab.get {} l.panel (panelKey (j / 256 * reqShape l.request + gi / per) (j % 256) (gi % per))

/-- One row of a product: the new accumulators of the columns, and the flags (06 R187). -/
def Lease.product (l : Lease) (acc row : Nat) (cols : List Nat) (neg za : Bool) (bs : List Byte) : List Nat × Flags :=
  let fmt := l.fmt
  let gs := aGroups fmt (fmt.depth l.request) neg bs
  let sparse := fmt.spn ≠ 0
  let column := fun j =>
    gs.zipIdx.foldl (fun (x : Nat × Flags) (g, gi) =>
      let b := l.groupAt fmt gi j
      let (gv, f1) := groupValue sparse fmt.group fmt.width g.1 b
      let (v, f2) := accumulate x.1 gv
      let lost := g.2.any fun k => !sparse || (b.at k).2
      (v, x.2 ||| f1 ||| f2 ||| flagIf lost flagAL)) (if za then 0 else l.accAt acc row j, (0 : Flags))
  let out := cols.map column
  (out.map (·.1), out.foldl (fun fl x => fl ||| x.2) 0)

/-- The columns of a range of blocks. -/
def blockCols (c0 nc : Nat) : List Nat := rangeFrom (c0 * 256) (nc * 256)

/-- One row of MMA or MMAS; whether it has finished. -/
def M.mmaStep (core : Nat) (l : Lease) (c : MillCmd) (acc c0 nc rows : Nat) (neg za : Bool) (read : Nat → Nat → M (List Byte)) :
    M Bool := do
  let i := c.progress
  let bs ← read i (l.fmt.rowBytes l.request)
  let (vs, fl) := l.product acc i (blockCols c0 nc) (neg || bitAt l.fmt.word 32) (za || bitAt l.fmt.word 33) bs
  M.modifyLease core fun l => l.setRow acc i (c0 * 256) vs
  M.millFlags core c fl
  M.modifyHead core fun c => { c with progress := i + 1 }
  return decide (rows ≤ i + 1)

/-! ## Drains -/

/-- A row converted: its bytes and flags (06 R189). -/
def Lease.drainRow (l : Lease) (acc row : Nat) (cols : List Nat) : List Byte × Flags :=
  let (f, eb) := l.fmt.drain
  let xs := cols.map fun j => fpDeliver f l.fmt.drnd 0 (fp32.value (l.accAt acc row j)).raw
  ((xs.map fun x => bytesOf eb x.1).flatten, xs.foldl (fun fl x => fl ||| x.2) 0)

/-- The lease with a row cleared where CLR says so. -/
def Lease.clearRow (l : Lease) (clr : Bool) (acc row : Nat) (cols : List Nat) : Lease :=
  if clr then cols.foldl (fun l j => l.setAcc acc row j 0) l else l

/-- A token status word (09 R252). -/
def tokenWord (status seq bytes : Nat) : Word :=
  BitVec.ofNat 64 (2 ^ 63 + status * 2 ^ 56 + seq % 65536 * 2 ^ 40 + bytes % 2 ^ 40)

/-- A token's status word reaches its register, whose mark it clears (09 R252, R253). -/
def State.giveToken (s : State) (core slot : Nat) (part : Option Nat) (reg : Reg) (w : Word) : State :=
  let m : Sender := { core, slot, part, sup := part.isNone }
  let t := s.senderStrand m
  if t.mark reg = .waiting .token then s.setSender m (t.writeG reg w) else s

/-- One row of MDRAIN, or its completion once its writes are performed; whether it has finished. -/
def M.drainStep (core : Nat) (l : Lease) (c : MillCmd) (acc c0 nc rows : Nat) (clr : Bool) (token : Reg)
    (write : Nat → List Byte → M (List Nat)) : M Bool := do
  let i := c.progress
  if rows ≤ i then
    if !c.dead then
      modify fun s => s.giveToken core c.slot c.part token (tokenWord 0 c.seq (rows * nc * 256 * l.fmt.drain.2))
    return true
  else
    let cols := blockCols c0 nc
    let (bs, fl) := l.drainRow acc i cols
    let sent ← write i bs
    M.modifyLease core fun l => l.clearRow clr acc i cols
    M.millFlags core c fl
    M.modifyHead core fun c => { c with progress := i + 1, after := sent }
    return false

/-- The sender of a command's messages. -/
def MillCmd.sender (c : MillCmd) (core cid : Nat) : Sender := { core, slot := c.slot, cid, part := c.part }

/-- The command reads or writes memory, and waits for its core's port to be open to its traffic (14 R364). -/
def MillOp.moves : MillOp → Bool
  | .plant _ | .mma .. | .mmas .. | .drainAddr .. | .drainTile .. => true
  | _ => false

/-- One step of the command at the head of q3, under the lease; whether it has finished (06 R193). -/
def M.millStep (core : Nat) (l : Lease) (c : MillCmd) : M Bool := do
  let a := (← get).cmdAgent core c
  if c.op.moves then M.portOpen a
  match c.op with
  | .release =>
    modify fun s =>
      let x := s.coreAt core
      s.setCore core { x with leases := promote x.merging (s.cyclesOf core) (x.leases.eraseP (·.isHeld)) }
    return true
  | .mfmt f =>
    M.modifyLease core fun l => { l with fmt := f }
    return true
  | .plant p => M.plantStep core l c p
  | .mma acc tile c0 nc rows neg za =>
    M.mmaStep core l c acc c0 nc rows neg za fun i n => M.queueTile a c.slot tile i n
  | .mmas acc addr pitch c0 nc rows neg za =>
    M.mmaStep core l c acc c0 nc rows neg za fun i n => M.readBytes a false (pagesOf (rowAddr addr pitch i) n)
  | .mzero acc =>
    M.modifyLease core fun l => { l with acc := l.acc.filter fun x => x.1 / 16384 / 16 ≠ acc }
    return true
  | .drainAddr addr pitch acc c0 nc rows clr token =>
    M.drainStep core l c acc c0 nc rows clr token fun i bs =>
      M.bulkSend { a with plain := true } (c.sender core a.cid) l.prio (rowAddr addr pitch i) bs
  | .drainTile tile acc c0 nc rows clr token =>
    M.drainStep core l c acc c0 nc rows clr token fun i bs => do
      M.queueTilePut a c.slot tile i bs
      return []
  | .mchain v acc row col clr =>
    let cols := blockCols col 1
    let x := BitVec.ofNat 8192 (packElems 32 (fun j => l.accAt acc row (col * 256 + j)) 256)
    M.modifyIssuer core c fun t => { t with vland := t.vland ++ [(v, x)] }
    M.modifyLease core fun l => l.clearRow clr acc row cols
    return true
  | .mcoll e acc rows clr =>
    let i := c.progress
    if i < rows then
      let cols := blockCols 0 (reqCols l.request / 256)
      let (bs, fl) := l.drainRow acc i cols
      M.modifyLease core fun l => l.clearRow clr acc i cols
      M.millFlags core c fl
      M.modifyHead core fun c =>
        { c with progress := i + 1, op := .mcoll { e with data := some (e.data.getD [] ++ bs) } acc rows clr }
      return false
    else
      let x := (← get).coreAt core
      if 16 ≤ (x.queues[2]).length then M.wait
      let n := x.qseq[2]
      modify fun s => s.setCore core
        { x with queues := x.queues.set 2 (x.queues[2] ++ [{ e with seq := n, dead := c.dead }]),
                 qseq := x.qseq.set 2 ((n + 1) % 65536) }
      return true

/-- The command's fn (06 R194). -/
def MillOp.fn : MillOp → Nat
  | .release => 1
  | .mfmt _ => 2
  | .plant _ => 3
  | .mma .. => 4
  | .mmas .. => 5
  | .mzero _ => 6
  | .drainAddr .. | .drainTile .. => 7
  | .mchain .. => 8
  | .mcoll .. => 9

/-- The budget of a lease is spent (06 R179). -/
def Lease.spent (l : Lease) (cycles : Nat) : Bool :=
  if bitAt l.request 32 then decide (l.since + reqBudget l.request ≤ cycles) else l.left == 0

/-- The number of a strand's fault record in a queue: a supervisor strand, which belongs to no partition, has its own (09 R260, 13
R330). -/
def faultKey (slot q : Nat) (part : Option Nat) : Nat := (if part.isNone then 4 else slot) * 4 + q

/-- A fault record (09 R260): the address, and the .fcause word. -/
def faultRec (e : Exc) (seq : Nat) : Word × Nat := (e.addr, seq % 65536 * 2 ^ 48 + e.code % 256)

/-- q3 halts at a failing command, for MILL_ROW (06 R194), and the failure is recorded for QSTAT (09 R260); a command whose strand has
ended is abandoned. -/
def State.millFault (s : State) (core slot fn j seq : Nat) (part : Option Nat) (dead : Bool) (e : Exc) : State :=
  let c := s.coreAt core
  if dead then s.setCore core { c with q3 := c.q3.drop 1 }
  else
    let info := BitVec.ofNat 64 (fn + e.code % 256 * 2 ^ 8 + j % 2 ^ 16 * 2 ^ 16 + seq % 2 ^ 16 * 2 ^ 32)
    s.setCore core { c with halt := some { slot, sup := part.isNone, addr := e.addr, info },
                            qfaults := Tab.set c.qfaults (faultKey slot 3 part) (faultRec e seq) }

/-- A part of the mill's work, run beside the strands: the state it leaves, and its answer or how it stops. -/
def State.runEngine {α : Type} (s : State) (m : M α) : Except Stop α × State := m.run.run s

/-- MILL_COMMAND_PERFORM: the next step of a granted lease: its re-plant, or the head of q3 (06 R193).  A fault of a re-plant or restore
is reported with the number of the command at the head of q3, or where there is none with the next one to be given (R196, log
entry 28). -/
def State.millPerform (s : State) (core : Nat) : State :=
  let c := s.coreAt core
  match c.held with
  | none => s
  | some l =>
    if l.status ≠ .granted ∨ c.halt.isSome then s
    else if l.replant then
      match s.runEngine (M.asStrand (core * 4 + l.slot) (M.replant core)) with
      | (.ok _, s1) => s1
      | (.error .wait, _) => s
      | (.error (.trap e), s1) =>
        if c.q3.any (·.dead) then s1.setCore core ((s1.coreAt core).mapHeld fun l => { l with replant := false })
        else
        let j := ((s1.coreAt core).held.map (·.redo)).getD 0
        s1.millFault core l.slot 3 j ((c.q3.head?.map (·.seq)).getD (c.qseq[3])) l.part false e
    else match c.q3 with
      | [] => s
      | x :: _ =>
        if (l.spent (s.cyclesOf core) && x.progress == 0) || !s.allPerformed x.after then s
        else match s.runEngine (M.asStrand (core * 4 + x.slot) (M.millStep core l x)) with
          | (.error .wait, _) => s
          | (.error (.trap e), s1) => s1.millFault core x.slot x.op.fn x.progress x.seq x.part x.dead e
          | (.ok false, s1) => s1
          | (.ok true, s1) =>
            let c := (s1.coreAt core).mapHeld fun l =>
              if bitAt l.request 32 then l else { l with left := l.left - 1 }
            s1.setCore core { c with q3 := c.q3.drop 1 }

/-- The rows, column blocks and token of an MDRAIN. -/
def MillOp.drains : MillOp → Option (Nat × Nat × Reg)
  | .drainAddr _ _ _ _ nc rows _ token | .drainTile _ _ _ nc rows _ token => some (rows, nc, token)
  | _ => none

/-- The MDRAIN at the head of a departed context's q3 has written all of its rows: its token is to be given (06 R195). -/
def State.drainOver (s : State) (d : Departed) : Option (Lease × MillCmd × Nat × Reg) :=
  match d.lease, d.q3 with
  | some l, x :: _ => match x.op.drains with
    | some (rows, nc, token) =>
      if rows ≤ x.progress ∧ s.allPerformed x.after then some (l, x, rows * nc * 256 * l.fmt.drain.2, token) else none
    | none => none
  | _, _ => none

/-- An MDRAIN of a departed context that has written all of its rows completes, and its token reaches the register image (06 R195, 13
R344). -/
def State.millDeparted (s : State) (core : Nat) : State :=
  (List.range (s.coreAt core).departed.length).foldl (fun s i =>
    match (s.coreAt core).departed[i]? with
    | none => s
    | some d => match s.drainOver d with
      | none => s
      | some (l, x, bytes, token) =>
        let l := if bitAt l.request 32 then l else { l with left := l.left - 1 }
        let c := s.coreAt core
        let s := s.setCore core { c with departed := c.departed.set i { d with q3 := d.q3.drop 1, lease := some l } }
        if x.dead ∨ token = 0 then s else s.owe (x.sender core d.cid) x.slot token .token (tokenWord 0 x.seq bytes) none) s

/-- A lease's displacement: its record and accumulators go to the save area, its trays and memory are freed, and it waits as a request
of age 0 with the priority that MLEASE read (06 R179, log entry 28).  A plant in progress is recorded as far as it has come. -/
def M.displace (core : Nat) : M Unit := do
  let s ← get
  match (s.coreAt core).held with
  | none => pure ()
  | some l =>
    M.areaPut l 0 (l.recordBytes ((((s.coreAt core).q3.head?).map (·.progress)).getD 0))
    (accPlaces l.request).forM fun (a, i, j) => M.areaPut l (accOffset l.request a i j) (bytesOf 4 (l.accAt a i j))
    M.modifyLease core fun l =>
      { l with status := .contending, displaced := true, joined := s.cyclesOf core, panel := [], acc := [], inArea := true }

/-- The lease's records with a plant in progress among them (06 R195). -/
def Core.stopPlant (c : Core) : Core :=
  match c.q3 with
  | { op := .plant p, progress := j, .. } :: _ =>
    if j = 0 then c
    else c.mapHeld fun l => { l with records := l.records ++ [{ args := p, fmt := l.fmt, limit := some j }] }
  | _ => c

/-- BUDGET_EXPIRY: a spent budget is renewed, or the lease is displaced for a waiting request that needs its trays or memory
and ranks ahead (06 R179). -/
def State.budgetExpiry (s : State) (core : Nat) : State :=
  let c := s.coreAt core
  match c.held with
  | none => s
  | some l =>
    let busy := c.halt.isNone && c.q3.any (fun x => x.progress != 0)
    if l.status ≠ .granted ∨ l.spent (s.cyclesOf core) = false ∨ l.replant = true ∨ busy = true then s
    else
      let cl := clusterOf core
      let me : Nat × Lease := (core, { l with joined := s.cyclesOf core, prio := (s.senderStrand (l.owner core)).prio })
      let ahead := (s.contenders cl).any fun y => !s.fits cl y.2.request && leaseAhead (s.cyclesOf core) y me
      if ahead then (s.setCore core c.stopPlant).runEngine (M.displace core) |>.2
      else s.setCore core (c.mapHeld fun l => l.renew (s.cyclesOf core))

/-- MCHAIN_LANDING: the slice lands in v[reg], whose mark it clears (06 R190). -/
def State.mchainLanding (s : State) (k : Nat) (reg : Reg) : State :=
  let t := s.strandAt k
  match t.vland.find? (·.1 == reg) with
  | none => s
  | some (_, x) =>
    s.setStrand k { t.writeV reg x with
      vpend := t.vpend &&& ~~~(1#32 <<< reg.toNat), vland := t.vland.filter fun y => y.1 != reg }

/-- MILL_COMMAND_PERFORM (06 R193, R195). -/
def execMillCommandPerform (core : Nat) (s : State) : Out := .next ((s.millDeparted core).millPerform core)
/-- LEASE_GRANT (06 R178). -/
def execLeaseGrant (cluster : Nat) (s : State) : Out := .next (s.leaseGrant cluster)
/-- BUDGET_EXPIRY (06 R179). -/
def execBudgetExpiry (core : Nat) (s : State) : Out := .next (s.budgetExpiry core)
/-- MCHAIN_LANDING (06 R190). -/
def execMchainLanding (k : Nat) (reg : Reg) (s : State) : Out := .next (s.mchainLanding k reg)

end Sys2Proof.Machine
end

