-- ==== Sys2Proof/Machine/Queue.lean ====
section
/-!
DEFINITION. Machine/Queue.lean: the copy and collective queues: requests and their checks (09 R242 to R250), the queue
instructions (R257 to R260), the chunks of an entry (R254, 18 R406) and collectives (R261, R262).
-/

namespace Sys2Proof.Machine

/-! ## Requests -/

/-- The fields of request word 0 (09 R242). -/
def reqKind (w : Word) : Nat := bitsNat w 63 56
def reqQueue (w : Word) : Nat := bitsNat w 55 52
def reqFields (w : Word) : Nat := bitsNat w 51 48
def reqBen (w : Word) : Bool := bitAt w 47
def reqBid (w : Word) : Nat := bitsNat w 42 32
def reqLength (w : Word) : Nat := bitsNat w 31 0

/-- The permutation entry of field `f` (09 R246). -/
def segPerm (w3 : Word) (f : Nat) : Nat := bitsNat w3 (10 + 3 * f) (8 + 3 * f)

/-- The element size of a segment copy (09 R246). -/
def segSize (w3 : Word) : Nat := 2 ^ bitsNat w3 1 0

/-- Word 3 and LENGTH keep the limits of a segment kind (09 R246). -/
def segGood (w0 w3 : Word) : Bool :=
  let n := reqFields w0
  let ps := (List.range 8).map (segPerm w3)
  decide (2 ≤ n) && decide (n ≤ 8) && bitsNat w3 7 2 == 0 && bitsNat w3 63 32 % segSize w3 == 0 &&
    (ps.take n).all (· < n) && (ps.take n).eraseDups.length == n && (ps.drop n).all (· == 0) &&
    reqLength w0 % (n * segSize w3) == 0

/-- Word 3 keeps the limits of a collective (09 R261). -/
def collGood (kind : Nat) (w3 : Word) : Bool :=
  bitsNat w3 63 14 == 0 && !bitAt w3 7 && decide (bitsNat w3 11 8 ≤ 5) && (bitAt w3 6 || bitsNat w3 5 0 == 0) &&
    (bitsNat w3 13 12 == 3) == (kind == 0x11)

/-- Words 0 and 3 of a request keep every limit that they alone decide (09 R242 to R250, R261). -/
def requestGood (domain : Nat) (w0 w3 : Word) : Bool :=
  let kind := reqKind w0
  let coll := kind == 0x10 || kind == 0x11
  bitsNat w0 46 43 == 0 && (reqBen w0 || reqBid w0 == 0) && (if coll then reqQueue w0 == 2 else decide (reqQueue w0 ≤ 1)) &&
    (kind == 5 || kind == 6 || (kind == 7 && decide (reqFields w0 ≤ 12)) || reqFields w0 == 0) &&
    match kind with
    | 0x01 | 0x08 => w3 == 0
    | 0x02 => bitsNat w3 63 48 != 0
    | 0x03 | 0x04 => bitsNat w3 63 60 == 0
    | 0x05 | 0x06 => segGood w0 w3
    | 0x07 => bitsNat w3 1 0 == 0
    | 0x10 | 0x11 => collGood kind w3
    | 0x20 => bitsNat w3 63 32 == 0 && bitsNat w3 15 4 == 0 && bitsNat w3 2 0 != domain
    | _ => false

/-- The group that a collective names: the strand's gang, or a barrier domain that holds its core (09 R261, R262). -/
def State.groupOf (s : State) (w3 : Word) : Option CollGroup :=
  if bitAt w3 6 then
    let ms := s.domainOf s.myCoreNo (bitsNat w3 5 0)
    if ms.contains s.myCoreNo then
      some { gang := none, index := bitsNat w3 5 0, cores := ms, rank := ms.findIdx (· == s.myCoreNo), count := ms.length }
    else none
  else if s.me.gang = 0xFFFF then none
  else some { gang := some s.me.gang, cores := [], rank := s.me.member, count := s.me.sizem1 + 1 }

/-- An entry of the strand that moves (09 R241). -/
def State.newEntry (s : State) (w0 w1 w2 w3 : Word) (token : Reg) (targets : Option (List Nat)) : QEntry :=
  let a := s.myAgent
  { w0, w1, w2, w3, slot := s.mySlotNo, token, prio := s.me.prio, mode := a.mode, cid := a.cid, part := a.part,
    ptbase := a.ptbase, adopted := a.adopted, targets, slots := s.noteSlots a,
    coll := if reqKind w0 = 0x10 ∨ reqKind w0 = 0x11 then s.groupOf w3 else none, after := s.outstanding s.cur }

/-- An entry joins a queue of the core with the queue's next sequence number, and its token is marked (09 R238, R253). -/
def M.enqueue (q : Fin 3) (e : QEntry) : M Unit := do
  let s ← get
  let c := s.myCore
  let i : Fin 4 := q.castSucc
  let n := c.qseq[i]
  set (s.setMyCore { c with queues := c.queues.set q (c.queues[q] ++ [{ e with seq := n }]),
                            qseq := c.qseq.set i ((n + 1) % 65536) })
  M.modifyMe fun t => t.setMark e.token (.waiting .token)

/-- The four registers of a request. -/
def reqRegs (a : Reg) : List Reg := [a, a + 1, a + 2, a + 3]

/-- The queue of a request. -/
def queueOf (w0 : Word) : Fin 3 := if reqQueue w0 = 0 then 0 else if reqQueue w0 = 1 then 1 else 2

/-- CPQ and CPQT (09 R257). -/
def copyRequest (w : IWord) (busy : Bool) (d a : Reg) : State → Out :=
  unitIssue w (reqRegs a) [d] (runM do
    let s ← get
    let t := s.me
    let w0 := t.readG a
    let w3 := t.readG (a + 3)
    if !requestGood s.domain w0 w3 then M.illegal w 3
    let q := queueOf w0
    if 16 ≤ (s.myCore.queues[q]).length then
      if !busy then M.wait
      M.modifyMe fun t => t.writeG d 0x8200000000000000
      M.done
    else
      M.enqueue q (s.newEntry w0 (t.readG (a + 1)) (t.readG (a + 2)) w3 d none)
      M.done)

/-- CPQ (09 R257). -/
def execCpq (d a : Reg) (s : State) : Out := copyRequest (rrWord 0x2F d a 0 0 0) false d a s
/-- CPQT (09 R257). -/
def execCpqt (d a : Reg) (s : State) : Out := copyRequest (rrWord 0x2F d a 0 0 1) true d a s

/-- The entry is one of the strand that stands in a slot now: of a supervisor strand those of no partition (09 R238, 13 R330). -/
def QEntry.isOf (e : QEntry) (slot : Nat) (sup : Bool) : Bool := e.slot == slot && e.part.isNone == sup && !e.dead

/-- The same of a mill command. -/
def MillCmd.isOf (x : MillCmd) (slot : Nat) (sup : Bool) : Bool := x.slot == slot && x.part.isNone == sup && !x.dead

/-- The strand has an entry in one of the queues that a mask names (09 R259); those of a supervisor strand may stand in the queues
of a context that has departed since. -/
def Core.hasEntries (c : Core) (slot : Nat) (sup : Bool) (mask : Nat) : Bool :=
  let sets := c.queues :: (if sup then c.departed.map (·.queues) else [])
  ([0, 1, 2].any fun i => mask.testBit i && sets.any fun v => (v.toList.getD i []).any (·.isOf slot sup)) ||
    (mask.testBit 3 && c.q3.any (·.isOf slot sup))

/-- QFENCE (09 R259). -/
def execQfence (m : BitVec 4) (s : State) : Out :=
  unitIssue (rrWord 0x2F 0 0 0 (m.setWidth 7) 2) [] [] (runM do
    let s ← get
    if s.myCore.hasEntries s.mySlotNo s.amSup m.toNat then M.wait
    M.done) s

/-- The entries of a queue, each with whether it is of the strand in a slot, and its sequence number. -/
def Core.entries (c : Core) (q slot : Nat) (sup : Bool) : List (Bool × Nat) :=
  if q = 3 then c.q3.map fun x => (x.isOf slot sup, x.seq)
  else (c.queues.toList.getD q []).map fun x => (x.isOf slot sup, x.seq)

/-- QSTAT.occ (09 R260). -/
def execQstatOcc (d : Reg) (q : BitVec 2) (s : State) : Out :=
  unitIssue (rrWord 0x2F d 0 0 (q.setWidth 7) 3) [] [d] (fun s =>
    let es := s.myCore.entries q.toNat s.mySlotNo s.amSup
    let mine := (es.filter (·.1)).length
    let seq := match es with
      | [] => s.myCore.qseq.toList.getD q.toNat 0
      | e :: _ => e.2
    complete (fun t => t.writeG d (BitVec.ofNat 64 (mine * 2 ^ 56 + es.length * 2 ^ 48 + seq % 65536 * 2 ^ 16))) s) s

/-- The strand's fault record in a queue (09 R260): the address, and the .fcause word. -/
def State.faultRecord (s : State) (q : Nat) : Word × Nat :=
  Tab.get (0, 0) s.myCore.qfaults (faultKey s.mySlotNo q (if s.amSup then none else some s.myCore.part))

/-- QSTAT.faddr (09 R260). -/
def execQstatFaddr (d : Reg) (q : BitVec 2) (s : State) : Out :=
  unitIssue (rrWord 0x2F d 0 0 (0#3 ++ 1#2 ++ q) 3) [] [d] (fun s =>
    complete (fun t => t.writeG d (s.faultRecord q.toNat).1) s) s

/-- QSTAT.fcause (09 R260). -/
def execQstatFcause (d : Reg) (q : BitVec 2) (s : State) : Out :=
  unitIssue (rrWord 0x2F d 0 0 (0#3 ++ 2#2 ++ q) 3) [] [d] (fun s =>
    complete (fun t => t.writeG d (BitVec.ofNat 64 (s.faultRecord q.toNat).2)) s) s

/-- The cores that a GCAST writes: each distinct core of a named member but the issuing one, in ascending member order (09
R258, 12 R308). -/
def State.castTargets (s : State) (mask : Word) : List Nat :=
  let g := s.gangs.find? fun g => some g.part == s.myPart && g.handle == s.me.gang
  let members := (g.map (·.members)).getD []
  (((List.range 64).filter (bitAt mask ·)).filterMap fun k => (members.find? (·.1 == k)).map fun x => x.2 / 4).eraseDups.filter
    (· != s.myCoreNo)

/-- GCAST (09 R258). -/
def execGcast (d a b : Reg) (s : State) : Out :=
  let w := rrWord 0x2F d a b 0 4
  unitIssue w [a, a + 1, b] [d] (runM do
    let s ← get
    let t := s.me
    let src := t.readG a
    let w0 := t.readG (a + 1)
    let mask := t.readG b
    let bad := bitsNat w0 63 48 ≠ 0 ∨ bitsNat w0 46 43 ≠ 0 ∨ (reqBen w0 = false ∧ reqBid w0 ≠ 0) ∨ t.gang = 0xFFFF ∨
      mask.toNat / 2 ^ (t.sizem1 + 1) ≠ 0 ∨ spaceOf src ≠ .scratch ∨ localCore src ≠ s.myCoreNo ∨
      2 ^ 20 < localOff src + reqLength w0
    if bad then M.illegal w 3
    if 16 ≤ (s.myCore.queues[0]).length then M.wait
    M.enqueue 0 (s.newEntry w0 src 0 0 d (some (s.castTargets mask)))
    M.done) s

/-- MCOLL (06 R191). -/
def execMcoll (d a : Reg) (b : TileReg) (r : BitVec 4) (c : Bool) (s : State) : Out :=
  let w := tmWord 0x2B d a (0#2 ++ b) (r ++ BitVec.ofBool c ++ 0#2) 9
  unitIssue w (reqRegs a) [d] (runM do
    let l ← M.lease 9
    let s ← get
    let t := s.me
    let w0 := t.readG a
    let w3 := t.readG (a + 3)
    if reqRegions l.request ≤ b.toNat then M.trap (leaseExc 3 9)
    let rows := r.toNat + 1
    let eb := (s.myCore.issueFmt l).drain.2
    if (reqKind w0 ≠ 0x10 ∧ reqKind w0 ≠ 0x11) ∨ reqQueue w0 ≠ 2 ∨ reqLength w0 ≠ rows * reqCols l.request * eb then
      M.trap (leaseExc 9 9)
    if !requestGood s.domain w0 w3 then M.illegal w 3
    M.enqueue3 (.mcoll { s.newEntry w0 (t.readG (a + 1)) (t.readG (a + 2)) w3 d none with after := [] } b.toNat rows c) true
    M.modifyMe fun t => t.setMark d (.waiting .token)
    M.done) s

/-! ## Segments of an entry -/

/-- What a piece of an entry takes its bytes from: memory, the pattern of a fill from a byte on, a permuted record from a
byte on, the tile's fill value, or nothing is moved (09 R245 to R251). -/
inductive Src where
  | mem (va : Word)
  | pattern (i : Nat)
  | index (i off : Nat)
  | fill (off : Nat)
  | remote
  deriving DecidableEq, Repr

/-- The source `n` bytes further on. -/
def Src.skip (x : Src) (n : Nat) : Src :=
  match x with
  | .mem va => .mem (va + BitVec.ofNat 64 n)
  | .pattern i => .pattern (i + n)
  | .index i off => .index i (off + n)
  | .fill off => .fill (off + n)
  | .remote => .remote

/-- A run of bytes at one destination: none where it lies in another module. -/
structure Piece where
  dst   : Option Word
  src   : Src
  n     : Nat
  plane : Nat := 0
  deriving DecidableEq, Repr

/-- The signed value of a 24-bit pitch (09 R243). -/
def pitch24 (n : Nat) : Word := sextNat 24 n

/-- A tensor descriptor as it was read (09 R250). -/
def descField (d : List Byte) (off n : Nat) : Nat := natOfBytes ((d.drop off).take n)

/-- The rank of a descriptor. -/
def descRank (d : List Byte) : Nat := descField d 8 1

/-- The element size of a descriptor: that of its et code (09 R250, 02 R38). -/
def descSize (d : List Byte) : Nat := (Et.ofCode (BitVec.ofNat 3 (descField d 9 1))).bytes

/-- Extent and stride of dimension `i`. -/
def descExtent (d : List Byte) (i : Nat) : Nat := descField d (24 + 16 * i) 8
def descStride (d : List Byte) (i : Nat) : Int := signedOf 64 (descField d (32 + 16 * i) 8)

/-- The box extent and the tile index of dimension `i` (09 R250). -/
def QEntry.box (e : QEntry) (i : Nat) : Nat := if i < 4 then bitsNat e.w0 (8 * i + 7) (8 * i) + 1 else 1
def QEntry.tileIndex (e : QEntry) (i : Nat) : Int := signedOf 12 (bitsNat e.w3 (12 * i + 11) (12 * i))

/-- The descriptor keeps its limits, and the request those that depend on the rank (09 R250). -/
def QEntry.descGood (e : QEntry) : Bool :=
  let d := e.desc
  let r := descRank d
  let sz := descSize d
  decide (1 ≤ r) && decide (r ≤ 5) && decide (descField d 9 1 < 8) && descField d 10 6 == 0 && descField d 104 24 == 0 &&
    (List.range 5).all fun i =>
      if i < r then
        decide (1 ≤ descExtent d i) && decide (descExtent d i < 2 ^ 32) && descStride d i % sz == 0 &&
          (i != 0 || descStride d 0 == sz)
      else
        descExtent d i == 0 && descStride d i == 0 && e.box i == 1 && e.tileIndex i == 0

/-- The number of elements of the box (09 R250). -/
def QEntry.boxCount (e : QEntry) : Nat := e.box 0 * e.box 1 * e.box 2 * e.box 3

/-- Nominal bytes of a tile (09 R250). -/
def QEntry.nominal (e : QEntry) : Nat := e.boxCount * descSize e.desc

/-- The tensor address of box element `p`, where it is in range (09 R250, R251). -/
def QEntry.elemAddr (e : QEntry) (p : Nat) : Option Word :=
  let o := [p % e.box 0, p / e.box 0 % e.box 1, p / (e.box 0 * e.box 1) % e.box 2, p / (e.box 0 * e.box 1 * e.box 2), 0]
  let c := o.zipIdx.map fun (x, i) => e.tileIndex i * (e.box i : Int) + (x : Int)
  let dims := (c.zipIdx).take (descRank e.desc)
  if dims.all fun (x, i) => decide (0 ≤ x) && decide (x < (descExtent e.desc i : Int)) then
    some (wordOfInt ((descField e.desc 0 8 : Int) + (dims.map fun (x, i) => x * descStride e.desc i).foldl (· + ·) 0))
  else none

/-- The entry is of a tile kind (09 R243). -/
def QEntry.isTile (e : QEntry) : Bool := e.targets.isNone && (reqKind e.w0 == 3 || reqKind e.w0 == 4)

/-- The number of segments of an entry in destination order (09 R254).  A LENGTH of 0 has none (R245), but in a tile kind, whose LENGTH is
the shape of its box (R250, log entry 29). -/
def QEntry.segCount (e : QEntry) : Nat :=
  let len := reqLength e.w0
  if len = 0 ∧ e.isTile = false then 0
  else match e.targets with
    | some cores => cores.length
    | none => match reqKind e.w0 with
      | 0x02 => bitsNat e.w3 63 48
      | 0x03 | 0x04 => e.boxCount
      | 0x05 | 0x06 => len / segSize e.w3
      | 0x07 => len
      | _ => 1

/-- Segment `i` of an entry; none where nothing is moved for it (09 R245 to R251, R258). -/
def QEntry.segment (e : QEntry) (i : Nat) : Option Piece :=
  let len := reqLength e.w0
  let plus := fun (w : Word) (n : Nat) => w + BitVec.ofNat 64 n
  match e.targets with
  | some cores =>
    some { dst := some (0xFFFFFFFFC0000000 + BitVec.ofNat 64 (cores.getD i 0 * 2 ^ 20 + localOff e.w1)), src := .mem e.w1,
           n := len }
  | none => match reqKind e.w0 with
    | 0x01 => some { dst := some e.w2, src := .mem e.w1, n := len }
    | 0x02 =>
      some { dst := some (e.w2 + pitch24 (bitsNat e.w3 23 0) * BitVec.ofNat 64 i),
             src := .mem (e.w1 + pitch24 (bitsNat e.w3 47 24) * BitVec.ofNat 64 i), n := len }
    | 0x03 =>
      let sz := descSize e.desc
      some { dst := some (plus e.w2 (i * sz)), n := sz, src := match e.elemAddr i with
        | some a => .mem a
        | none => .fill 0 }
    | 0x04 =>
      let sz := descSize e.desc
      (e.elemAddr i).map fun a => { dst := some a, src := .mem (plus e.w2 (i * sz)), n := sz }
    | 0x05 | 0x06 =>
      let sz := segSize e.w3
      let f := i % reqFields e.w0
      let plane := segPerm e.w3 f * bitsNat e.w3 63 32 + i / reqFields e.w0 * sz
      if reqKind e.w0 = 5 then
        some { dst := some (plus e.w2 plane), src := .mem (plus e.w1 (i * sz)), n := sz, plane := f }
      else some { dst := some (plus e.w2 (i * sz)), src := .mem (plus e.w1 plane), n := sz }
    | 0x07 =>
      let r := 2 ^ reqFields e.w0
      some { dst := some (plus e.w2 (i * r)), src := .index i 0, n := r }
    | 0x08 => some { dst := some e.w2, src := .pattern 0, n := len }
    | 0x20 =>
      if bitAt e.w3 3 then some { dst := some e.w1, src := .remote, n := len }
      else some { dst := none, src := .mem e.w1, n := len }
    | _ => none

/-- The 2 KiB block of a destination; another module's bytes lie as word 2 says. -/
def QEntry.blockOf (e : QEntry) (p : Piece) (off : Nat) : Nat := ((p.dst.getD e.w2).toNat + off) / 2048

/-- The pieces of the next chunk, and the segment and byte that follow it: within one 2 KiB block of the destination (09 R254,
18 R406).  `blk` is the chunk's block, once it has one, and `room` the bytes it may still hold. -/
def QEntry.takeFrom (e : QEntry) : Nat → Nat → Nat → Option Nat → Nat → List Piece × Nat × Nat
  | 0, i, off, _, _ => ([], i, off)
  | fuel + 1, i, off, blk, room =>
    if e.segCount ≤ i then ([], i, off)
    else match e.segment i with
      | none => e.takeFrom fuel (i + 1) 0 blk room
      | some p =>
        let b := e.blockOf p off
        if blk.getD b ≠ b ∨ room = 0 then ([], i, off)
        else
          let start := (p.dst.getD e.w2).toNat + off
          let k := min room (min (p.n - off) (2048 - start % 2048))
          let piece : Piece :=
            { p with dst := p.dst.map (· + BitVec.ofNat 64 off), src := p.src.skip off, n := k }
          let (ps, j) :=
            if off + k = p.n then e.takeFrom fuel (i + 1) 0 (some b) (room - k) else ([], i, off + k)
          (piece :: ps, j)

/-- The pieces of record `r` of a de-interleave (09 R254). -/
def QEntry.record (e : QEntry) (r : Nat) : List Piece :=
  (rangeFrom (r * reqFields e.w0) (reqFields e.w0)).filterMap e.segment

/-- The records of the next chunk of a de-interleave: whole records whose bytes lie, in each plane, within one 2 KiB block (18
R406). -/
def QEntry.takeRecords (e : QEntry) : Nat → Nat → List Nat → Nat → List Piece
  | 0, _, _, _ => []
  | fuel + 1, r, blks, room =>
    let ps := e.record r
    let n := (ps.map (·.n)).sum
    let bs := ps.map fun p => e.blockOf p 0
    if e.segCount ≤ r * reqFields e.w0 ∨ room < n ∨ (blks ≠ [] ∧ bs ≠ blks) then []
    else ps ++ e.takeRecords fuel (r + 1) bs (room - n)

/-- The next chunk: its pieces, and the position after it. -/
def QEntry.nextChunk (e : QEntry) : List Piece × Nat × Nat :=
  if e.targets.isNone && reqKind e.w0 == 5 then
    let ps := e.takeRecords 2049 (e.seg / reqFields e.w0) [] 2048
    (ps, e.seg + ps.length, 0)
  else e.takeFrom 4096 e.seg e.off none 2048

/-! ## Performing an entry -/

/-- What an entry accesses memory with (09 R241, 15 R374). -/
def QEntry.agent (e : QEntry) (core : Nat) : Agent :=
  { core, part := e.part, cid := e.cid, mode := e.mode, ptbase := e.ptbase, adopted := e.adopted, prio := e.prio,
    noted := some e.slots, plain := reqKind e.w0 == 0x10 || reqKind e.w0 == 0x11 }

/-- The sender of an entry's messages. -/
def QEntry.sender (e : QEntry) (core : Nat) : Sender := { core, slot := e.slot, cid := e.cid, part := e.part, engine := true }

/-- Bytes read for an entry; an address that is never valid fails with ACCESS (09 R241, R254). -/
def M.entryRead (core : Nat) (e : QEntry) (parts : List (Word × Nat)) : M (List Byte) := M.readBytes (e.agent core) true parts

/-- The bytes of a piece (09 R245 to R251); bytes that come from another module are free (log entry 6). -/
def M.pieceData (core : Nat) (e : QEntry) (p : Piece) : M (List Byte) := do
  match p.src with
  | .mem va => M.entryRead core e (pagesOf va p.n)
  | .pattern i => return (List.range p.n).map fun j => BitVec.ofNat 8 (e.w1.toNat / 2 ^ (8 * ((i + j) % 8)))
  | .index i off =>
    let bs ← M.entryRead core e (pagesOf (e.w3 + BitVec.ofNat 64 (4 * i)) 4)
    let va := e.w1 + BitVec.ofNat 64 (natOfBytes bs * 2 ^ reqFields e.w0 + off)
    M.entryRead core e (pagesOf va p.n)
  | .fill off => return (((e.desc.drop 16).take (descSize e.desc)).drop off).take p.n
  | .remote =>
    modify fun s => s.askBulk (e.agent core) chipletDest p.n
    (List.range p.n).mapM fun _ => do return (← M.free).setWidth 8

/-- The runs of bytes that a copy writes in this module. -/
def QEntry.runs (e : QEntry) : List (Word × Nat) :=
  let len := reqLength e.w0
  if e.targets.isSome then []
  else match reqKind e.w0 with
    | 0x01 | 0x06 | 0x08 => [(e.w2, len)]
    | 0x02 => (List.range (bitsNat e.w3 63 48)).map fun i => (e.w2 + pitch24 (bitsNat e.w3 23 0) * BitVec.ofNat 64 i, len)
    | 0x03 => [(e.w2, e.nominal)]
    | 0x04 => (List.range e.boxCount).filterMap fun i => (e.elemAddr i).map fun a => (a, descSize e.desc)
    | 0x05 => (List.range (reqFields e.w0)).map fun f =>
      (e.w2 + BitVec.ofNat 64 (segPerm e.w3 f * bitsNat e.w3 63 32), len / reqFields e.w0)
    | 0x07 => [(e.w2, len * 2 ^ reqFields e.w0)]
    | 0x20 => if bitAt e.w3 3 then [(e.w1, len)] else []
    | _ => []

/-- A copy writes the byte at an address (09 R248). -/
def QEntry.covers (e : QEntry) (va : Word) : Bool := e.runs.any fun r => decide ((va - r.1).toNat < r.2)

/-- The piece that a copy writes last to the byte at an address. -/
def QEntry.sourceOf (e : QEntry) (va : Word) : Option Piece :=
  (List.range e.segCount).reverse.findSome? fun i =>
    (e.segment i).bind fun p => p.dst.bind fun d =>
      if (va - d).toNat < p.n then some { p with dst := some va, src := p.src.skip (va - d).toNat, n := 1 } else none

/-- The bytes that a copy writes at addresses beside a part of it. -/
def M.edgeBytes (core : Nat) (e : QEntry) (vas : List Word) : M (List Byte) :=
  vas.mapM fun va => match e.sourceOf va with
    | some p => do return (← M.pieceData core e p).headD 0
    | none => pure 0

/-- The bytes of a copy that complete the elements of a lossy page at the ends of a part (03 R78, 09 R248). -/
def M.partEdges (core : Nat) (e : QEntry) (p : Place) (va : Word) (n : Nat) : M (List Byte × List Byte) := do
  match p with
  | .mem key lossy _ _ =>
    let (lo, hi) := lossyEdges lossy key n
    let before ← M.edgeBytes core e ((List.range lo).map fun i => va - BitVec.ofNat 64 (lo - i))
    let behind ← M.edgeBytes core e ((List.range hi).map fun i => va + BitVec.ofNat 64 (n + i))
    return (before, behind)
  | _ => return ([], [])

/-- A write to a carve of the partition's resident context that does not hold it is out of range at its home (09 R254). -/
def M.homeRoom (part : Option Nat) (p : Place) (va : Word) (n : Nat) : M Unit := do
  match p with
  | .carve c off =>
    let s ← get
    if (s.coreAt c).resident && part == some (s.coreAt c).part && !s.carveHas c (scratchKey c off) n then
      M.trap { code := 0x07, addr := va }
  | _ => pure ()

/-- Bytes bound for one home, with the core to which they are accounted and the retention tag of their message. -/
structure Parcel where
  home  : Option Nat
  dest  : Nat
  key   : Nat
  tag   : RimMark := .ordinary
  cells : List (Nat × Byte)
  deriving DecidableEq, Repr

/-- Parcels of one home joined, in order: the bytes of a chunk reach a core as one message (18 R406). -/
def joinParcels : List Parcel → List Parcel
  | [] => []
  | p :: ps =>
    match joinParcels ps with
    | [] => [p]
    | qs =>
      match qs.find? fun q => q.home == p.home && q.dest == p.dest && q.key == p.key with
      | none => p :: qs
      | some q => { p with cells := p.cells ++ q.cells } :: qs.filter fun x => x != q

/-- The core that a destination's bytes are accounted to (09 R256). -/
def destCore (core : Nat) (va : Word) : Nat := if spaceOf va = .scratch then localCore va else core

/-- The parcels that bytes make at the parts of a destination, after the checks of each. -/
def M.partWrites (core : Nat) (e : QEntry) (bs : List Byte) (off : Nat) : List (Word × Nat) → M (List Parcel)
  | [] => pure []
  | (va, n) :: rest => do
    let p ← M.bulkPlace (e.agent core) .store va n true 0 e.covers
    M.homeRoom e.part p va n
    let (lo, hi) ← M.partEdges core e p va n
    let here : Parcel :=
      { home := p.dest.1, dest := p.dest.2, key := destCore core va, tag := (← get).tagOfPlace p,
        cells := p.cells ((bs.drop off).take n) lo hi }
    return here :: (← M.partWrites core e bs (off + n) rest)

/-- All the pieces of a chunk, checked and read: its parcels. -/
def M.parcels (core : Nat) (e : QEntry) : List Piece → M (List Parcel)
  | [] => pure []
  | p :: ps => do
    let bs ← M.pieceData core e p
    let here ← match p.dst with
      | some va => M.partWrites core e bs 0 (pagesOf va p.n)
      | none => pure []
    return here ++ (← M.parcels core e ps)

/-- The destinations with bytes and a message added for a core. -/
def addDest (ds : List QDest) (core n : Nat) (serial : Option Nat) : List QDest :=
  match ds.find? (·.core == core) with
  | none => ds ++ [{ core, bytes := n, after := serial.toList }]
  | some _ => ds.map fun d =>
    if d.core = core then { d with bytes := d.bytes + n, after := d.after ++ serial.toList } else d

/-- Sends the parcels of a chunk. -/
def M.sendParcels (core : Nat) (e : QEntry) : List Parcel → M QEntry
  | [] => pure e
  | p :: ps => do
    let n ← M.sendFor (e.agent core) (e.sender core) e.prio p.home p.dest p.tag (.store p.cells)
    M.sendParcels core { e with dests := addDest e.dests p.key p.cells.length (some n), bytes := e.bytes + p.cells.length } ps

/-- The refusal of an entry whose addresses are not multiples of its element size (09 R246, R247, R254). -/
def M.entryAlign (xs : List (Word × Nat)) : M Unit := do
  match xs.find? fun x => x.1.toNat % x.2 ≠ 0 with
  | some x => M.trap (misalignExc x.1)
  | none => pure ()

/-- What is checked and read when an entry begins (09 R246, R247, R250); a descriptor whose address is not a multiple of 128 is a
misaligned address, cause 0x02 (log entry 29). -/
def M.entryBegin (core : Nat) (e : QEntry) : M QEntry := do
  if e.targets.isSome then return e
  match reqKind e.w0 with
  | 0x05 | 0x06 =>
    if reqLength e.w0 ≠ 0 then M.entryAlign [(e.w1, segSize e.w3), (e.w2, segSize e.w3)]
    return e
  | 0x07 =>
    if reqLength e.w0 ≠ 0 then M.entryAlign [(e.w1, 2 ^ reqFields e.w0), (e.w2, 2 ^ reqFields e.w0)]
    return e
  | 0x03 | 0x04 =>
    if !e.desc.isEmpty then return e
    M.entryAlign [(e.w1, 128)]
    let e := { e with desc := ← M.entryRead core e (pagesOf e.w1 128) }
    if !e.descGood then M.trap { code := 0x01, addr := e.w1 }
    M.entryAlign [(BitVec.ofNat 64 (descField e.desc 0 8), descSize e.desc), (e.w2, descSize e.desc)]
    return e
  | _ => return e

/-- The checks of the remote bytes of a chunk of a remote-module copy, at each chunk (09 R249, R254): they lie in L-space, their module
is in the withy domain (cause 0x06 otherwise, log entry 29), and it keeps the message; what the other module decides is free (log entries
6, 29). -/
def M.remoteCheck (e : QEntry) (n : Nat) : M Unit := do
  if e.targets.isNone ∧ reqKind e.w0 = 0x20 ∧ n ≠ 0 then
    let va := e.w2 + BitVec.ofNat 64 e.off
    if spaceOf va ≠ .scratch then M.trap (accessExc va 0)
    if spaceOf (va + BitVec.ofNat 64 (n - 1)) ≠ .scratch then M.trap (accessExc 0 0)
    if !(← get).modules.contains (bitsNat e.w3 2 0) then M.trap (accessExc va 0)
    if (← M.free).toNat % 2 = 1 then M.trap { code := 0x07, addr := va }

/-- An entry that has performed all of its segments: a tile kind reports its nominal bytes, and status 3 where an element was
out of range (09 R251, R256). -/
def QEntry.finish (e : QEntry) (core : Nat) : QEntry :=
  if e.isTile then
    let base := if reqKind e.w0 = 3 then e.w2 else BitVec.ofNat 64 (descField e.desc 0 8)
    let out := (List.range e.boxCount).any fun p => (e.elemAddr p).isNone
    { e with status := some (if out then 3 else 0), bytes := e.nominal,
             dests := addDest e.dests (destCore core base) (e.nominal - (e.dests.map (·.bytes)).sum) none }
  else { e with status := some 0 }

/-- The next chunk of an entry (09 R254), once its core's port is open to its traffic (14 R364).  Bytes written to another module count
as written; the messages that carry them leave through the chiplet (01 R19, log entry 43). -/
def M.chunkStep (core : Nat) (e : QEntry) : M QEntry := do
  M.portOpen (e.agent core)
  let e ← M.entryBegin core e
  let (ps, seg, off) := e.nextChunk
  M.remoteCheck e (ps.map (·.n)).sum
  let parcels ← M.parcels core e ps
  let e ← M.sendParcels core e (joinParcels parcels)
  let away := ((ps.filter (·.dst.isNone)).map (·.n)).sum
  modify fun s => s.giveBulk (e.agent core) chipletDest away
  let e := { e with seg, off, bytes := e.bytes + away }
  return if e.segCount ≤ seg then e.finish core else e

/-! ## Queues of resident and departed contexts -/

/-- Queue number `n` of a core: 0 to 2 are the resident context's, and 4 * (i + 1) + q is queue q of departed context i (09
R263). -/
def Core.queueAt (c : Core) (n : Nat) : List QEntry :=
  if n < 4 then c.queues.toList.getD n []
  else ((c.departed[n / 4 - 1]?).map fun x => x.queues.toList.getD (n % 4) []).getD []

/-- Queues with queue `q` replaced. -/
def setQueue (v : Vector (List QEntry) 3) (q : Nat) (es : List QEntry) : Vector (List QEntry) 3 :=
  if q = 0 then v.set 0 es else if q = 1 then v.set 1 es else if q = 2 then v.set 2 es else v

/-- The core with a queue replaced. -/
def Core.setQueueAt (c : Core) (n : Nat) (es : List QEntry) : Core :=
  if n < 4 then { c with queues := setQueue c.queues n es }
  else { c with departed := c.departed.modify (n / 4 - 1) fun x => { x with queues := setQueue x.queues (n % 4) es } }

/-- The state with the head of a queue replaced. -/
def State.setHead (s : State) (core n : Nat) (e : QEntry) : State :=
  let c := s.coreAt core
  s.setCore core (c.setQueueAt n (e :: (c.queueAt n).drop 1))

/-- A fault of an absent context in its husk's log (13 R353). -/
def State.logFault (s : State) (husk : Nat) (addr word : Word) (cause source queue slot reg : Nat) : State :=
  let log := husk + 0x4000
  let n := s.readPa log 1
  if 255 ≤ n then s.writePa (log + 1) 1 (s.readPa (log + 1) 1 ||| 1)
  else
    let r := log + 64 + 64 * n
    let fields : List (Nat × Nat × Nat) :=
      [(0, 8, s.gtime), (8, 8, addr.toNat), (16, 8, word.toNat), (24, 1, cause), (25, 1, source), (26, 1, queue),
       (27, 1, slot), (28, 1, reg), (29, 1, 1), (30, 2, 0), (32, 8, 0), (40, 8, 0), (48, 8, 0), (56, 8, 0)]
    (fields.foldl (fun s (o, n, v) => s.writePa (r + o) n v) s).writePa log 1 (n + 1)

/-- The fault of an entry of queue `n` recorded for QSTAT, and logged where its context is absent (09 R254, R260, 13 R353).  The
record of a strand that has ended is not kept, and that of a supervisor strand stays with its core. -/
def State.noteFault (s : State) (core n : Nat) (e : QEntry) (x : Exc) (word : Word) : State :=
  let c := s.coreAt core
  let note := fun (t : Tab (Word × Nat)) => Tab.set t (faultKey e.slot (n % 4) e.part) (faultRec x e.seq)
  let s := if e.dead then s
    else if n < 4 ∨ e.part.isNone then s.setCore core { c with qfaults := note c.qfaults }
    else s.setCore core { c with departed := c.departed.modify (n / 4 - 1) fun y => { y with qfaults := note y.qfaults } }
  if n < 4 ∨ e.part.isNone then s
  else match c.departed[n / 4 - 1]? with
    | none => s
    | some d => s.logFault d.husk x.addr word x.code 0 (n % 4) e.slot e.token.toNat

/-- An entry stops at a failing access: STATUS 1, with its fault noted (09 R254, 13 R353). -/
def State.entryFault (s : State) (core n : Nat) (e : QEntry) (x : Exc) : State :=
  let word := tokenWord 1 e.seq e.bytes
  (s.setHead core n { e with status := some 1 }).noteFault core n e x word

/-- The destinations of an entry that are finished: all of a stopped entry's, and of a GCAST those before its present one (09
R256, 18 R407). -/
def QEntry.closed (e : QEntry) (d : QDest) : Bool :=
  e.status.isSome || (e.targets.isSome && (e.targets.getD []).getD e.seg 1024 != d.core)

/-- The state with the byte subtractions sent that are due, and the entry that notes them (09 R256). -/
def State.settleEntry (s : State) (core : Nat) (e : QEntry) : State × QEntry :=
  e.dests.foldl (fun (x : State × QEntry) d =>
    if !d.sent && e.closed d && x.1.allPerformed d.after then
      let e := { x.2 with dests := x.2.dests.map fun y => if y.core = d.core then { y with sent := true } else y }
      let s := if reqBen e.w0 && d.bytes != 0 then
          x.1.post { sender := e.sender core, home := some d.core, dest := d.core, user := e.mode == .user, prio := e.prio,
                     body := .subtract (reqBid e.w0) d.bytes }
        else x.1
      (s, e)
    else x) (s, e)

/-- The same for the head of a queue, where it stands. -/
def State.settle (s : State) (core n : Nat) (e : QEntry) : State × QEntry :=
  let (s, e) := s.settleEntry core e
  (s.setHead core n e, e)

/-- The departed context has entries left. -/
def Departed.live (d : Departed) : Bool := !d.queues.toList.all List.isEmpty

/-- The husks of a chain, each naming the next (13 R342, R346). -/
def State.writeChain (s : State) : List Nat → State
  | [] => s
  | [h] => s.writePa (h + 16) 8 0
  | h :: h' :: hs => (s.writePa (h + 16) 8 h').writeChain (h' :: hs)

/-- The state with the departed-queue chain of a core written as it stands (13 R346). -/
def State.linkChain (s : State) (core : Nat) : State :=
  s.writeChain (((s.coreAt core).departed.filter fun d => d.live && d.part != 128).map (·.husk))

/-- The husk of a departed context whose last entry has completed leaves the chain (13 R346). -/
def State.unlive (s : State) (core i : Nat) : State :=
  match (s.coreAt core).departed[i]? with
  | none => s
  | some d =>
    if d.live || d.part == 128 then s else (s.writePa (d.husk + 2) 1 (s.readPa (d.husk + 2) 1 % 2)).linkChain core

/-- An entry completes: its status word reaches its token, unless its strand has ended, and the next entry may begin (09 R239, R252,
R255, 13 R344). -/
def State.completeEntry (s : State) (core n : Nat) (e : QEntry) (status : Nat) : State :=
  let w := tokenWord status e.seq e.bytes
  let c := s.coreAt core
  let s := s.setCore core (c.setQueueAt n ((c.queueAt n).drop 1))
  let s := if e.token = 0 ∨ e.dead then s
    else if n < 4 ∨ e.part.isNone then s.giveToken core e.slot e.part e.token w
    else s.owe (e.sender core) e.slot e.token .token w none
  if n < 4 then s else s.unlive core (n / 4 - 1)

/-- The entry is a collective (09 R243). -/
def QEntry.isColl (e : QEntry) : Bool := e.targets.isNone && (reqKind e.w0 == 0x10 || reqKind e.w0 == 0x11)

/-- COPY_CHUNK: the head of a queue performs its next chunk, or completes once its writes are performed (09 R254). -/
def State.copyChunk (s : State) (core n : Nat) : State :=
  match (s.coreAt core).queueAt n with
  | [] => s
  | e :: _ =>
    if !s.allPerformed e.after then s
    else
      let (s1, e) := s.settle core n e
      match e.status with
      | some st => if e.dests.all (·.sent) then s1.completeEntry core n e st else s1
      | none =>
        if e.isColl then s1
        else match s1.runEngine (M.chunkStep core e) with
          | (.ok e, s2) => s2.setHead core n e
          | (.error .wait, _) => s1
          | (.error (.trap x), s2) => s2.entryFault core n e x

/-! ## Collectives -/

/-- A member of a collective: the core and queue of its entry, and the entry. -/
structure Member where
  core  : Nat
  queue : Nat
  entry : QEntry
  deriving DecidableEq, Repr

/-- The q2 entries of a core, resident and departed. -/
def Core.collectives (c : Core) (core : Nat) : List Member :=
  (2 :: (List.range c.departed.length).map fun i => 4 * (i + 1) + 2).flatMap fun n =>
    (c.queueAt n).map fun e => { core, queue := n, entry := e }

/-- Two entries name one group: a gang of a partition, or a domain of a context (09 R261, 11 R285, log entry 29). -/
def QEntry.sameGroup (x y : QEntry) : Bool :=
  x.part == y.part && match x.coll, y.coll with
    | some a, some b => a.gang == b.gang && a.cores == b.cores && a.index == b.index && (a.gang.isSome || x.cid == y.cid)
    | _, _ => false

/-- The members of an entry's operation, by rank: of each member the first entry on the group that has not completed (09
R261).  Nothing unless all have joined. -/
def State.members (s : State) (e : QEntry) : Option (List Member) :=
  match e.coll with
  | none => none
  | some g =>
    let all := (s.cores.map fun x => (s.coreAt x.1).collectives x.1).flatten.filter fun m => m.entry.isColl && m.entry.sameGroup e
    let of := fun r => all.find? fun m => (m.entry.coll.map (·.rank)) == some r
    let ms := (List.range g.count).filterMap of
    if ms.length = g.count then some ms else none

/-- The members may go on: none has stopped, each follows its strand's earlier operations, and no other entry stands before it
(09 R239, R240). -/
def State.membersReady (s : State) (ms : List Member) : Bool :=
  ms.all fun m => m.entry.status.isNone && s.allPerformed m.entry.after &&
    (((s.coreAt m.core).queueAt m.queue).takeWhile (· != m.entry)).all fun x => ms.any fun y => y.entry == x

/-- Element size of a collective (09 R261). -/
def collSize (w3 : Word) : Nat :=
  match bitsNat w3 11 8 with
  | 1 | 5 => 8
  | 2 | 3 => 2
  | _ => 4

/-- One step of a reduction (09 R262). -/
def collOp (w3 : Word) (x y : Nat) : Nat :=
  let op := bitsNat w3 13 12
  let int := fun (n : Nat) =>
    if op = 0 then (x + y) % 2 ^ n
    else if op = 1 then (if signedOf n x < signedOf n y then y else x)
    else (if signedOf n y < signedOf n x then y else x)
  let flt := fun (f : FpFormat) =>
    let a := f.value x
    let b := f.value y
    (fpDeliver f .rne 0 (if op = 0 then fpAdd .rne a b else if op = 1 then fpMax a b else fpMin a b)).1
  match bitsNat w3 11 8 with
  | 0 => int 32
  | 1 => int 64
  | 2 => flt fp16
  | 3 => flt bf16
  | 4 => flt fp32
  | _ => flt fp64

/-- The requests of a group agree, and their length suits the operation (09 R262). -/
def collAgree (ms : List Member) : Bool :=
  match ms with
  | [] => false
  | m :: _ =>
    let w0 := m.entry.w0
    let w3 := m.entry.w3
    let unit := if reqKind w0 = 0x10 then ms.length * collSize w3 else collSize w3
    ms.all (fun x => reqKind x.entry.w0 == reqKind w0 && reqLength x.entry.w0 == reqLength w0 &&
      bitsNat x.entry.w3 13 8 == bitsNat w3 13 8) && reqLength w0 % unit == 0

/-- The contribution of a member: its accumulator rows, or the bytes at word 1. -/
def M.contribution (m : Member) : M (List Byte) := do
  M.portOpen (m.entry.agent m.core)
  match m.entry.data with
  | some bs => return bs
  | none => M.entryRead m.core m.entry (pagesOf m.entry.w1 (reqLength m.entry.w0))

/-- The result of the member of rank `r` (09 R262). -/
def collResult (w0 w3 : Word) (cs : List (List Byte)) (r : Nat) : List Byte :=
  if reqKind w0 = 0x11 then cs.flatten
  else
    let sz := collSize w3
    let shard := reqLength w0 / cs.length
    ((List.range (shard / sz)).map fun i =>
      let at_ := fun (c : List Byte) => natOfBytes ((c.drop (r * shard + i * sz)).take sz)
      match cs with
      | [] => []
      | c :: rest => bytesOf sz (rest.foldl (fun acc c => collOp w3 acc (at_ c)) (at_ c))).flatten

/-- Changes a member's entry where it stands in its queue. -/
def State.mapMember (s : State) (m : Member) (f : QEntry → QEntry) : State :=
  let c := s.coreAt m.core
  s.setCore m.core (c.setQueueAt m.queue ((c.queueAt m.queue).map fun x => if x = m.entry then f x else x))

/-- Every member completes with a status and no bytes (09 R262). -/
def State.collFail (s : State) (ms : List Member) : State :=
  ms.foldl (fun s m => s.mapMember m fun e => { e with status := some 4 }) s

/-- The parts of a collective that can fail, member by member: the first failure with its member, or the results. -/
def M.tryMembers {α : Type} (f : Member → M α) : List Member → M (Except (Member × Exc) (List α))
  | [] => pure (.ok [])
  | m :: ms => do
    match ← M.attempt (f m) with
    | .error e => return .error (m, e)
    | .ok x =>
      match ← M.tryMembers f ms with
      | .error e => return .error e
      | .ok xs => return .ok (x :: xs)

/-- A member's fault: STATUS 1 for it and 4 for every other (09 R262). -/
def State.collFault (s : State) (ms : List Member) (bad : Member) (x : Exc) : State :=
  let s := s.collFail (ms.filter (· != bad))
  let s := s.mapMember bad fun e => { e with status := some 1 }
  s.noteFault bad.core bad.queue bad.entry x (tokenWord 1 bad.entry.seq 0)

/-- The writes of a collective, each member's checked before any is made (09 R262). -/
def M.collWrite (ms : List Member) (results : List (List Byte)) : M (Except (Member × Exc) Unit) := do
  let places ← M.tryMembers (fun m => do
    let r := results.getD (ms.findIdx (· == m)) []
    return (m, r, ← M.partWrites m.core m.entry r 0 (chunksOf m.entry.w2 r.length))) ms
  match places with
  | .error e => return .error e
  | .ok xs =>
    xs.forM fun (m, r, parcels) => do
      let e ← M.sendParcels m.core m.entry parcels
      modify fun s => s.mapMember m fun _ => { e with status := some 0, bytes := r.length }
    return .ok ()

/-- A collective whose members have all joined is performed (09 R262): nothing where an access of it has to wait. -/
def State.collPerform (s : State) (ms : List Member) : Option State :=
  if !collAgree ms then some (s.collFail ms)
  else
    let w0 := (ms.head?.map (·.entry.w0)).getD 0
    let w3 := (ms.head?.map (·.entry.w3)).getD 0
    match s.runEngine (M.tryMembers M.contribution ms) with
    | (.error _, _) => none
    | (.ok (.error (m, x)), s1) => some (s1.collFault ms m x)
    | (.ok (.ok cs), s1) =>
      match s1.runEngine (M.collWrite ms ((List.range ms.length).map (collResult w0 w3 cs))) with
      | (.error _, _) => none
      | (.ok (.error (m, x)), s2) => some (s2.collFault ms m x)
      | (.ok (.ok _), s2) => some s2

/-- What becomes of the collective that an entry belongs to: it is performed once its group is complete and may go on, and an entry that
names no group fails (09 R261, R262). -/
def State.collStep (s : State) (m : Member) : Option State :=
  match m.entry.coll with
  | none => if s.membersReady [m] then some (s.collFail [m]) else none
  | some _ => (s.members m.entry).bind fun ms => if s.membersReady ms then s.collPerform ms else none

/-- The collectives of a cluster's cores that have not stopped. -/
def State.clusterColls (s : State) (cl : Nat) : List Member :=
  ((clusterCores cl).flatMap fun c => (s.coreAt c).collectives c).filter fun m => m.entry.isColl && m.entry.status.isNone

/-- COLLECTIVE_PERFORM: the first collective of a cluster's cores that can be performed (09 R239, R262). -/
def State.collectivePerform (s : State) (cl : Nat) : State := ((s.clusterColls cl).findSome? s.collStep).getD s

/-- COPY_CHUNK (09 R254). -/
def execCopyChunk (core queue : Nat) (s : State) : Out := .next (s.copyChunk core queue)
/-- COLLECTIVE_PERFORM (09 R262). -/
def execCollectivePerform (cluster : Nat) (s : State) : Out := .next (s.collectivePerform cluster)

end Sys2Proof.Machine
end

