-- ==== Sys2Proof/Machine/Sync.lean ====
section
/-!
DEFINITION. Machine/Sync.lean: barriers, domains, event and mutex lines and WAITV (11 R286 to R300), and FENCE and FENCEI (10
R269 to R271, R280).
-/

namespace Sys2Proof.Machine

/-! ## Barriers -/

/-- Issue of a barrier form: refused on a chiplet core (01 R17). -/
def barIssue (w : IWord) (reads writes : List Reg) (k : State → Out) (s : State) : Out :=
  if isChiplet s.myCoreNo then raise (illegalExc w 5) s else issue reads writes k s

/-- BID: g[a][10:0] (11 R287). -/
def Strand.bid (t : Strand) (a : Reg) : Nat := bitsNat (t.readG a) 10 0

/-- The BINIT word is well formed for a core (11 R288). -/
def binitGood (w : Word) (domain : List Nat) : Bool :=
  bitsNat w 63 39 == 0 && bitsNat w 15 11 == 0 && bitsNat w 31 16 != 0 &&
    if bitAt w 38 then !domain.isEmpty else bitsNat w 37 32 == 0

/-- BINIT (11 R288). -/
def execBinit (a : Reg) (s : State) : Out :=
  let w := syWord 0x2E 0 a 0 0
  barIssue w [a] [] (runM do
    let s ← get
    let x := s.me.readG a
    if !binitGood x (s.domainOf s.myCoreNo (bitsNat x 37 32)) then M.illegal w 3
    let b := bitsNat x 10 0
    let old := s.barrierOf s.myCoreNo b
    let fresh : Barrier := { target := bitsNat x 31 16, phase := old.phase, bound := bitAt x 38, dom := bitsNat x 37 32 }
    set ((s.setBarrier s.myCoreNo b fresh).checkBarrier s.myCoreNo b)
    M.done) s

/-- BARR: the arrival is sent to the barrier's home, and the local PHASE is read (11 R289).  It releases the strand's earlier
accesses but those that USC counts (10 R273). -/
def execBarr (d a : Reg) (c : BitVec 8) (s : State) : Out :=
  barIssue (syWord 0x2E d a (c.setWidth 12) 1) [a] [d] (runM do
    M.signalWait
    M.fencePast
    let s ← get
    let b := s.me.bid a
    let h := s.barrierHome s.myCoreNo b
    M.send (some h) h (.arrive b (c.toNat + 1)) false (origin := if h = s.myCoreNo then none else some s.myCoreNo)
    M.modifyMe fun t => t.writeG d (boolWord (s.barrierOf s.myCoreNo b).phase)
    M.done) s

/-- BEXP: the expectation is sent, and the strand waits for the reply (11 R290). -/
def execBexp (d a : Reg) (r : Bool) (s : State) : Out :=
  barIssue (syWord 0x2E d a (if r then 1 else 0) 2) [d, a] [d] (runM do
    if r then
      M.signalWait
      M.fencePast
    let s ← get
    let b := s.me.bid a
    let h := s.barrierHome s.myCoreNo b
    M.send (some h) h (.expect b (s.me.readG d).toNat r (some d)) false
      (origin := if h = s.myCoreNo then none else some s.myCoreNo)
    M.modifyMe fun t => { t with cond := .bexp d a none }) s

/-- INFO of BAR_OVF and of a discarded expectation: BID and BOUND (11 R290, R292). -/
def State.barInfo (s : State) (b : Nat) : Nat := b + if (s.barrierOf s.myCoreNo b).bound then 2 ^ 11 else 0

/-- The reply to a BEXP reaches its strand (11 R290). -/
def bexpFinish (d a : Reg) (r : BexpReply) : M Unit := do
  let s ← get
  let b := s.me.bid a
  match r with
  | .phase p =>
    M.modifyMe fun t => t.writeG d (boolWord p)
    M.done
  | .overflow => M.trap { code := 0x0F, info := BitVec.ofNat 64 (s.barInfo b) }
  | .discarded => M.trap { code := 0x06, info := BitVec.ofNat 64 (s.barInfo b + 2 ^ 12) }

/-- A strand goes to sleep at its instruction (11 R300). -/
def M.sleep (w : Sleep) : M Unit := M.modifyMe fun t => { t with cond := .asleep w }

/-- BWAIT's compare: it returns where the local PHASE differs, as an acquire (10 R272), and sleeps otherwise (11 R291). -/
def bwaitLoop (d a : Reg) : M Unit := do
  let s ← get
  let p := (s.barrierOf s.myCoreNo (s.me.bid a)).phase
  if bitAt (s.me.readG d) 0 = p then M.sleep (.bwait d a)
  else
    M.acquireWait
    M.modifyMe fun t => t.writeG d (boolWord p)
    M.done

/-- BWAIT (11 R291). -/
def execBwait (d a : Reg) (s : State) : Out :=
  barIssue (syWord 0x2E d a 0 3) [d, a] [d] (runM (bwaitLoop d a)) s

/-- BTEST.cnt: the counts come from the home, and wait until a context of the partition is resident there (11 R292); a supervisor strand,
which has none, acts for the context that is resident there (log entry 31). -/
def execBtestCnt (d a : Reg) (s : State) : Out :=
  barIssue (syWord 0x2E d a 0 4) [a] [d] (runM do
    let s ← get
    let b := s.me.bid a
    let h := s.barrierHome s.myCoreNo b
    if s.pairBusy s.myCoreNo h then M.wait
    M.askUnit h
    if h ≠ s.myCoreNo && !s.isHome h (s.homePart none h) then M.wait
    M.modifyMe fun t => t.writeG d (s.barrierOf h b).countsWord
    M.done) s

/-- BTEST.flg (11 R292). -/
def execBtestFlg (d a : Reg) (s : State) : Out :=
  barIssue (syWord 0x2E d a 1 4) [a] [d] (runM do
    let s ← get
    M.modifyMe fun t => t.writeG d (s.barrierOf s.myCoreNo (s.me.bid a)).flagsWord
    M.done) s

/-! ## Domains -/

/-- The members of a rectangle, or nothing where it breaks the limits (11 R286). -/
def rectMembers (w : Word) : Option (List Nat) :=
  let corner := bitsNat w 9 0
  let rows := bitsNat w 19 16 + 1
  let cols := bitsNat w 23 20 + 1
  if bitsNat w 15 10 ≠ 0 ∨ bitsNat w 63 24 ≠ 0 then none
  else if 16 < corner / 16 % 16 + rows ∨ 16 < corner % 16 + cols then none
  else some (((List.range rows).map fun y => (List.range cols).map fun x => corner + 16 * y + x).flatten)

/-- Defines a domain of the issuing core, after the checks on its members (11 R286). -/
def M.defineDomain (w : IWord) (addr : Word) (j : Nat) (members : List Nat) : M Unit := do
  let s ← get
  if !members.contains s.myCoreNo then M.illegal w 3
  let inside := fun c => match s.myPart with
    | some p => (s.partAt p).mask.getLsbD (clusterOf c)
    | none => false
  if !members.all inside then M.trap (accessExc addr 0)
  let c := s.myCore
  set (s.setMyCore { c with domains := Tab.set c.domains j members })
  M.done

/-- BDOM.rect (11 R286). -/
def execBdomRect (a : Reg) (j : BitVec 6) (s : State) : Out :=
  let w := syWord 0x2E 0 a (j.setWidth 12) 5
  barIssue w [a] [] (runM do
    let x := (← M.me).readG a
    match rectMembers x with
    | none => M.illegal w 3
    | some ms => M.defineDomain w x j.toNat ms) s

/-- A halfword of a BDOM list (11 R286). -/
def M.halfword (base : Word) (i : Nat) : M Nat := do
  let va := base + BitVec.ofNat 64 (2 * i)
  let p ← M.check (← get).myAgent .load va 2 false 0
  let (x, bad) ← M.read p 2
  if bad then M.trap { code := 0x15, addr := va }
  return x

/-- BDOM.list (11 R286). -/
def execBdomList (a : Reg) (j : BitVec 6) (s : State) : Out :=
  let w := syWord 0x2E 0 a (BitField.join 5 7 0#5 (BitField.join 1 6 1#1 j)) 5
  barIssue w [a] [] (runM do
    let base := (← M.me).readG a
    let m ← M.halfword base 0
    if m = 0 ∨ 1024 < m then M.illegal w 3
    let ms ← (List.range m).mapM fun i => M.halfword base (i + 1)
    if ms.any (0x3FF < ·) || decide (ms.eraseDups.length < m) then M.illegal w 3
    M.defineDomain w base j.toNat ms) s

/-! ## Event and mutex lines -/

/-- The line that an address names, an event line or a mutex line; ACCESS where it names none (11 R294).  Earlier S-space
messages of the strand are performed first (10 R266). -/
def M.lineOf (mutex : Bool) (k : Acc) (ea : Word) : M Nat := do
  if spaceOf ea ≠ .sync then M.trap (accessExc ea 0)
  match ← M.translate (← get).myAgent k ea 0 with
  | .window off =>
    let good := off % 64 = 0 ∧ if mutex then 0x08000000 ≤ off ∧ off < 0x10000000 else off < 0x08000000
    if !decide good then M.trap (accessExc ea 0)
    if (← get).syncBusy (← get).cur then M.wait
    return off / 64
  | _ => M.trap (accessExc ea 0)

/-- The word of a line. -/
def State.lineWord (s : State) (l : Nat) : Word := Tab.get 0 s.lines l

/-- The state with a line written. -/
def State.setLine (s : State) (l : Nat) (w : Word) : State := { s with lines := Tab.set s.lines l w }

/-- The state with an event message between the core of the strand that moves and the home of a line: to the home, or back (14 R359). -/
def State.lineTraffic (s : State) (l : Nat) (back : Bool) : State :=
  let h := l % 1024
  let c := s.myCoreNo
  if h = c then s
  else if back then s.postTraffic (trafficMsg h c s.me.prio none 1 0 2 0)
  else s.postTraffic (trafficMsg c h s.me.prio s.myAgent.payer 1 0 2 0)

/-- EVWAIT's compare (11 R295). -/
def evwaitLoop (d a : Reg) : M Unit := do
  let l ← M.lineOf false .load ((← M.me).readG a)
  let w := (← get).lineWord l
  if bitsNat w 63 32 = bitsNat ((← M.me).readG d) 63 32 then M.sleep (.evwait d a)
  else
    M.acquireWait
    modify fun s => s.lineTraffic l true
    M.modifyMe fun t => t.writeG d w
    M.done

/-- EVWAIT (11 R295). -/
def execEvwait (d a : Reg) (s : State) : Out := issue [d, a] [d] (runM (evwaitLoop d a)) s

/-- EVSIG: the signal travels to the line (11 R296); it releases the strand's earlier accesses but those that USC counts (10 R273). -/
def execEvsig (d a : Reg) (x : Bool) (s : State) : Out :=
  issue [d, a] [] (runM do
    let l ← M.lineOf false .store ((← M.me).readG a)
    M.signalWait
    let s ← get
    M.send (some (l % 1024)) (l % 1024) (.evsig l (s.me.readG d) x) false
    M.done) s

/-- The fields of a mutex word (11 R294). -/
def mutexNext (w : Word) : Nat := bitsNat w 63 48
def mutexServe (w : Word) : Nat := bitsNat w 47 32
def mutexOwner (w : Word) : Nat := bitsNat w 31 0

/-- OWNER for a strand: its CID, bit 15, and its STRANDID (11 R294). -/
def State.ownerWord (s : State) : Nat :=
  bitsNat s.myCore.csrs.cidtag 15 0 * 2 ^ 16 + 2 ^ 15 + s.cur % 2 ^ 13

/-- EVLOCK's compare for a ticket (11 R297). -/
def evlockLoop (d a : Reg) (l t : Nat) : M Unit := do
  let s ← get
  let w := s.lineWord l
  if mutexServe w = t then
    M.acquireWait
    set ((s.lineTraffic l true).setLine l (setBits w 31 0 s.ownerWord))
    M.modifyMe fun x => x.writeG d 1
    M.done
  else M.sleep (.evlock d a t)

/-- EVLOCK, from its start (11 R297). -/
def evlockStart (d a : Reg) (try_ : Bool) : M Unit := do
  let l ← M.lineOf true .amo ((← M.me).readG a)
  let g := (← M.me).readG d
  if bitAt g 63 then evlockLoop d a l (bitsNat g 15 0)
  else
    let s ← get
    let w := s.lineWord l
    if try_ && mutexNext w ≠ mutexServe w then
      M.modifyMe fun t => t.writeG d 0
      M.done
    else
      let ticket := mutexNext w
      set ((s.lineTraffic l false).setLine l (setBits w 63 48 (ticket + 1)))
      M.modifyMe fun t => t.writeG d (BitVec.ofNat 64 (2 ^ 63 + ticket))
      evlockLoop d a l ticket

/-- EVLOCK (11 R297). -/
def execEvlock (d a : Reg) (t : Bool) (s : State) : Out := issue [d, a] [d] (runM (evlockStart d a t)) s

/-- EVUNLOCK (11 R298); it releases the strand's earlier accesses but those that USC counts (10 R273). -/
def execEvunlock (a : Reg) (s : State) : Out :=
  issue [a] [] (runM do
    let ea := (← M.me).readG a
    let l ← M.lineOf true .amo ea
    M.signalWait
    let s ← get
    let w := s.lineWord l
    if mutexOwner w = s.ownerWord then
      set ((s.lineTraffic l false).setLine l (setBits (setBits w 31 0 0) 47 32 (mutexServe w + 1)))
      M.done
    else M.trap (accessExc ea 1)) s

/-! ## WAITV -/

/-- A WAITV condition (11 R299). -/
def waitMet (c : WaitCond) (x y : Word) : Bool :=
  match c with
  | .eq => x == y
  | .ne => x != y
  | .geu => !x.ult y
  | .ges => !x.slt y

/-- The place of a WAITV element, checked as an 8-byte load; in S-space only offset 0 of a line is accepted (11 R299). -/
def M.waitPlace (va : Word) (elem : Nat) : M Place := do
  match ← M.check (← get).myAgent .load va 8 false elem with
  | .window off => if off < 0x10000000 then return .window off else M.trap (accessExc va elem)
  | p => return p

/-- WAITV's checks and compare (11 R299); a poisoned word is compared as its bytes (log entry 53). -/
def waitvLoop (d a b : Reg) (k : MaskReg) (l : Bool) (c : WaitCond) : M Unit := do
  let t ← M.me
  let act := (List.range (min t.vl 64)).filter fun e => mbit (t.readM k) e
  let places ← act.mapM fun e => do return (e, ← M.waitPlace (BitVec.ofNat 64 (velem 64 (t.readV a) e)) e)
  let met ← places.filterM fun (e, p) => do
    let (x, _) ← M.read p 8
    return waitMet c (BitVec.ofNat 64 x) (BitVec.ofNat 64 (velem 64 (t.readV b) e))
  if (!l && (!met.isEmpty || act.isEmpty)) || (l && met.length == act.length) then
    M.acquireWait
    M.modifyMe fun t => t.writeG d (BitVec.ofNat 64 (met.map fun x => 2 ^ x.1).sum)
    M.done
  else M.sleep (.waitv d a b k l c)

/-- The word of a WAITV (11 R299). -/
def waitvWord (d a b : Reg) (k : MaskReg) (l : Bool) (c : WaitCond) : IWord :=
  syWord 0x2E d a (BitField.join 5 7 b (BitField.join 3 4 k (BitField.join 1 3 (BitVec.ofBool l) c.code))) 10

/-- WAITV (11 R299, R300). -/
def execWaitv (d a b : Reg) (k : MaskReg) (l : Bool) (c : WaitCond) (s : State) : Out :=
  vissue (waitvWord d a b k l c) [] [d] [a, b] (runM (waitvLoop d a b k l c)) s

/-! ## Fences -/

/-- A fence (10 R270, R271): ACQ holds the strand until its loads have their values, SA until every remote write is acknowledged and
every other write performed, and scope .sy until every TLBINV is complete.  REL waits for nothing: the strand's messages so far come
before the writes that it makes from now on. -/
def M.fenceWait (sa rel acq : Bool) (c : Scope) : M Unit := do
  let s ← get
  if acq && s.readBusy s.cur then M.wait
  if sa && (s.me.usc ≠ 0 || s.writeBusy s.cur) then M.wait
  if rel then M.modifyMe fun t => { t with fenced := s.sent }
  if c = .system ∧ (s.tlbinv.any fun x => x.core == s.myCoreNo && x.slot == s.mySlotNo) then M.wait

/-- FENCE (10 R269 to R271). -/
def execFence (sa r q : Bool) (c : Scope) (s : State) : Out :=
  runM (do
    M.fenceWait sa r q c
    M.done) s

/-- FENCEI: a fence of all kinds, and the fetched words are discarded (10 R280). -/
def execFencei (c : Scope) (s : State) : Out :=
  runM (do
    M.fenceWait true true true c
    M.modifyMe fun t => { t with fetched := [] }
    M.done) s

end Sys2Proof.Machine
end

