-- ==== Sys2Proof/Machine/Vers.lean ====
section
/-!
DEFINITION. Machine/Vers.lean: the version table of a partition and the adoption of versions (15 R371 to R376), and TOKB,
VERSTAGE, VERPUB and VERQ (R377 to R381).
-/

namespace Sys2Proof.Machine

/-- Issue of an instruction that needs a partition: refused on a chiplet core and on a strand of no partition (13 R417). -/
def partIssue (w : IWord) (reads writes : List Reg) (k : Nat → State → Out) (s : State) : Out :=
  match s.myPart with
  | none => raise (illegalExc w 5) s
  | some p => issue reads writes (k p) s

/-! ## The table -/

/-- CUR and NONE of the version table (15 R371). -/
def State.verCur (s : State) (p : Nat) : Nat := s.verField p 0 4
def State.verNone (s : State) (p : Nat) : Bool := s.verField p 4 4 % 2 == 1

/-- The adoption entries that are held, as their number, version and count (15 R371). -/
def State.adoptions (s : State) (p : Nat) : List (Nat × Nat × Nat) :=
  (List.range 16).filterMap fun i =>
    let n := s.verField p (0x40 + 8 * i) 4
    if n = 0 then none else some (i, s.verField p (0x44 + 8 * i) 4, n)

/-- Some held version resolves to slot `i` of region `r` (15 R374, R376). -/
def State.slotHeld (s : State) (p r i : Nat) : Bool := (s.adoptions p).any fun e => s.readSlot p r e.2.1 == some i

/-- The state with a slot's state written (15 R371). -/
def State.setSlotState (s : State) (p r i st : Nat) : State := s.setVerField p (regionOff r + 36 + i) 1 st

/-- Retirement: each RETIRING slot that no held version resolves to becomes FREE (15 R376). -/
def State.retire (s : State) (p : Nat) : State :=
  let dead := (List.range 256).flatMap fun r =>
    ((List.range 4).filter fun i => s.slotState p r i == slotRetiring && !s.slotHeld p r i).map fun i => (r, i)
  dead.foldl (fun s x => s.setSlotState p x.1 x.2 0) s

/-- The state with one less strand counted as holding version `v` (15 R376). -/
def State.dropCount (s : State) (p v : Nat) : State :=
  match (s.adoptions p).find? fun e => e.2.1 == v with
  | none => s
  | some (i, _, n) => s.setVerField p (0x40 + 8 * i) 4 (n - 1)

/-- Strand `k` releases its adoption, as it does where it ends (15 R376). -/
def State.releaseAdoption (s : State) (k : Nat) : State :=
  let t := s.strandAt k
  match s.partitionOf k, t.adopted with
  | some p, some v => ((s.dropCount p v.toNat).retire p).setStrand k { t with adopted := none }
  | _, _ => s

/-- TOKB's step goes past CUR and NONE: a version has been published, and it is not the one that the strand holds (15 R377). -/
def State.adopts (s : State) (p k : Nat) : Bool :=
  !s.verNone p && !decide ((s.strandAt k).adopted = some (BitVec.ofNat 32 (s.verCur p)))

/-- TOKB's step at the table's home for strand `k`: the result (15 R377). -/
def State.tokbStep (s : State) (p k : Nat) : State × Word :=
  let t := s.strandAt k
  let old := (t.adopted.getD 0).toNat
  let cur := s.verCur p
  if s.verNone p then (s, BitVec.ofNat 64 (2 ^ 63 + old))
  else if t.adopted.isSome ∧ old = cur then (s, BitVec.ofNat 64 cur)
  else
    let held := s.adoptions p
    let entry := match held.find? fun e => e.2.1 == cur with
      | some (i, _, n) => some (i, n)
      | none => ((List.range 16).find? fun i => !(held.any fun e => e.1 == i)).map fun i => (i, 0)
    match entry with
    | none => (s, BitVec.ofNat 64 (2 ^ 62 + old))
    | some (i, n) =>
      let s := (s.setVerField p (0x44 + 8 * i) 4 cur).setVerField p (0x40 + 8 * i) 4 (n + 1)
      let s := if t.adopted.isSome then s.dropCount p old else s
      let s := s.setStrand k { t with adopted := some (BitVec.ofNat 32 cur) }
      (s.retire p, BitVec.ofNat 64 cur)

/-- A strand's operation on some bytes of the table: it comes after the strand's own stores to it, and a poisoned byte of what it reads
raises POISON at its address (15 R377, 04 R93). -/
def M.verTable (p off n : Nat) : M Unit := do
  let s ← get
  let pa := (s.partAt p).vtable + off
  let at_ := fun (f : Nat → Bool) (i : Nat) => (locateHbm 0 (pa + i)).any f
  if s.net.any fun m => s.sentBy s.cur m && (List.range n).any (at_ fun k => m.touches k 1) then M.wait
  if !s.poisoned.isEmpty then
    match (List.range n).find? (at_ s.poisoned.contains) with
    | none => pure ()
    | some i => M.trap { code := 0x15, addr := BitVec.ofNat 64 (pa + i) }

/-- The words of a region entry that the steps on the table read: its flags and slot states, and VER of each slot (15 R371). -/
def M.verRegion (p r : Nat) : M Unit := M.verTable p (regionOff r + 32) 24

/-- The words that retirement reads beside CUR and NONE: the adoption entries, and those of every region (15 R376). -/
def M.verRetire (p : Nat) : M Unit := do
  M.verTable p 0x40 128
  (List.range 256).forM (M.verRegion p)

/-- The request of a step to the home of the table's first line, and its answer (15 R371, 14 R359). -/
def M.askTable (p : Nat) : M Unit := do
  match locateHbm 0 ((← get).partAt p).vtable with
  | none => pure ()
  | some key => M.exchange key 1 2

/-- One ordinary load of an eight-byte word of the table (15 R381). -/
def M.verLoad (p off : Nat) : M Unit := do
  match locateHbm 0 (((← get).partAt p).vtable + off) with
  | none => pure ()
  | some key => M.exchange key 1 2
  M.verTable p off 8

/-! ## Instructions -/

/-- The word of a VERS form (02 R42). -/
def versWord (d a b : Reg) (sel : BitVec 2) (f : BitVec 4) : IWord := rrWord 0x32 d a b (0#5 ++ sel) f

/-- TOKB (15 R377). -/
def execTokb (d : Reg) (s : State) : Out :=
  partIssue (versWord d 0 0 0 0) [] [d] (fun p => runM do
    let s ← get
    if s.readBusy s.cur || s.myCore.hasEntries s.mySlotNo s.amSup 15 then M.wait
    M.askTable p
    M.verTable p 0 8
    let s ← get
    if s.adopts p s.cur then M.verRetire p
    let s ← get
    let (s, x) := s.tokbStep p s.cur
    set s
    M.modifyMe fun t => t.writeG d x
    M.done) s

/-- VERSTAGE's step at the table's home: the slot and the status (15 R378). -/
def State.verstageStep (s : State) (p r v : Nat) : State × Nat :=
  let slots := List.range 4
  if !s.declared p r then (s, 4)
  else match s.stagingSlot p r with
    | some i => (s, i * 256 + 2)
    | none =>
      if (!s.verNone p && decide (v ≤ s.verCur p)) || slots.any fun i => s.slotState p r i != 0 && decide (v ≤ s.slotVer p r i) then
        (s, 3)
      else match slots.find? fun i => s.slotState p r i == 0 with
        | none => (s, 1)
        | some i => ((s.setVerField p (regionOff r + 40 + 4 * i) 4 v).setSlotState p r i slotStaging, i * 256)

/-- VERSTAGE (15 R378). -/
def execVerstage (d a b : Reg) (s : State) : Out :=
  partIssue (versWord d a b 0 1) [a, b] [d] (fun p => runM do
    let t ← M.me
    let r := bitsNat (t.readG a) 7 0
    M.askTable p
    M.verRegion p r
    if (← get).declared p r then M.verTable p 0 8
    let s ← get
    let (s, x) := s.verstageStep p r (bitsNat (t.readG b) 31 0)
    set s
    M.modifyMe fun t => t.writeG d (BitVec.ofNat 64 x)
    M.done) s

/-- VERPUB's step at the table's home: the result (15 R379). -/
def State.verpubStep (s : State) (p v : Nat) : State × Word :=
  let rs := (List.range 256).filterMap fun r =>
    match s.stagingSlot p r with
    | some i => if s.slotVer p r i = v then some (r, i) else none
    | none => none
  if rs.isEmpty then (s, 1)
  else
    let publish := fun (s : State) (x : Nat × Nat) =>
      let s := match (List.range 4).find? fun i => s.slotState p x.1 i == slotPublished with
        | some i => s.setSlotState p x.1 i slotRetiring
        | none => s
      s.setSlotState p x.1 x.2 slotPublished
    let s := rs.foldl publish s
    let s := (s.setVerField p 0 4 v).setVerField p 4 4 0
    (s.retire p, BitVec.ofNat 64 (rs.length * 256))

/-- VERPUB (15 R379). -/
def execVerpub (d a : Reg) (s : State) : Out :=
  partIssue (versWord d a 0 0 2) [a] [d] (fun p => runM do
    M.fenceWait true true true .system
    let s ← get
    if s.myCore.hasEntries s.mySlotNo s.amSup 7 then M.wait
    M.askTable p
    M.verRetire p
    let s ← get
    let (s, x) := s.verpubStep p (bitsNat (s.me.readG a) 31 0)
    set s
    M.modifyMe fun t => t.writeG d x
    M.done) s

/-- VERQ.cur (15 R381). -/
def execVerqCur (d : Reg) (s : State) : Out :=
  partIssue (versWord d 0 0 0 3) [] [d] (fun p => runM do
    M.verLoad p 0
    let s ← get
    M.modifyMe fun t => t.writeG d (BitVec.ofNat 64 (s.verCur p + if s.verNone p then 2 ^ 63 else 0))
    M.done) s

/-- VERQ.reg (15 R381). -/
def execVerqReg (d a : Reg) (s : State) : Out :=
  partIssue (versWord d a 0 1 3) [a] [d] (fun p => runM do
    let t ← M.me
    let r := bitsNat (t.readG a) 7 0
    M.verLoad p (regionOff r + 32)
    let s ← get
    let states := ((List.range 4).map fun i => s.slotState p r i * 4 ^ i).sum
    let flags := s.verField p (regionOff r + 32) 1 % 4 * 2 ^ 8
    let pub := match (List.range 4).find? fun i => s.slotState p r i == slotPublished with
      | some i => 2 ^ 14 + i * 2 ^ 12
      | none => 0
    M.modifyMe fun t => t.writeG d (BitVec.ofNat 64 (states + flags + pub))
    M.done) s

/-- VERQ.slot (15 R381). -/
def execVerqSlot (d a : Reg) (s : State) : Out :=
  partIssue (versWord d a 0 2 3) [a] [d] (fun p => runM do
    let t ← M.me
    let r := bitsNat (t.readG a) 7 0
    let i := bitsNat (t.readG a) 9 8
    (List.range 16).forM fun j => M.verLoad p (0x40 + 8 * j)
    [32, 40, 48].forM fun o => M.verLoad p (regionOff r + o)
    let s ← get
    let held := if s.slotHeld p r i then 4 else 0
    M.modifyMe fun t => t.writeG d (BitVec.ofNat 64 (s.slotVer p r i * 2 ^ 32 + held + s.slotState p r i))
    M.done) s

end Sys2Proof.Machine
end

