-- ==== Sys2Proof/Machine/Tier.lean ====
section
/-!
DEFINITION. Machine/Tier.lean: timetables (16 R383, R384), the tier engine (R385, R386), and TTGO, MARK and TTSTAT (R387 to
R390); the retention registers that it and the strands set (08 R231 to R233).
-/

namespace Sys2Proof.Machine

/-! ## Retention registers -/

/-- The ways granted to a partition's pinned registers but register `r` (08 R232). -/
def Partition.granted (p : Partition) (skip : Option Nat) : Nat :=
  (p.retention.toList.zipIdx.map fun (x, i) => if x.mode = .pinned ∧ skip ≠ some i then x.ways else 0).sum

/-- The ways granted elsewhere in the module than to register `r` of partition `p` (08 R232, R233). -/
def State.waysElsewhere (s : State) (p r : Nat) : Nat :=
  (s.parts.map fun e => e.2.granted (if e.1 = p then some r else none)).sum

/-- The state with retention register `r` of a partition replaced. -/
def State.setRetention (s : State) (p r : Nat) (x : Retention) : State :=
  let part := s.partAt p
  s.setPart p { part with retention := part.retention.set (r % 8) x (Nat.mod_lt r (by decide)) }

/-- A range lies wholly within G-space (08 R233). -/
def rangeInG (base length : Nat) : Bool := decide (base + length ≤ 0x0000FFFF80000000)

/-- UNPIN's setting: the register is inactive, and the lines that it marked are ordinary (08 R233). -/
def State.unpin (s : State) (p r : Nat) : State := (s.setRetention p r {}).unmark p (r % 8)

/-- PIN's setting: the ways granted (08 R233). -/
def State.pinRange (s : State) (p r base length ways : Nat) : State × Nat :=
  if length = 0 then (s.unpin p r, 0)
  else
    let n := min ways (8 - s.waysElsewhere p r)
    (s.setRetention p r { mode := .pinned, base, len := length, ways := n }, n)

/-- HINTEF's setting (08 R233). -/
def State.evictRange (s : State) (p r base length : Nat) : State :=
  if length = 0 then s.unpin p r else s.setRetention p r { mode := .evictFirst, base, len := length }

/-! ## Entries -/

/-- The fields of an entry's FLAGS (16 R383). -/
def TtEntry.lead (e : TtEntry) : Nat := e.flags / 2 ^ 12 % 128
def TtEntry.ways (e : TtEntry) : Nat := e.flags / 2 ^ 8 % 8 + 1
def TtEntry.reg (e : TtEntry) : Nat := e.flags / 2 ^ 4 % 8
def TtEntry.soft (e : TtEntry) : Bool := e.flags.testBit 0

/-- The entry is a moving one (16 R384). -/
def TtEntry.moving (e : TtEntry) : Bool := (e.action == 0 || e.action == 2) && (e.tier == 0 || e.tier == 2)

/-- An entry as it is read (16 R383). -/
def ttParse (bs : List Byte) : TtEntry :=
  { marker := descField bs 0 4, action := descField bs 6 1, tier := descField bs 7 1,
    base := BitVec.ofNat 64 (descField bs 8 8), length := BitVec.ofNat 64 (descField bs 16 8), flags := descField bs 24 4 }

/-- An entry as it is read keeps R383 and R384, as far as it alone decides. -/
def ttGood (kernel : Nat) (bs : List Byte) : Bool :=
  let e := ttParse bs
  let pin := e.action == 1
  let reg := pin || (e.action == 2 && e.tier == 1)
  descField bs 4 2 == kernel && descField bs 28 4 == 0 && e.flags / 2 ^ 19 == 0 && decide (e.lead ≤ 64) &&
    !e.flags.testBit 11 && !e.flags.testBit 7 && e.flags / 2 % 8 == 0 && (pin || e.flags / 2 ^ 8 % 8 == 0) &&
    (reg || e.reg == 0) &&
    match e.action, e.tier with
    | 0, 0 | 0, 2 | 2, 0 | 2, 2 =>
      e.base.toNat % 32 == 0 && e.length == 0 && spaceOf e.base == .global && spaceOf (e.base + 31) == .global
    | 0, 1 | 1, 1 | 2, 1 => true
    | 3, t => decide (t < 4) && e.flags == 0
    | _, _ => false

/-- What the engine accesses memory with (16 R385). -/
def Tier.agent (t : Tier) (p : Nat) : Agent :=
  { core := t.core, part := some p, cid := t.cid, mode := t.mode, ptbase := t.ptbase, adopted := t.adopted }

/-- The request that a moving entry names (16 R384): its QUEUE field is ignored. -/
def M.ttRequest (t : Tier) (p : Nat) (e : TtEntry) : M QEntry := do
  let bs ← M.readBytes (t.agent p) false (pagesOf e.base 32)
  let w := fun i => BitVec.ofNat 64 (descField bs (8 * i) 8)
  return { w0 := setBits (w 0) 55 52 0, w1 := w 1, w2 := w 2, w3 := w 3, slot := t.slot, mode := t.mode, cid := t.cid,
           part := some p, ptbase := t.ptbase, adopted := t.adopted, slots := (← get).noteSlots (t.agent p) }

/-- A span of bytes, from its lowest to past its highest. -/
abbrev Span := Int × Int

/-- The span of `n` bytes. -/
def spanOf (lo : Int) (n : Nat) : List Span := if n = 0 then [] else [(lo, lo + n)]

/-- The span of a box of a tensor, clipped to its extents or not (09 R250, R251). -/
def QEntry.boxSpan (e : QEntry) (clip : Bool) : List Span :=
  let dims := (List.range (descRank e.desc)).map fun i =>
    let lo := e.tileIndex i * (e.box i : Int)
    let hi := lo + e.box i - 1
    if clip then (max lo 0, min hi ((descExtent e.desc i : Int) - 1), descStride e.desc i) else (lo, hi, descStride e.desc i)
  if dims.any fun (lo, hi, _) => decide (hi < lo) then []
  else
    let base : Int := descField e.desc 0 8
    let lo := dims.foldl (fun x (a, b, st) => x + min (a * st) (b * st)) base
    let hi := dims.foldl (fun x (a, b, st) => x + max (a * st) (b * st)) base
    [(lo, hi + descSize e.desc)]

/-- The span of the packed elements that a tile store reads: those in range, from the first to the last (09 R251). -/
def QEntry.packedSpan (e : QEntry) : List Span :=
  let dims := (List.range 4).map fun i =>
    let lo := e.tileIndex i * (e.box i : Int)
    let ext : Int := if i < descRank e.desc then descExtent e.desc i else 1
    (max 0 (-lo), min (e.box i : Int) (ext - lo) - 1, (e.box i : Int))
  if (dims.any fun (lo, hi, _) => decide (hi < lo)) || (descRank e.desc == 5 &&
      !(decide (0 ≤ e.tileIndex 4) && decide (e.tileIndex 4 < (descExtent e.desc 4 : Int)))) then []
  else
    let at_ := fun (f : Int × Int × Int → Int) => (dims.reverse.foldl (fun p d => p * d.2.2 + f d) (0 : Int)) * descSize e.desc
    let base : Int := e.w2.toNat
    [(base + at_ (·.1), base + at_ (·.2.1) + descSize e.desc)]

/-- The span of rows at a pitch (09 R245). -/
def rowSpan (base : Word) (pitch : Word) (rows len : Nat) : List Span :=
  let last := pitch.toInt * ((rows : Int) - 1)
  if rows = 0 ∨ len = 0 then [] else [((base.toNat : Int) + min 0 last, (base.toNat : Int) + max 0 last + len)]

/-- The span of the planes of a segment kind (09 R246). -/
def QEntry.planeSpan (e : QEntry) (base : Word) : List Span :=
  let n := reqFields e.w0
  let run := reqLength e.w0 / n
  if run = 0 then [] else [((base.toNat : Int), (base.toNat : Int) + (n - 1) * bitsNat e.w3 63 32 + run)]

/-- One span from the lowest to the highest byte of several. -/
def hull (xs : List Span) : List Span :=
  match (xs.map (·.1)).min?, (xs.map (·.2)).max? with
  | some lo, some hi => [(lo, hi)]
  | _, _ => []

/-- The spans of a request: from the lowest to the highest byte that it reads, with a tensor's descriptor and an index table among
them, and the same of what it writes (16 R384). -/
def M.ttSpans (core : Nat) (e : QEntry) : M (List Span) := do
  let len := reqLength e.w0
  match reqKind e.w0 with
  | 0x01 => return spanOf e.w1.toNat len ++ spanOf e.w2.toNat len
  | 0x02 =>
    let rows := bitsNat e.w3 63 48
    return rowSpan e.w1 (pitch24 (bitsNat e.w3 47 24)) rows len ++ rowSpan e.w2 (pitch24 (bitsNat e.w3 23 0)) rows len
  | 0x03 =>
    let e ← M.entryBegin core e
    return hull (spanOf e.w1.toNat 128 ++ e.boxSpan true) ++ spanOf e.w2.toNat e.nominal
  | 0x04 =>
    let e ← M.entryBegin core e
    return hull (spanOf e.w1.toNat 128 ++ e.packedSpan) ++ e.boxSpan false
  | 0x05 => return spanOf e.w1.toNat len ++ e.planeSpan e.w2
  | 0x06 => return e.planeSpan e.w1 ++ spanOf e.w2.toNat len
  | 0x07 =>
    let r : Nat := 2 ^ reqFields e.w0
    let bs ← M.entryRead core e (pagesOf e.w3 (4 * len))
    let xs := (List.range len).map fun i => descField bs (4 * i) 4
    let src : List Span := match xs.min?, xs.max? with
      | some lo, some hi => [((e.w1.toNat + lo * r : Int), (e.w1.toNat + hi * r + r : Int))]
      | _, _ => []
    return hull (spanOf e.w3.toNat (4 * len) ++ src) ++ spanOf e.w2.toNat (len * r)
  | _ => return spanOf e.w2.toNat len

/-- The range of an entry (16 R384): a moving entry whose request cannot be read has an empty one, and one whose request is not at hand
yet may have any. -/
def State.ttRange (s : State) (t : Tier) (p : Nat) (e : TtEntry) : Option (List Span) :=
  if !e.moving then some (spanOf e.base.toNat e.length.toNat)
  else
    let spans := match e.copy with
      | some q => M.ttSpans t.core q
      | none => do M.ttSpans t.core (← M.ttRequest t p e)
    match (s.runEngine spans).1 with
    | .ok xs => some xs
    | .error .wait => none
    | .error (.trap _) => some []

/-- Two ranges overlap. -/
def spansMeet (xs ys : Option (List Span)) : Bool :=
  match xs, ys with
  | some xs, some ys => xs.any fun x => ys.any fun y => decide (x.1 < y.2) && decide (y.1 < x.2)
  | _, _ => true

/-- The entries before `i` whose range overlaps that of entry `i`. -/
def State.ttBefore (s : State) (t : Tier) (p i : Nat) : List TtEntry :=
  match t.entries[i]? with
  | none => []
  | some e =>
    let r := s.ttRange t p e
    (t.entries.take i).filter fun x => spansMeet (s.ttRange t p x) r

/-- The entry is met or failed. -/
def TtEntry.over (e : TtEntry) : Bool := e.state == .met || e.state == .failed

/-- The latest marker lets an entry begin (16 R385). -/
def TtEntry.admitted (e : TtEntry) (latest : Nat) : Bool := decide (e.marker ≤ latest + e.lead) && decide (e.marker ≤ latest + 64)

/-- Entry `i` is ready to begin (16 R385), behind what the MARK that lets it begin has released (R388). -/
def State.ttReady (s : State) (t : Tier) (p i : Nat) : Bool :=
  match t.entries[i]? with
  | none => false
  | some e =>
    t.active && e.state == .pending && e.admitted t.latest &&
      decide ((t.entries.filter (·.state == .inFlight)).length < 16) && s.allPerformed e.after &&
      (s.ttBefore t p i).all TtEntry.over

/-- The state with an entry of a partition's timetable replaced. -/
def State.setTtEntry (s : State) (p i : Nat) (e : TtEntry) : State :=
  let x := s.partAt p
  s.setPart p { x with tier := { x.tier with entries := x.tier.entries.set i e } }

/-- The fault of an entry whose context is absent is logged (16 R386, 13 R353). -/
def State.ttLog (s : State) (p : Nat) (e : TtEntry) (x : Exc) : State :=
  let t := (s.partAt p).tier
  match (s.coreAt t.core).departed.find? fun d => d.cid == t.cid && d.part == p with
  | none => s
  | some d => s.logFault d.husk x.addr (tokenWord 1 0 ((e.copy.map (·.bytes)).getD 0)) x.code 1 0 t.slot 0

/-- The entry has failed (16 R385). -/
def State.ttFail (s : State) (p i : Nat) (e : TtEntry) (x : Exc) : State :=
  s.setTtEntry p i { e with state := .failed, cause := x.code, faddr := x.addr }

/-- The address of entry `i`: the entries follow the header (16 R383). -/
def Tier.entryAddr (t : Tier) (i : Nat) : Word := t.header + 32 + BitVec.ofNat 64 (32 * i)

/-- A moving entry's request keeps R384: a kind from 0x01 to 0x08 and a good request (09 R242). -/
def ttRequestGood (domain : Nat) (q : QEntry) : Bool :=
  decide (1 ≤ reqKind q.w0) && decide (reqKind q.w0 ≤ 8) && requestGood domain q.w0 q.w3

/-- An entry begins: it is read again, and its request with it (16 R385, R387). -/
def M.ttBegin (t : Tier) (p i : Nat) : M TtEntry := do
  M.portOpen (t.agent p)
  let va := t.entryAddr i
  let kernel ← M.readBytes (t.agent p) false (pagesOf t.header 32)
  let bs ← M.readBytes (t.agent p) false (pagesOf va 32)
  if !ttGood (descField kernel 12 2) bs then M.trap { code := 0x01, addr := va }
  let e := { ttParse bs with state := .inFlight }
  if !e.moving then return e
  let q ← M.ttRequest t p e
  if !ttRequestGood (← get).domain q then M.trap { code := 0x01, addr := e.base }
  return { e with copy := some q }

/-- TT_ENTRY_BEGIN: entry `i` begins where it is ready and no entry before it is (16 R385). -/
def State.ttEntryBegin (s : State) (p i : Nat) : State :=
  let t := (s.partAt p).tier
  match t.entries[i]? with
  | none => s
  | some e =>
    if !s.ttReady t p i || (List.range i).any (s.ttReady t p) then s
    else match s.runEngine (M.ttBegin t p i) with
      | (.ok e, s) => s.setTtEntry p i e
      | (.error .wait, _) => s
      | (.error (.trap x), s) => (s.ttLog p e x).ttFail p i e x

/-! ## Entries in flight -/

/-- The places that a piece of a request reads. -/
def M.pieceSource (core : Nat) (q : QEntry) (p : Piece) : M (List (Word × Place)) := do
  let at_ := fun (va : Word) => (pagesOf va p.n).mapM fun (va, n) => do return (va, ← M.bulkPlace (q.agent core) .load va n true 0)
  match p.src with
  | .mem va => at_ va
  | .index i off =>
    let bs ← M.entryRead core q (pagesOf (q.w3 + BitVec.ofNat 64 (4 * i)) 4)
    at_ (q.w1 + BitVec.ofNat 64 (natOfBytes bs * 2 ^ reqFields q.w0 + off))
  | _ => return []

/-- The place lies in local HBM; it lies in other memory. -/
def Place.inHbm : Place → Bool
  | .mem key _ _ _ => decide (key < 2 ^ 40)
  | _ => false
def Place.beyondHbm : Place → Bool
  | .mem key _ _ _ => decide (2 ^ 40 ≤ key)
  | _ => false

/-- A chunk of a moving entry reads and writes where its action and tier say (16 R384); elsewhere the entry fails with cause
0x01.  The check only looks: the chunk itself makes the accesses. -/
def M.ttWhere (core action tier : Nat) (q : QEntry) : M Unit := do
  let s ← get
  let (ps, _, _) := q.nextChunk
  let bad := fun (va : Word) => M.trap (α := Unit) { code := 0x01, addr := va }
  for p in ps do
    let src ← M.pieceSource core q p
    let dst ← (pagesOf (p.dst.getD 0) p.n).mapM fun (va, n) => do
      return (va, ← M.bulkPlace (q.agent core) .store va n true 0 q.covers)
    let srcOk := fun (va : Word) (pl : Place) => action == 0 || (if tier = 0 then spaceOf va == .scratch else pl.inHbm)
    let dstOk := fun (va : Word) (pl : Place) =>
      if action = 0 then (if tier = 0 then spaceOf va == .scratch else pl.inHbm)
      else if tier = 0 then spaceOf va == .global else pl.beyondHbm
    match src.find? fun x => !srcOk x.1 x.2 with
    | some x => bad x.1
    | none => pure ()
    match dst.find? fun x => !dstOk x.1 x.2 with
    | some x => bad x.1
    | none => pure ()
  set s

/-- The next chunk of a moving entry (16 R385, 09 R254). -/
def M.ttChunk (core action tier : Nat) (q : QEntry) : M QEntry := do
  let q ← M.entryBegin core q
  if q.seg < q.segCount then M.ttWhere core action tier q
  M.chunkStep core q

/-- The end of a DEADLINE: met where every entry before it on its range is met; where one failed it fails too, with its cause
(16 R384; log entry 17). -/
def State.ttDeadline (s : State) (t : Tier) (p i : Nat) (e : TtEntry) : State :=
  let before := s.ttBefore t p i
  match before.find? fun x => x.state == .failed with
  | some x => s.setTtEntry p i { e with state := .failed, cause := x.cause, faddr := x.faddr }
  | none => if before.all fun x => x.state == .met then s.setTtEntry p i { e with state := .met } else s

/-- A fetch to the rim cache goes on by a page, as PREF.rim does, and is met at its end; what PREF leaves out is not waited for (16
R384, log entry 17). -/
def State.ttFetch (s : State) (t : Tier) (p i : Nat) (e : TtEntry) : State :=
  let va := e.base + BitVec.ofNat 64 e.fetched
  let k := min (e.length.toNat - e.fetched) (4096 - va.toNat % 4096)
  if !s.portOpen (t.agent p) then s
  else
  let (s, more) := s.prefRange (t.agent p) false .rim 1 va k
  if more && decide (e.fetched + k < e.length.toNat) then s.setTtEntry p i { e with fetched := e.fetched + k }
  else s.setTtEntry p i { e with state := .met }

/-- TT_ENTRY_COMPLETE: an entry in flight goes on, and is met once what it asks is done (16 R384).  The fault that stops it is logged as
it occurs where its context is absent (R386), and it has failed once its bytes are accounted for, as a queue entry's are (16 R385, 09 R254, R256). -/
def State.ttEntryComplete (s : State) (p i : Nat) : State :=
  let t := (s.partAt p).tier
  match t.entries[i]? with
  | none => s
  | some e =>
    if e.state ≠ .inFlight then s
    else match e.copy with
      | some q =>
        if !s.allPerformed q.after then s
        else
          let (s1, q) := s.settleEntry t.core q
          let s1 := s1.setTtEntry p i { e with copy := some q }
          match q.status with
          | some _ =>
            if !q.dests.all (·.sent) then s1
            else match e.fault with
              | none => s1.setTtEntry p i { e with copy := some q, state := .met }
              | some (code, addr) => s1.ttFail p i { e with copy := some q } { code, addr }
          | none =>
            match s1.runEngine (M.ttChunk t.core e.action e.tier q) with
            | (.ok q, s2) => s2.setTtEntry p i { e with copy := some q }
            | (.error .wait, _) => s1
            | (.error (.trap x), s2) =>
              (s2.ttLog p { e with copy := some q } x).setTtEntry p i { e with copy := some { q with status := some 1 }, fault := some (x.code, x.addr) }
      | none =>
        let met := fun (s : State) => s.setTtEntry p i { e with state := .met }
        if e.action = 0 then s.ttFetch t p i e
        else if e.action = 3 then s.ttDeadline t p i e
        else if e.length ≠ 0 ∧ !rangeInG e.base.toNat e.length.toNat then
          (s.ttLog p e (accessExc e.base 0)).ttFail p i e (accessExc e.base 0)
        else if e.action = 1 then met (s.pinRange p e.reg e.base.toNat e.length.toNat e.ways).1
        else met (s.evictRange p e.reg e.base.toNat e.length.toNat)

/-- TT_ENTRY_BEGIN (16 R385). -/
def execTtEntryBegin (part entry : Nat) (s : State) : Out := .next (s.ttEntryBegin part entry)
/-- TT_ENTRY_COMPLETE (16 R385). -/
def execTtEntryComplete (part entry : Nat) (s : State) : Out := .next (s.ttEntryComplete part entry)

/-! ## Instructions -/

/-- The first entry that breaks R383 or R384, and the first whose marker is below that of the entry before it. -/
def ttBroken (kernel : Nat) (raw : List (List Byte)) : Option Nat := raw.findIdx? fun bs => !ttGood kernel bs
def ttDisorder (es : List TtEntry) : Option Nat :=
  ((es.zip (es.drop 1)).findIdx? fun (x, y) => decide (y.marker < x.marker)).map (· + 1)

/-- TTGO's checks of a timetable: the entries, or the result that refuses it (16 R387). -/
def M.ttRead (a : Agent) (header : Word) : M (Except Word (List TtEntry)) := do
  let head ← M.readBytes a false (pagesOf header 32)
  let count := descField head 8 4
  let bytes ← M.readBytes a false (pagesOf (header + 32) (32 * count))
  if 65535 < count ∨ descField head 14 18 ≠ 0 then return .error 1
  let raw := (List.range count).map fun k => (bytes.drop (32 * k)).take 32
  match ttBroken (descField head 12 2) raw with
  | some k => return .error (BitVec.ofNat 64 (2 + k * 2 ^ 32))
  | none =>
    let es := raw.map ttParse
    match ttDisorder es with
    | some k => return .error (BitVec.ofNat 64 (3 + k * 2 ^ 32))
    | none => return .ok es

/-- TTGO (16 R387).  It waits for the strand's own messages, and so is a release for them. -/
def execTtgo (d a b : Reg) (s : State) : Out :=
  partIssue (versWord d a b 0 5) [a, b] [d] (fun p => runM do
    let s ← get
    let t := s.me
    let x := s.partAt p
    if s.anyBusy s.cur || (x.tier.active && x.tier.entries.any (·.state == .inFlight)) then M.wait
    let finish := fun (w : Word) => do
      M.modifyMe fun t => t.writeG d w
      M.done
    let header := t.readG a
    if header = 0 then
      set (s.setPart p { x with tier := { x.tier with active := false } })
      finish 0
    else
      if header.toNat % 32 ≠ 0 then M.trap (misalignExc header)
      match ← M.ttRead s.myAgent header with
      | .error w => finish w
      | .ok entries =>
        let g := s.myAgent
        modify fun s => s.setPart p { s.partAt p with tier :=
          { active := true, header, latest := bitsNat (t.readG b) 31 0, entries, core := g.core, slot := s.mySlotNo,
            cid := g.cid, ptbase := g.ptbase, mode := g.mode, adopted := g.adopted } }
        finish 0) s

/-- The code of an entry's state (16 R389, R390). -/
def TtState.code : TtState → Nat
  | .pending => 0
  | .inFlight => 1
  | .met => 2
  | .failed => 3

/-- The hard entries with a marker at or below `n` that are not met, with their indexes (16 R388). -/
def Tier.due (t : Tier) (n : Nat) : List (TtEntry × Nat) :=
  t.entries.zipIdx.filter fun (e, _) => !e.soft && decide (e.marker ≤ n) && e.state != .met

/-- INFO of SCHED_MISS (16 R389). -/
def missInfo (e : TtEntry) (k : Nat) : Word :=
  BitVec.ofNat 64 (k + e.state.code * 2 ^ 16 + e.cause % 256 * 2 ^ 24 + e.marker * 2 ^ 32)

/-- The tier engine with its latest marker moved on by a MARK: the entries that it lets begin follow what the strand has in flight (16
R388). -/
def Tier.mark (t : Tier) (n : Nat) (after : List Nat) : Tier :=
  let latest := max t.latest n
  { t with latest
           entries := t.entries.map fun e =>
             if !e.admitted t.latest && e.admitted latest then { e with after } else e }

/-- MARK (16 R388). -/
def execMark (a : Reg) (w : Bool) (s : State) : Out :=
  partIssue (versWord 0 a 0 (if w then 1 else 0) 4) [a] [] (fun p => runM do
    let s ← get
    let x := s.partAt p
    if !x.tier.active then M.done
    else
      let n := bitsNat (s.me.readG a) 31 0
      let t := x.tier.mark n (s.outstanding s.cur)
      set (s.setPart p { x with tier := t })
      let due := t.due n
      if w && due.any fun e => !e.1.over then M.wait
      match due with
      | [] => M.done
      | (e, k) :: _ => M.trap { code := 0x0D, info := missInfo e k }) s

/-- TTSTAT.st (16 R390). -/
def execTtstatSt (d : Reg) (s : State) : Out :=
  partIssue (versWord d 0 0 0 6) [] [d] (fun p s =>
    let t := (s.partAt p).tier
    let first := match t.due t.latest with
      | [] => 0xFFFF
      | (_, k) :: _ => k
    let failed := t.entries.any (·.state == .failed)
    complete (fun x => x.writeG d (BitVec.ofNat 64
      ((if t.active then 2 ^ 63 else 0) + (if failed then 2 ^ 62 else 0) + first * 2 ^ 32 + t.latest))) s) s

/-- TTSTAT.ent (16 R390). -/
def execTtstatEnt (d a : Reg) (s : State) : Out :=
  partIssue (versWord d a 0 1 6) [a] [d] (fun p s =>
    let w : Word := match (s.partAt p).tier.entries[bitsNat (s.me.readG a) 15 0]? with
      | none => BitVec.allOnes 64
      | some e => BitVec.ofNat 64 (e.marker * 2 ^ 32 + e.cause % 256 * 2 ^ 8 + e.state.code)
    complete (fun t => t.writeG d w) s) s

/-- TTSTAT.faddr (16 R390). -/
def execTtstatFaddr (d : Reg) (s : State) : Out :=
  partIssue (versWord d 0 0 2 6) [] [d] (fun p s =>
    let w : Word := (((s.partAt p).tier.entries.find? (·.state == .failed)).map (·.faddr)).getD 0
    complete (fun t => t.writeG d w) s) s

end Sys2Proof.Machine
end

