-- ==== Sys2Proof/Machine/Work.lean ====
section
/-!
DEFINITION. Machine/Work.lean: seeds, harvests and nests (12 R309 to R315), the seed queues (R312), dispatch (R318), SEEDPUT,
SEEDYIELD, SEEDEND, NESTGO and PRIO (R320 to R324), and SLOTWAIT (14 R369).
-/

namespace Sys2Proof.Machine

/-! ## Records -/

/-- A field of a record. -/
def recField (bs : List Byte) (off n : Nat) : Nat := natOfBytes ((bs.drop off).take n)

/-- A word of a record. -/
def recWord (bs : List Byte) (off : Nat) : Word := BitVec.ofNat 64 (recField bs off 8)

/-- A seed record is well formed (12 R309). -/
def seedGood (bs : List Byte) : Bool :=
  let flags := recField bs 56 4
  decide (flags % 16 ≤ 11) && flags / 32 == 0 && recField bs 60 4 == 0 && recField bs 0 8 % 4 == 0 &&
    recField bs 48 8 % 16 == 0

/-- The priority that a seed record asks for (12 R309). -/
def seedPrio (bs : List Byte) : Nat := recField bs 56 4 % 16

/-- The seed of a record, at a priority, behind messages (12 R309, R320). -/
def seedOf (bs : List Byte) (prio : Nat) (after : List Nat) : Seed :=
  { pc := recWord bs 0, frame := recWord bs 8, args := #v[recWord bs 16, recWord bs 24, recWord bs 32, recWord bs 40],
    harvest := recWord bs 48, prio, adopt := recField bs 56 4 / 16 % 2 == 1, after }

/-- CEIL (12 R306). -/
def CtxCsrs.ceil (c : CtxCsrs) : Nat := bitsNat c.prioceil 3 0

/-! ## Seed queues -/

/-- Queue `q` of a partition. -/
def Partition.queueAt (p : Partition) (q : Nat) : SeedQueue := p.queues.toList.getD q {}

/-- The state with a seed queue of a partition replaced, and its DEPTH written (12 R312). -/
def State.setSeedQueue (s : State) (p q : Nat) (x : SeedQueue) : State :=
  let part := s.partAt p
  let s := s.setPart p { part with queues := part.queues.set (q % 12) x (Nat.mod_lt q (by decide)) }
  s.writePa (part.sched + 0x10 + 8 * q) 8 x.seeds.length

/-- The state with a block taken from a partition's free list, and the block; nothing where there is none (12 R312). -/
def State.takeBlock (s : State) (p : Nat) : Option (State × Nat) :=
  let sched := (s.partAt p).sched
  let b := s.readPa sched 8
  if b = 0 then none else some (s.writePa sched 8 (s.readPa b 8), b)

/-- The state with a block returned to a partition's free list (12 R312). -/
def State.giveBlock (s : State) (p b : Nat) : State :=
  let sched := (s.partAt p).sched
  (s.writePa b 8 (s.readPa sched 8)).writePa sched 8 b

/-- REFUSED advances (12 R312). -/
def State.countRefused (s : State) (p : Nat) : State :=
  let a := (s.partAt p).sched + 8
  s.writePa a 8 (s.readPa a 8 + 1)

/-- The state with a seed at the tail of the queue of its priority; nothing where a block is needed and none is free (12
R312). -/
def State.enqueueSeed (s : State) (p : Nat) (x : Seed) : Option State :=
  let q := (s.partAt p).queueAt x.prio
  let put := fun (s : State) (q : SeedQueue) => s.setSeedQueue p x.prio { q with seeds := q.seeds ++ [x] }
  if q.taken + q.seeds.length < 64 * q.blocks.length then some (put s q)
  else (s.takeBlock p).map fun (s, b) => put s { q with blocks := q.blocks ++ [b] }

/-- The state with the head of a seed queue taken, and the seed; blocks that empty are returned (12 R312). -/
def State.dequeueSeed (s : State) (p q : Nat) : Option (State × Seed) :=
  let x := (s.partAt p).queueAt q
  match x.seeds with
  | [] => none
  | e :: rest =>
    let done := if rest.isEmpty then x.blocks else if x.taken = 63 then x.blocks.take 1 else []
    let taken := if done.isEmpty then x.taken + 1 else 0
    let s := s.setSeedQueue p q { x with seeds := rest, blocks := x.blocks.drop done.length, taken, age := 0, since := none }
    some (done.foldl (fun s b => s.giveBlock p b) s, e)

/-! ## Nests -/

/-- Bits `b` of dimension `i`'s position gathered from a Morton code of `d` dimensions (12 R315). -/
def mortonIndex (d z i : Nat) : Nat := ((List.range 33).map fun b => if z.testBit (b * d + i) then 2 ^ b else 0).sum

/-- The position of a Morton code lies within the extents. -/
def mortonGood (ext : List Nat) (z : Nat) : Bool :=
  decide (z < 2 ^ (33 * ext.length)) && ext.zipIdx.all fun (n, i) => decide (mortonIndex ext.length z i < n)

/-- The least code at or after `z` whose position lies within the extents; `acc` holds the bits above the `n` that are still to
be chosen, which are those of `z`. -/
def mortonNext (ext : List Nat) (z : Nat) : Nat → Nat → Option Nat
  | 0, acc => if mortonGood ext acc then some acc else none
  | n + 1, acc =>
    let bit := z / 2 ^ n % 2
    let same := acc * 2 + bit
    let deeper := if mortonGood ext (same * 2 ^ n) then mortonNext ext z n same else none
    let above := (acc * 2 + 1) * 2 ^ n
    match deeper with
    | some r => some r
    | none => if bit = 0 && mortonGood ext above then some above else none

/-- The extents of a nest. -/
def Nest.extents (x : Nest) : List Nat := x.dims.map fun e => e.2.1

/-- The position that comes at or after number `k` in the nest's order: its number, and the index of each dimension (12
R315). -/
def Nest.position (x : Nest) (k : Nat) : Option (Nat × List Nat) :=
  let ext := x.extents
  if x.order = 2 then
    (mortonNext ext k 140 0).map fun z => (z, (List.range ext.length).map (mortonIndex ext.length z))
  else if ext.foldl (· * ·) 1 ≤ k then none
  else
    let fast := if x.order = 0 then ext.reverse else ext
    let js := (fast.foldl (fun (r : Nat × List Nat) n => (r.1 / n, r.2 ++ [r.1 % n])) (k, [])).2
    some (k, if x.order = 0 then js.reverse else js)

/-- The value that an iteration receives for a dimension (12 R315). -/
def iterArg (dim : Int × Nat × Int) (j : Nat) : Word := sextNat 32 (wrapNat 32 (dim.1 + (j : Int) * dim.2.2))

/-- The seed of an iteration (12 R315). -/
def Nest.seedAt (x : Nest) (js : List Nat) : Seed :=
  let args := (x.dims.zip js).map fun (d, j) => iterArg d j
  { pc := x.pc, frame := x.frame, args := #v[args.getD 0 0, args.getD 1 0, args.getD 2 0, args.getD 3 0],
    harvest := x.harvest, prio := x.prio, adopt := x.adopt }

/-- The nests without those at the head whose last iteration has been dispatched (12 R323). -/
def trimNests : List Nest → List Nest
  | [] => []
  | x :: xs => if (x.position x.next).isSome then x :: xs else trimNests xs

/-- A nest record is well formed (12 R314). -/
def nestGood (bs : List Byte) : Bool :=
  let d := recField bs 17 1
  let order := recField bs 16 1
  let flags := recField bs 18 2
  let limit := if order = 2 ∧ d = 3 then 2 ^ 21 else if order = 2 ∧ d = 4 then 2 ^ 16 else 2 ^ 32
  recField bs 0 8 % 4 == 0 && decide (order ≤ 2) && decide (1 ≤ d) && decide (d ≤ 4) && decide (flags % 16 ≤ 11) &&
    flags / 32 == 0 && recField bs 20 4 == 0 && recField bs 24 8 % 16 == 0 && recField bs 96 32 == 0 &&
    (List.range 4).all fun i =>
      if i < d then recField bs (32 + 16 * i + 12) 4 == 0 && decide (recField bs (32 + 16 * i + 4) 4 ≤ limit)
      else recField bs (32 + 16 * i) 16 == 0

/-- The nest of a record, at a priority, behind messages (12 R314, R323). -/
def nestOf (bs : List Byte) (prio : Nat) (after : List Nat) : Nest :=
  { pc := recWord bs 0, frame := recWord bs 8, order := recField bs 16 1,
    dims := (List.range (recField bs 17 1)).map fun i =>
      (signedOf 32 (recField bs (32 + 16 * i) 4), recField bs (32 + 16 * i + 4) 4,
        signedOf 32 (recField bs (32 + 16 * i + 8) 4)),
    prio, adopt := recField bs 18 2 / 16 % 2 == 1, harvest := recWord bs 24, after }

/-- The priority that a nest record asks for (12 R314). -/
def nestPrio (bs : List Byte) : Nat := recField bs 18 2 % 16

/-! ## Ending a strand -/

/-- The strand that moves ends: its adoption (15 R376) is released, its gang notes the end, and its slot is left in a state (12
R321, R322). -/
def State.endStrand (s : State) (slot : SlotState) : State :=
  let k := s.cur
  let t := s.me
  let part := s.myPart
  let s := (s.releaseAdoption k).forsake fun m => m == { s.senderOf k with dead := m.dead }
  let c := s.myCore
  let i := s.mySlotNo
  let c := { c with
    slots := c.slots.set (i % 4) { c.slots[i % 4]'(Nat.mod_lt i (by decide)) with state := slot } (Nat.mod_lt i (by decide)),
    q3 := c.q3.map fun x => if x.slot = i ∧ x.part.isSome then { x with dead := true } else x,
    halt := c.halt.filter fun h => h.sup || h.slot != i,
    qfaults := c.qfaults.filter fun x => x.1 / 4 != i }
  let s := s.setMyCore c
  let mine := fun (g : Gang) => t.kind == .gang && some g.part == part && g.handle == t.gang
  let gangs := s.gangs.map fun g => if mine g then { g with ended := g.ended ++ [t.member] } else g
  { s with gangs := gangs.filter fun g => !(mine g && decide (t.sizem1 < g.ended.length)) }.setMe {}

/-! ## Harvests -/

/-- The bytes at a location, as a number, for a lossy page (03 R78). -/
def State.readLossy (s : State) (lossy key n : Nat) : Nat := lossyRead lossy key n (s.readMem key n)

/-- The state with a number written, for a lossy page (03 R78). -/
def State.writeLossy (s : State) (lossy key n v : Nat) : State := s.writeMem key n (lossyWrite lossy n v)

/-- The record at an address, read as a load of its size; poisoned data raises POISON (12 R320, R323, 04 R93). -/
def M.readRecord (va : Word) (n : Nat) : M (List Byte) := do
  let p ← M.check (← get).myAgent .load va n false 0
  let (x, bad) ← M.read p n
  if bad then M.trap { code := 0x15, addr := va }
  return bytesOf n x

/-- The continuation of a harvest is enqueued; where it cannot be, ERR is set and REFUSED advances (12 R311). -/
def M.continue (p lossy key : Nat) (bytes : Except Exc (List Byte)) : M Unit := do
  let s ← get
  let fail := fun (s : State) =>
    (s.writeLossy lossy (key + 4) 4 (s.readLossy lossy (key + 4) 4 ||| 2 ^ 31)).countRefused p
  match bytes with
  | .error _ => set (fail s)
  | .ok bs =>
    if !seedGood bs then set (fail s)
    else
      let x := seedOf bs (min (seedPrio bs) s.myCore.csrs.ceil) (s.outstanding s.cur)
      match s.enqueueSeed p x with
      | some s => set s
      | none => set (fail s)

/-- A harvest decrement at a location (12 R311): COUNT is 0 before the record at CONT is read.  Where that read has to wait, the decrement
waits with nothing done. -/
def M.decrement (p lossy key : Nat) : M Unit := do
  let s ← get
  let count := s.readLossy lossy key 4
  let flags := s.readLossy lossy (key + 4) 4
  if count = 0 then set (s.writeLossy lossy (key + 4) 4 (flags ||| 2 ^ 31))
  else if count = 1 then
    let cont : Word := BitVec.ofNat 64 (s.readLossy lossy (key + 8) 8)
    if cont ≠ 0 then
      discard (M.attempt (M.readRecord cont 64))
      set s
    modify fun s => s.writeLossy lossy key 4 0
    let bytes ← if cont = 0 then pure (.ok []) else M.attempt (M.readRecord cont 64)
    if cont ≠ 0 then M.continue p lossy key bytes
    if flags % 2 = 1 then
      modify fun s =>
        let n := flags / 2 % 2
        let port := s.portAt n
        s.setPort n { port with sent := port.sent ++ [.msix (flags / 256 % 256)] }
  else set (s.writeLossy lossy key 4 (count - 1))

/-- The checks of a strand's harvest, and its decrement (12 R322). -/
def M.harvest (p : Nat) (h : Word) : M Unit := do
  if h.toNat % 16 ≠ 0 then M.trap (misalignExc h)
  if spaceOf h ≠ .global then M.trap (accessExc h 0)
  match ← M.check (← get).myAgent .store h 4 false 0 with
  | .mem key lossy _ _ =>
    let s ← get
    if s.inFlight s.cur key 16 then M.wait
    if s.isPoisoned key 16 then M.trap { code := 0x15, addr := h }
    M.decrement p lossy key
  | _ => M.trap (accessExc h 0)

/-! ## Instructions -/

/-- The word of a WORK form (02 R42). -/
def workWord (d a : Reg) (n : BitVec 7) (f : BitVec 4) : IWord := rrWord 0x31 d a 0 n f

/-- SEEDPUT (12 R320). -/
def execSeedput (d a : Reg) (s : State) : Out :=
  partIssue (workWord d a 0 0) [a] [d] (fun p => runM do
    let bs ← M.readRecord ((← M.me).readG a) 64
    let s ← get
    let answer := fun (s : State) (x : Nat) => do
      set (s.setMe (s.me.writeG d (BitVec.ofNat 64 x)))
      M.done
    if !seedGood bs then answer (s.countRefused p) 3
    else
      let q := min (seedPrio bs) s.myCore.csrs.ceil
      match s.enqueueSeed p (seedOf bs q (s.outstanding s.cur)) with
      | none => answer (s.countRefused p) 1
      | some s => answer s (q * 256 + if q < seedPrio bs then 2 else 0)) s

/-- What SEEDYIELD and SEEDEND wait for (12 R321, R322): no remote write is unacknowledged, no entry of q0 to q2 is left, and
every load has its data. -/
def M.endWait : M Unit := do
  let s ← get
  if s.me.usc ≠ 0 || s.readBusy s.cur || s.myCore.hasEntries s.mySlotNo s.amSup 7 then M.wait

/-- SEEDYIELD (12 R321). -/
def execSeedyield (d a : Reg) (s : State) : Out :=
  if s.me.kind = .gang then raise (illegalExc (workWord d a 0 1) 3) s
  else partIssue (workWord d a 0 1) [a, 2, 10, 11, 12, 13] [d] (fun p => runM do
    let t ← M.me
    let pc := t.readG a
    if pc.toNat % 4 ≠ 0 then M.trap (misalignExc pc)
    M.endWait
    let s ← get
    let x : Seed :=
      { pc, frame := t.readG 2, args := #v[t.readG 10, t.readG 11, t.readG 12, t.readG 13], harvest := t.harvest,
        prio := t.prio, adopt := false, after := s.outstanding s.cur }
    match s.enqueueSeed p x with
    | none =>
      set (s.countRefused p)
      M.modifyMe fun t => t.writeG d 1
      M.done
    | some s' =>
      M.release
      let s ← get
      let s := (s.enqueueSeed p x).getD s'
      set (s.endStrand .seedIdle)) s

/-- SEEDEND (12 R322). -/
def execSeedend (s : State) : Out :=
  partIssue (workWord 0 0 0 2) [] [] (fun p => runM do
    M.endWait
    let t ← M.me
    let s ← get
    if s.myCore.leases.any s.owns && decide (16 ≤ s.myCore.q3.length) then
      M.wait
    if t.kind ≠ .gang ∧ t.harvest ≠ 0 then M.harvest p t.harvest
    M.release
    modify fun s => s.endStrand (if t.kind = .gang then .gangEmpty else .seedIdle)) s

/-- NESTGO (12 R323). -/
def execNestgo (d a : Reg) (s : State) : Out :=
  partIssue (workWord d a 0 3) [a] [d] (fun p => runM do
    let bs ← M.readRecord ((← M.me).readG a) 128
    let s ← get
    let answer := fun (s : State) (x : Word) => do
      set (s.setMe (s.me.writeG d x))
      M.done
    let part := s.partAt p
    if !nestGood bs then answer s 3
    else if 8 ≤ part.nests.length then answer s 1
    else
      let x := nestOf bs (min (nestPrio bs) s.myCore.csrs.ceil) (s.outstanding s.cur)
      answer (s.setPart p { part with nests := trimNests (part.nests ++ [x]) }) 0) s

/-- PRIO (12 R324). -/
def execPrio (d a : Reg) (s : State) : Out :=
  unitIssue (workWord d a 0 4) [a] [d] (fun s =>
    let c := s.myCore.csrs.ceil
    complete (fun t =>
      { t.writeG d (BitVec.ofNat 64 t.prio) with prio := min (min (t.readG a).toNat c) 11 }) s) s

/-- The least tick at which a slot of the core's may begin, after `t` (14 R369). -/
def nextSlot (c : CtxCsrs) (t : Nat) : Option Nat :=
  let w := 2 ^ (bitsNat c.slotper 3 0 - 6)
  ((List.range 64).map fun i => (t / w + 1 + i) * w).find? (slotOwned c)

/-- SLOTWAIT's tick, where the context has slots: the present tick lies in one, unless the next is asked for (14 R369).  The slots
of the present tick are `now`'s, and those of later ticks are `c`'s (14 R366). -/
def slotwaitTick (now c : CtxCsrs) (t : Nat) (next : Bool) : Option Nat :=
  if !bitAt now.slotper 16 then none
  else if !next && slotOwned now t then some t
  else nextSlot c t

/-- SLOTWAIT ends at its tick: a slotted instruction that follows it is checked at that tick, unless it is 0 (14 R369, 19 R411). -/
def Strand.slotwaitDone (t : Strand) (d : Reg) (tick : Nat) : Strand :=
  { (t.writeG d (BitVec.ofNat 64 tick)).advance with slotTie := if tick = 0 then none else some tick }

/-- SLOTWAIT (14 R369). -/
def execSlotwait (d : Reg) (n : Bool) (s : State) : Out :=
  unitIssue (workWord d 0 (if n then 1 else 0) 5) [] [d] (fun s =>
    match slotwaitTick (s.myCore.slotsAt s.gtime) s.myCore.csrs s.gtime n with
    | none => complete (fun t => t.writeG d 0) s
    | some r =>
      if r = s.gtime then .next (s.setMe (s.me.slotwaitDone d r))
      else .next (s.setMe { s.me with cond := .asleep (.slotwait d r) })) s

/-! ## Dispatch -/

/-- A contender for an idle slot: a queue's head or the walker's next iteration (12 R318). -/
structure Contender where
  queue : Option Nat
  prio  : Nat
  age   : Nat
  since : Nat
  deriving DecidableEq, Repr

/-- The contenders of a partition: what each follows has been performed (12 R318, R320). -/
def State.seedContenders (s : State) (p : Nat) : List Contender :=
  let part := s.partAt p
  let queues := (List.range 12).filterMap fun q =>
    let x := part.queueAt q
    match x.seeds with
    | [] => none
    | e :: _ => if s.allPerformed e.after then some { queue := some q, prio := q, age := x.age, since := x.since.getD s.gtime }
      else none
  let walker := match part.nests with
    | [] => []
    | x :: _ => if s.allPerformed x.after then
        [{ queue := none, prio := x.prio, age := part.nestAge, since := part.nestSince.getD s.gtime }] else []
  queues ++ walker

/-- One contender is taken before another: the saturated first, the earliest of them first; then the higher priority; and a
queue before the walker (12 R316, R318). -/
def Contender.ahead (x y : Contender) : Bool :=
  let later := decide (y.prio < x.prio) || (x.prio == y.prio && x.queue.isSome && y.queue.isNone)
  if 255 ≤ x.age then
    if 255 ≤ y.age then decide (x.since < y.since) || (x.since == y.since && later) else true
  else if 255 ≤ y.age then false
  else later

/-- The contender that is taken (12 R318). -/
def chooseContender (xs : List Contender) : Option Contender := xs.find? fun x => xs.all fun y => x == y || x.ahead y

/-- The state with the age of a contender that was not taken advanced (12 R318). -/
def State.ageContender (s : State) (p : Nat) (x : Contender) : State :=
  let part := s.partAt p
  let age := min 255 (x.age + 1)
  match x.queue with
  | some q =>
    let y := part.queueAt q
    s.setPart p { part with queues := part.queues.set (q % 12) { y with age, since := some x.since } (Nat.mod_lt q (by decide)) }
  | none => s.setPart p { part with nestAge := age, nestSince := some x.since }

/-- The state with a contender taken, and its seed. -/
def State.takeContender (s : State) (p : Nat) (x : Contender) : Option (State × Seed) :=
  match x.queue with
  | some q => s.dequeueSeed p q
  | none =>
    let part := s.partAt p
    match part.nests with
    | [] => none
    | n :: rest =>
      match n.position n.next with
      | none => none
      | some (k, js) =>
        let nests := trimNests ({ n with next := k + 1 } :: rest)
        some (s.setPart p { part with nests, nestAge := 0, nestSince := none }, n.seedAt js)

/-- The strand of a seed or an iteration as it starts in a slot (04 R88). -/
def startStrand (x : Seed) (kind : StrandKind) (top : Word) (prio : Nat) : Strand :=
  let g := (((((Vector.replicate 32 0).set 2 x.frame).set 3 top).set 10 x.args[0]).set 11 x.args[1]).set 12 x.args[2]
  { kind, pc := x.pc, g := g.set 13 x.args[3], prio, harvest := x.harvest }

/-- Slot `k` may take a seed: it is idle in the seed pool of a resident span, and no idle slot of the partition with a lower
STRANDID is (12 R318). -/
def State.mayDispatch (s : State) (k : Nat) : Bool :=
  let idle := fun (c : Core) (i : Nat) => c.resident && !c.merging && ((c.slots.toList.getD i {}).state == .seedIdle)
  let c := s.coreAt (k / 4)
  idle c (k % 4) && (s.strandAt k).kind == .none &&
    !(s.cores.any fun e => e.2.part == c.part && (List.range 4).any fun i =>
      decide (4 * e.1 + i < k) && idle e.2 i && (s.strandAt (4 * e.1 + i)).kind == .none)

/-- A dispatch event at slot `k` (12 R318). -/
def State.dispatch (s : State) (k : Nat) : State :=
  if !s.mayDispatch k then s
  else
    let p := (s.coreAt (k / 4)).part
    let xs := s.seedContenders p
    match chooseContender xs with
    | none => s
    | some x =>
      match s.takeContender p x with
      | none => s
      | some (s, e) =>
        let s := (xs.filter (· != x)).foldl (fun s y => s.ageContender p y) s
        let c := s.coreAt (k / 4)
        let slot := c.slots.toList.getD (k % 4) {}
        let t := startStrand e (if x.queue.isSome then .seed else .nest) slot.top (min x.prio c.csrs.ceil)
        let slots := c.slots.set (k % 4) { slot with state := .seedOccupied } (Nat.mod_lt k (by decide))
        let s := (s.setCore (k / 4) { c with slots }).setStrand k t
        if e.adopt then (s.tokbStep p k).1 else s

/-- SEED_DISPATCH (12 R318). -/
def execSeedDispatch (k : Nat) (s : State) : Out := .next (s.dispatch k)

/-- The time at which each contender became one is noted (12 R318). -/
def State.noteContenders (s : State) : State :=
  let note := fun (part : Partition) =>
    { part with
      queues := part.queues.map fun x => match x.seeds with
        | [] => x
        | e :: _ => if x.since.isNone && s.allPerformed e.after then { x with since := some s.gtime } else x
      nestSince := match part.nests with
        | [] => none
        | x :: _ => if part.nestSince.isNone && s.allPerformed x.after then some s.gtime else part.nestSince }
  { s with parts := s.parts.map fun e => (e.1, note e.2) }

end Sys2Proof.Machine
end

