-- ==== Sys2Proof/Machine/Memh.lean ====
section
/-!
DEFINITION. Machine/Memh.lean: retention registers, prefetch and cache flushes (08 R231 to R235) and the device heap (R236,
R237).
-/

namespace Sys2Proof.Machine

/-- The word of a MEMH form (08 R232). -/
def memhWord (d a b : Reg) (n : BitVec 7) (f : BitVec 4) : IWord := rrWord 0x33 d a b n f

/-- A retention range that does not lie in G-space raises ACCESS (08 R233). -/
def M.rangeCheck (base length : Word) : M Unit := do
  if length ≠ 0 ∧ rangeInG base.toNat length.toNat = false then M.trap (accessExc base 0)

/-- PIN (08 R233). -/
def execPin (d a b : Reg) (w r : BitVec 3) (s : State) : Out :=
  partIssue (memhWord d a b (0#1 ++ w ++ r) 0) [a, b] [d] (fun p => runM do
    let t ← M.me
    let base := t.readG a
    let length := t.readG b
    M.rangeCheck base length
    let (s, n) := (← get).pinRange p r.toNat base.toNat length.toNat (w.toNat + 1)
    set s
    M.modifyMe fun t => t.writeG d (BitVec.ofNat 64 n)
    M.done) s

/-- UNPIN (08 R233). -/
def execUnpin (r : BitVec 3) (s : State) : Out :=
  partIssue (memhWord 0 0 0 (0#4 ++ r) 1) [] [] (fun p => runM do
    modify fun s => s.unpin p r.toNat
    M.done) s

/-- HINTEF (08 R233). -/
def execHintef (a b : Reg) (r : BitVec 3) (s : State) : Out :=
  partIssue (memhWord 0 a b (0#4 ++ r) 2) [a, b] [] (fun p => runM do
    let t ← M.me
    let base := t.readG a
    let length := t.readG b
    M.rangeCheck base length
    modify fun s => s.evictRange p r.toNat base.toNat length.toNat
    M.done) s

/-- PREF: it retires at issue and changes no data (08 R234). -/
def execPref (a b : Reg) (x : Bool) (level : PrefLevel) (s : State) : Out :=
  issue [a, b] [] (fun s =>
    let n := (s.me.readG b).toNat
    complete id (s.prefRange s.myAgent x level (n / 4096 + 2) (s.me.readG a) n).1) s

/-- The pages of a range, checked as reads in ascending order, each with its lines flushed once it has passed; `fuel` bounds their
number (08 R235). -/
def M.flushPages (a : Agent) (kind : FlushKind) : Nat → Word → Nat → M Unit
  | 0, _, _ => pure ()
  | fuel + 1, va, n => do
    if n ≠ 0 then
      let k := min n (4096 - va.toNat % 4096)
      match ← M.bulkPlace a .load va k false 0 with
      | .mem key _ _ _ => modify fun s => (linesOf key k).foldl (fun s line => s.flushLine kind line) s
      | _ => pure ()
      M.flushPages a kind fuel (va + BitVec.ofNat 64 k) (n - k)

/-- CFLUSH (08 R235). -/
def cflush (kind : FlushKind) (a b : Reg) : State → Out :=
  issue [a, b] [] (runM do
    let t ← M.me
    let n := (t.readG b).toNat
    M.flushPages (← get).myAgent kind (n / 4096 + 2) (t.readG a) n
    M.done)

/-- CFLUSH.wb (08 R235). -/
def execCflushWb (a b : Reg) (s : State) : Out := cflush .writeBack a b s
/-- CFLUSH.wbi (08 R235). -/
def execCflushWbi (a b : Reg) (s : State) : Out := cflush .writeBackInvalidate a b s
/-- CFLUSH.inv: refused in user mode (08 R235). -/
def execCflushInv (a b : Reg) (s : State) : Out :=
  if s.me.mode = .user then raise (illegalExc (memhWord 0 a b 2 4) 4) s else cflush .invalidate a b s

/-! ## The heap -/

/-- The heap's descriptor address, and whether the heap exists, by HEAPBASE (08 R236). -/
def heapDesc (base : Word) : Word := base &&& ~~~0x7F
def heapOn (base : Word) : Bool := bitAt base 0

/-- ALLOCTRAP and HEAPBASE as core `c` sees them: those of the partition whose context is resident, which holds them (08 R236),
and the idle set's where none is (13 R417; log entry 46). -/
def State.alloctrapAt (s : State) (c : Nat) : Word :=
  let x := s.coreAt c
  if x.resident then (s.partAt x.part).alloctrap else x.csrs.alloctrap
def State.heapbaseAt (s : State) (c : Nat) : Word :=
  let x := s.coreAt c
  if x.resident then (s.partAt x.part).heapbase else x.csrs.heapbase

/-- The greatest block (08 R236). -/
def heapMax : Nat := 1048576

/-- The class of a size: the least whose blocks hold it (08 R237). -/
def heapClass (n : Nat) : Nat := ((List.range 15).find? fun c => decide (n ≤ 64 * 2 ^ c)).getD 15

/-- The place of a word of the heap, which lies in G-space, checked by R107. -/
def M.heapPlace (k : Acc) (va : Word) : M (Nat × Nat) := do
  if spaceOf va = .sync ∨ spaceOf va = .scratch then M.trap (accessExc va 0)
  match ← M.check (← get).myAgent k va 8 false 0 with
  | .mem key lossy _ _ => return (key, lossy)
  | _ => M.trap (accessExc va 0)

/-- A word of the heap, read. -/
def M.heapRead (va : Word) : M Word := do
  let (key, lossy) ← M.heapPlace .load va
  if (← get).inFlight (← get).cur key 8 then M.wait
  modify fun s => s.readHome s.myAgent key
  let s ← get
  if s.isPoisoned key 8 then M.trap { code := 0x15, addr := va }
  return BitVec.ofNat 64 (s.readLossy lossy key 8)

/-- A word of the heap written at a place that has been checked. -/
def M.heapWrite (p : Nat × Nat) (v : Word) : M Unit :=
  modify fun s => (s.writeLossy p.2 p.1 8 v.toNat).writeHome s.myAgent p.1

/-- A failed ALLOC (08 R237). -/
def M.allocFail (d : Reg) (code cls : Nat) : M Unit := do
  let s ← get
  let base := s.heapbaseAt s.myCoreNo
  if heapOn base then
    let va := heapDesc base + 120
    let n ← M.heapRead va
    let p ← M.heapPlace .store va
    M.heapWrite p (n + 1)
  if bitAt (s.alloctrapAt s.myCoreNo) 0 then
    M.trap { code := 0x13, info := BitVec.ofNat 64 (code + cls * 2 ^ 8) }
  M.modifyMe fun t => (t.writeG d 0).addFlags 0x80
  M.done

/-- ALLOC (08 R237). -/
def execAlloc (d a : Reg) (s : State) : Out :=
  issue [a] [d] (runM do
    let size := ((← M.me).readG a).toNat
    let s ← get
    let base := s.heapbaseAt s.myCoreNo
    let cls := heapClass size
    if !heapOn base || decide (heapMax < size) then M.allocFail d 1 cls
    else
      let head := heapDesc base + BitVec.ofNat 64 (8 * cls)
      let h ← M.heapRead head
      if h = 0 then M.allocFail d 0 cls
      else
        let next ← M.heapRead h
        let p ← M.heapPlace .store head
        M.heapWrite p next
        M.modifyMe fun t => t.writeG d h
        M.done) s

/-- FREE (08 R237): a release for the strand's earlier stores. -/
def execFree (a b : Reg) (s : State) : Out :=
  issue [a, b] [] (runM do
    let t ← M.me
    let block := t.readG a
    let size := (t.readG b).toNat
    if block = 0 then M.done
    else
      if heapMax < size then M.trap (accessExc block 0)
      let cls := heapClass size
      if block.toNat % (64 * 2 ^ cls) ≠ 0 then M.trap (misalignExc block)
      M.releaseWait
      let head := heapDesc ((← get).heapbaseAt (← get).myCoreNo) + BitVec.ofNat 64 (8 * cls)
      let old ← M.heapRead head
      let pb ← M.heapPlace .store block
      let ph ← M.heapPlace .store head
      M.heapWrite pb old
      M.heapWrite ph block
      M.done) s

end Sys2Proof.Machine
end

