-- ==== Sys2Proof/Machine/Csr.lean ====
section
/-!
DEFINITION. Machine/Csr.lean: the CSRs: what each reads and how each takes a written value (04 R115 to R123, 13 R335 to R340,
17 R396, and the maps of the chapters that they name), and the changes that some writes bring (07 R198, 12 R306, 13 R349, 17
R402).
-/

namespace Sys2Proof.Machine

/-! ## Numbers -/

/-- A mode reaches a CSR's range (04 R116). -/
def csrReached (m : Mode) (n : Nat) : Bool :=
  match m with
  | .user => decide (n < 0x100)
  | .supervisor => decide (n < 0x200)
  | .firmware => true

/-- The reason that refuses a CSR instruction, if any (04 R116). -/
def csrReason (m : Mode) (n : Nat) (writes : Bool) : Option Nat :=
  if !Csr.assigned n then some 3
  else if writes && Csr.readOnly n then some 3
  else if !csrReached m n then some 4
  else none

/-- The written value in the fields of a mask, and the old value elsewhere (04 R115). -/
def maskWrite (mask old v : Word) : Word := (old &&& ~~~mask) ||| (v &&& mask)

/-! ## CSRs of a strand -/

/-- FSTAT as a write leaves it (03 R68). -/
def writeFstat (old v : Word) : Word :=
  let rm := bitsNat v 2 0
  maskWrite (if 1 ≤ rm ∧ rm ≤ 5 then 0x1FFF07 else 0x1FFF00) old v

/-- An NFMT register as a write leaves it, VALID following its fields (03 R59). -/
def writeNfmt (old v : Word) : Word :=
  let x := maskWrite 0x3FF071F old v
  setBits x 63 63 (if nfmtValid x then 1 else 0)

/-- The part of FMASK that FMASKi holds (07 R211). -/
def fmaskPart (m : MWord) (i : Nat) : Word := BitVec.ofNat 64 (m.toNat / 2 ^ (64 * i))

/-- FMASK with the part that FMASKi holds replaced. -/
def setFmaskPart (m : MWord) (i : Nat) (v : Word) : MWord :=
  let ones : MWord := BitVec.ofNat 1024 ((2 ^ 64 - 1) * 2 ^ (64 * i))
  (m &&& ~~~ones) ||| BitVec.ofNat 1024 (v.toNat * 2 ^ (64 * i))

/-- GANGID (04 R121). -/
def Strand.gangId (t : Strand) : Word :=
  if t.kind = .gang then BitVec.ofNat 64 (t.sizem1 * 2 ^ 24 + t.member * 2 ^ 16 + t.gang) else 0xFFFF

/-- VERADOPT (15 R373). -/
def Strand.veradopt (t : Strand) : Word :=
  match t.adopted with
  | none => BitVec.ofNat 64 (2 ^ 63)
  | some v => v.setWidth 64

/-- The strand's own user CSRs (04 R119). -/
def Strand.readUser (t : Strand) (n : Nat) : Word :=
  if 0x040 ≤ n ∧ n ≤ 0x04F then fmaskPart t.fmask (n - 0x040)
  else match n with
    | 0x000 => t.fstat
    | 0x001 => BitVec.ofNat 64 t.vl
    | 0x003 => BitVec.ofNat 64 t.estart
    | 0x004 => BitVec.ofNat 64 t.usc
    | 0x008 => t.nfmt[0]
    | 0x009 => t.nfmt[1]
    | 0x00A => t.nfmt[2]
    | 0x00B => t.nfmt[3]
    | 0x00C => BitVec.ofNat 64 t.mxblk
    | 0x010 => t.rngkey
    | 0x011 => t.rngctr
    | 0x018 => t.veradopt
    | 0x022 => t.gangId
    | 0x024 => BitVec.ofNat 64 t.prio
    | 0x060 => t.utvec
    | 0x061 => t.uepc
    | 0x062 => t.ucause
    | 0x063 => t.uaddr
    | 0x064 => t.uinfo
    | _ => 0

/-- The strand with one of its writable user CSRs written (04 R119). -/
def Strand.writeUser (t : Strand) (n : Nat) (v : Word) : Strand :=
  if 0x040 ≤ n ∧ n ≤ 0x04F then { t with fmask := setFmaskPart t.fmask (n - 0x040) v }
  else match n with
    | 0x000 => { t with fstat := writeFstat t.fstat v }
    | 0x001 => { t with vl := min v.toNat 1024 }
    | 0x003 => { t with estart := bitsNat v 10 0 }
    | 0x008 => { t with nfmt := t.nfmt.set 0 (writeNfmt t.nfmt[0] v) }
    | 0x009 => { t with nfmt := t.nfmt.set 1 (writeNfmt t.nfmt[1] v) }
    | 0x00A => { t with nfmt := t.nfmt.set 2 (writeNfmt t.nfmt[2] v) }
    | 0x00B => { t with nfmt := t.nfmt.set 3 (writeNfmt t.nfmt[3] v) }
    | 0x00C => { t with mxblk := if bitsNat v 1 0 = 3 then t.mxblk else bitsNat v 1 0 }
    | 0x010 => { t with rngkey := v }
    | 0x011 => { t with rngctr := v }
    | 0x060 => { t with utvec := maskWrite 0xFFFFFFFFFFFFFFFD t.utvec v }
    | 0x061 => { t with uepc := aligned4 v }
    | 0x062 => { t with ucause := v &&& 0xC0000000000000FF }
    | 0x063 => { t with uaddr := v }
    | 0x064 => { t with uinfo := v }
    | _ => t

/-- The strand's own supervisor and firmware CSRs (13 R336, R337, 17 R396). -/
def Strand.readSup (t : Strand) (n : Nat) : Word :=
  match n with
  | 0x100 => setBits t.sstatus 1 0 t.mode.code
  | 0x102 => t.sepc
  | 0x103 => t.scause
  | 0x104 => t.saddr
  | 0x105 => t.sinfo
  | 0x200 => t.fstatus
  | 0x202 => t.fepc
  | 0x203 => t.fcause
  | _ => 0

/-- The strand with one of these written. -/
def Strand.writeSup (t : Strand) (n : Nat) (v : Word) : Strand :=
  match n with
  | 0x100 => { t with sstatus := v &&& 0x130 }
  | 0x102 => { t with sepc := aligned4 v }
  | 0x103 => { t with scause := v &&& 0x80000000000000FF }
  | 0x104 => { t with saddr := v }
  | 0x105 => { t with sinfo := v }
  | 0x200 => { t with fstatus := v &&& 3 }
  | 0x202 => { t with fepc := v }
  | 0x203 => { t with fcause := v &&& 0xFF }
  | _ => t

/-! ## CSRs of a context -/

/-- The numbers of the CSRs of context scope (13 R336). -/
def contextCsrs : List Nat := [0x107, 0x110, 0x111, 0x112, 0x113, 0x118, 0x120, 0x121, 0x122, 0x150, 0x151]

/-- A CSR of context scope (13 R336). -/
def CtxCsrs.read (c : CtxCsrs) (n : Nat) : Word :=
  match n with
  | 0x107 => c.sdeleg
  | 0x110 => c.ptbase
  | 0x111 => c.cidtag
  | 0x112 => c.spadways
  | 0x113 => c.prioceil
  | 0x118 => c.ptimerlim
  | 0x120 => c.slotper
  | 0x121 => c.slotmap
  | 0x122 => c.slotstrict
  | 0x150 => c.alloctrap
  | 0x151 => c.heapbase
  | _ => 0

/-- SLOTPER as a write leaves it (14 R366). -/
def writeSlotper (v : Word) : Word := setBits (v &&& 0x10000) 3 0 (min 12 (max 6 (bitsNat v 3 0)))

/-- The context's CSRs with one written (13 R336, R339, 08 R225, R236, 07 R198, R212, 12 R306, 14 R366). -/
def CtxCsrs.write (c : CtxCsrs) (n : Nat) (v : Word) : CtxCsrs :=
  match n with
  | 0x107 => { c with sdeleg := v &&& 0x218F200 }
  | 0x110 => { c with ptbase := v &&& 0xFFFFFFFFFF001 }
  | 0x111 => { c with cidtag := v &&& 0xFFFF }
  | 0x112 => { c with spadways := BitVec.ofNat 64 (min 16 (bitsNat v 4 0)) }
  | 0x113 => { c with prioceil := BitVec.ofNat 64 (min 11 (bitsNat v 3 0)) }
  | 0x118 => { c with ptimerlim := v &&& 0xFFFFFFFF }
  | 0x120 => { c with slotper := writeSlotper v }
  | 0x121 => { c with slotmap := v }
  | 0x122 => { c with slotstrict := v &&& 1 }
  | 0x150 => { c with alloctrap := v &&& 1 }
  | 0x151 => { c with heapbase := v &&& 0xFFFFFFFFFFFFFF81 }
  | _ => c

/-! ## CSRs of a core and of the module -/

/-- The state with ALLOCTRAP or HEAPBASE written from core `c`. -/
def State.writeHeapCsr (s : State) (c n : Nat) (v : Word) : State :=
  let x := s.coreAt c
  let y := x.csrs.write n v
  if x.resident then
    let p := s.partAt x.part
    s.setPart x.part (if n = 0x150 then { p with alloctrap := y.alloctrap } else { p with heapbase := y.heapbase })
  else s.setCore c { x with csrs := y }

/-- The state with SLOTPER, SLOTMAP or SLOTSTRICT of core `c` written: the values of before the tick stay in force for the rest of
it (14 R366). -/
def State.writeSlotCsr (s : State) (c n : Nat) (v : Word) : State :=
  let x := s.coreAt c
  let old : SlotRegs := match x.slotOld with
    | some o => if o.tick = s.gtime then o else ⟨s.gtime, x.csrs.slotper, x.csrs.slotmap, x.csrs.slotstrict⟩
    | none => ⟨s.gtime, x.csrs.slotper, x.csrs.slotmap, x.csrs.slotstrict⟩
  s.setCore c { x with csrs := x.csrs.write n v, slotOld := some old }

/-- TOWNER (06 R164). -/
def TileFile.towner (f : TileFile) : Word :=
  BitVec.ofNat 64 (f.cid * 2 ^ 32 + f.absent.toNat * 2 ^ 16 + f.dirty.toNat * 2 ^ 8 + (if f.valid then 4 else 0) + f.slot % 4)

/-- The code of a security state (17 R396). -/
def SecState.code : SecState → Nat
  | .factoryOpen => 0
  | .production => 1
  | .granted => 2
  | .faultLocked => 3

/-- SECSTAT (17 R396). -/
def State.secstat (s : State) : Word := BitVec.ofNat 64 (s.minsvn % 256 * 2 ^ 8 + s.dbg % 4 * 2 ^ 4 + s.secState.code)

/-- The marking of a slot is seed-pool (04 R86, R120). -/
def SlotState.isSeed : SlotState → Bool
  | .seedIdle | .seedOccupied => true
  | _ => false

/-- STRANDID (04 R120). -/
def State.strandId (s : State) : Word :=
  let seed := !isChiplet s.myCoreNo && (s.myCore.slots.toList.getD s.mySlotNo {}).state.isSeed
  BitVec.ofNat 64 (s.cur + if seed then 2 ^ 13 else 0)

/-- PARTID (04 R122, 13 R417). -/
def State.partId (s : State) : Word :=
  match s.myPart with
  | none => 0x80
  | some p => BitVec.ofNat 64 (bitsNat s.myCore.csrs.cidtag 15 0 * 2 ^ 16 + p % 128)

/-- The value that a CSR reads for the strand that moves (04 R115, R119, 13 R336, 17 R396). -/
def State.csrRead (s : State) (n : Nat) : Word :=
  let c := s.myCore
  match n with
  | 0x020 => s.strandId
  | 0x021 => BitVec.ofNat 64 s.myCoreNo
  | 0x023 => s.partId
  | 0x065 => c.csrs.sdeleg
  | 0x101 => c.stvec
  | 0x106 => c.sscratch
  | 0x114 => (c.slots.toList.getD s.mySlotNo {}).tsavea
  | 0x115 => c.tiles.towner
  | 0x130 => c.switchat
  | 0x131 => c.nextcid
  | 0x140 => c.divbase
  | 0x141 => c.divcount
  | 0x150 => s.alloctrapAt s.myCoreNo
  | 0x151 => s.heapbaseAt s.myCoreNo
  | 0x201 => c.ftvec
  | 0x210 => s.secstat
  | 0x211 => BitVec.ofNat 64 s.dbgctl
  | 0x218 => if isChiplet s.myCoreNo then 0 else BitVec.ofNat 64 (s.clusterAt (clusterOf s.myCoreNo)).stretch
  | n =>
    if contextCsrs.contains n then c.csrs.read n
    else if n < 0x100 then s.me.readUser n
    else if 0x220 ≤ n then BitVec.ofNat 64 (s.ident.toNat / 2 ^ (64 * (n - 0x220)))
    else s.me.readSup n

/-! ## Writes with an effect of their own -/

/-- The memory without the entries of a range of locations. -/
def Mem.cut (m : List Host.Cell) (lo n : Nat) : List Host.Cell := m.filter fun c => !(decide (lo ≤ c.1) && decide (c.1 < lo + n))

/-- The state with the bytes of a range of locations zero, and their poison gone. -/
def State.clearRange (s : State) (lo n : Nat) : State :=
  { s with mem := Mem.cut s.mem lo n, poisoned := s.poisoned.filter fun p => !(decide (lo ≤ p) && decide (p < lo + n)) }

/-- SPADWAYS of a core written: bytes that leave the carve are discarded, and bytes that join it read zero; lines that the slice cache
has no more room for are written back (07 R198). -/
def State.writeSpadways (s : State) (core : Nat) (v : Word) : State :=
  let c := s.coreAt core
  let x := c.csrs.write 0x112 v
  let old := bitsNat c.csrs.spadways 4 0
  let new := bitsNat x.spadways 4 0
  let s := s.setCore core { c with csrs := x }
  (s.trimSlice core).clearRange (scratchKey core (min old new * 65536)) ((max old new - min old new) * 65536)

/-- PRIOCEIL of a core written: no strand of the context keeps a priority above it, nor does the one that waits behind a
supervisor strand (12 R306, 13 R330). -/
def State.writePrioceil (s : State) (core : Nat) (v : Word) : State :=
  let c := s.coreAt core
  let x := c.csrs.write 0x113 v
  let behind := c.waiting0.map fun t => if t.prio ≤ x.ceil then t else { t with prio := x.ceil }
  let s := s.setCore core { c with csrs := x, waiting0 := behind }
  (List.range 4).foldl (fun s i =>
    let t := s.strandAt (core * 4 + i)
    if t.kind.ofNoPartition || decide (t.prio ≤ x.ceil) then s else s.setStrand (core * 4 + i) { t with prio := x.ceil }) s

/-- DIVBASE or DIVCOUNT of a core written: the core reads its diversion table (13 R349). -/
def State.writeDivTable (s : State) (core : Nat) (count : Bool) (v : Word) : State :=
  let c := s.coreAt core
  let c := if count then { c with divcount := BitVec.ofNat 64 (min 32 (bitsNat v 5 0)) }
    else { c with divbase := v &&& 0xFFFFFFFFFFFE0 }
  (s.setCore core c).readDivTable core

/-- The security state allows a debug level (17 R402). -/
def State.debugAllowed (s : State) (level : Nat) : Bool :=
  level == 0 || (decide (level ≤ 2) && match s.secState with
    | .factoryOpen => true
    | .granted => decide (level ≤ s.grant.getD 0)
    | _ => false)

/-- DBGCTL written: a level that the security state denies is refused and changes nothing (17 R402). -/
def State.writeDbgctl (s : State) (v : Word) : State :=
  let level := bitsNat v 1 0
  if s.debugAllowed level then { s with dbgctl := level, dbg := level } else s

/-- The state with a CSR written by the strand that moves (04 R115). -/
def State.csrWrite (s : State) (n : Nat) (v : Word) : State :=
  let k := s.myCoreNo
  let c := s.myCore
  match n with
  | 0x101 => s.setMyCore { c with stvec := aligned4 v }
  | 0x106 => s.setMyCore { c with sscratch := v }
  | 0x112 => s.writeSpadways k v
  | 0x113 => s.writePrioceil k v
  | 0x114 =>
    let i := s.mySlotNo
    let h : i < 4 := Nat.mod_lt _ (by decide)
    s.setMyCore { c with slots := c.slots.set i { c.slots[i] with tsavea := v &&& 0xFFFFFFFFFFFFF001 } }
  | 0x120 => s.writeSlotCsr k n v
  | 0x121 => s.writeSlotCsr k n v
  | 0x122 => s.writeSlotCsr k n v
  | 0x130 => s.setMyCore { c with switchat := v }
  | 0x131 => s.setMyCore { c with nextcid := v &&& 0x800FFFFFFFFFFFFF }
  | 0x140 => s.writeDivTable k false v
  | 0x141 => s.writeDivTable k true v
  | 0x150 => s.writeHeapCsr k n v
  | 0x151 => s.writeHeapCsr k n v
  | 0x201 => s.setMyCore { c with ftvec := aligned4 v }
  | 0x211 => s.writeDbgctl v
  | n =>
    if contextCsrs.contains n then s.setMyCore { c with csrs := c.csrs.write n v }
    else if n < 0x100 then s.setMe (s.me.writeUser n v)
    else s.setMe (s.me.writeSup n v)

/-- SPADWAYS_WRITE (07 R198). -/
def execSpadwaysWrite (core : Nat) (value : Word) (s : State) : Out := .next (s.writeSpadways core value)
/-- PRIOCEIL_WRITE (12 R306). -/
def execPrioceilWrite (core : Nat) (value : Word) (s : State) : Out := .next (s.writePrioceil core value)
/-- DIVERSION_TABLE_WRITE (13 R349). -/
def execDiversionTableWrite (core : Nat) (count : Bool) (value : Word) (s : State) : Out :=
  .next (s.writeDivTable core count value)
/-- DBGCTL_WRITE (17 R402). -/
def execDbgctlWrite (value : Word) (s : State) : Out := .next (s.writeDbgctl value)

end Sys2Proof.Machine
end

