-- ==== Sys2Proof/Machine/Fetch.lean ====
section
/-!
DEFINITION. Machine/Fetch.lean: fetching an instruction word (02 R26, R29, 08 R228, 10 R280), and the element-progress timer,
which stops the instruction that a strand stands at (07 R212, R213).
-/

namespace Sys2Proof.Machine

/-! ## Fetch -/

/-- A strand with a word that its core holds for it (10 R280); the last 16 are kept (log entry 20). -/
def Strand.keepWord (t : Strand) (key : Nat) (w : IWord) : Strand :=
  { t with fetched := (key, w) :: (t.fetched.filter (·.1 != key)).take 15 }

/-- The word at a location as the strand fetches it: where the core holds an older word of it, the schedule chooses between the
two (02 R29, 10 R280); a poisoned word is a free value (log entry 6).  A word that the core does not hold is read at its home. -/
def M.wordAt (key : Nat) : M IWord := do
  if (← get).me.fetched.all (·.1 != key) then modify fun s => s.readHome s.myAgent key
  let s ← get
  if s.isPoisoned key 4 then return (← M.free).setWidth 32
  let now : IWord := BitVec.ofNat 32 (s.readMem key 4)
  match s.me.fetched.find? (·.1 == key) with
  | none =>
    M.modifyMe fun t => t.keepWord key now
    return now
  | some (_, old) =>
    if old = now then return now
    if ← M.lag then return old
    M.modifyMe fun t => t.keepWord key now
    return now

/-- The fetch of the strand that moves: its word, or FETCH_FAULT or ACCESS (08 R228). -/
def M.fetch : M IWord := do
  let s ← get
  match ← M.translate s.myAgent .fetch s.me.pc 0 with
  | .mem key _ _ _ => M.wordAt key
  | _ => M.trap (accessExc s.me.pc 0)

/-! ## The element-progress timer -/

/-- A vector memory instruction or string form as it has issued: the g and v registers that it waits for, and its work. -/
structure VmemForm where
  gs   : List Reg
  vs   : List Reg
  work : Bool → M Unit

/-- The vector memory instruction or string form of a word (07 R205, 05 R156, 11 R304). -/
def vmemForm (w : IWord) : Option VmemForm :=
  let f := Vv.unpack (BitField.lower 6 26 w)
  let e := Et.ofCode f.e
  let n := BitField.upper 3 2 f.b
  let r := RrAmo.unpack (BitField.lower 6 26 w)
  match (BitField.upper 6 26 w).toNat, f.f.toNat with
  | 0x28, 0 => some ⟨[f.a], [f.d], vldWork f.d f.a f.k e⟩
  | 0x28, 1 => some ⟨[f.a, f.b], [f.d], vldsWork f.d f.a f.b f.k e⟩
  | 0x28, 2 => some ⟨[f.a], [f.d, f.b], vldxWork f.d f.a f.b f.k e⟩
  | 0x28, 3 => some ⟨[f.a], segmentRegs f.d n, vldsegWork f.d f.a n f.k e⟩
  | 0x28, 4 => some ⟨[f.a], [f.d], vldffWork f.d f.a f.k e⟩
  | 0x29, 0 => some ⟨[f.a], [f.d], vstWork f.d f.a f.k e⟩
  | 0x29, 1 => some ⟨[f.a, f.b], [f.d], vstsWork f.d f.a f.b f.k e⟩
  | 0x29, 2 => some ⟨[f.a], [f.d, f.b], vstxWork f.d f.a f.b f.k e⟩
  | 0x29, 3 => some ⟨[f.a], segmentRegs f.d n, vstsegWork f.d f.a n f.k e⟩
  | 0x29, 4 => some ⟨[f.a], [f.d], vpstWork f.d f.a f.k e⟩
  | 0x35, 4 => some ⟨[], [f.d, f.a], vstrldWork f.d f.a f.k⟩
  | 0x35, 5 => some ⟨[], [f.d, f.a, f.b], vstrcmpWork f.d f.a f.b f.k⟩
  | 0x35, 6 => some ⟨[], [f.d, f.a], vstrhashWork f.d f.a f.k⟩
  | 0x2D, _ =>
    if r.f = 5 then some ⟨[r.a], [r.d, r.b], vredmWork r.d r.a r.b (r.r == 1) (RedType.ofCode r.w)⟩ else none
  | _, _ => none

/-- An element of a slotted message is not performed: the message has not been injected, or has not come to its home; an injected RED
counts as performed (07 R212, 11 R304). -/
def State.unperformed (s : State) (x : Slotted) : Bool :=
  match x.serial with
  | none => true
  | some n => match x.msg.body with
    | .store _ => !s.allPerformed [n]
    | _ => false

/-- The slotted messages of a core's slot. -/
def Core.slottedOf (c : Core) (slot : Nat) : List Slotted := c.slotPend.filter (·.slot == slot)

/-- The elements that a slotted instruction has not performed, in ascending order, each with its address and its message. -/
def State.leftElems (s : State) (xs : List Slotted) : List (Nat × Word × Msg) :=
  ((xs.filter s.unperformed).flatMap fun x => x.elems.map fun e => (e.1, e.2, x.msg)).mergeSort fun a b => a.1 ≤ b.1

/-- The strand after its slotted instruction is stopped: ESTART, or FMASK, names what is left; an instruction that restarts as a whole
leaves both alone (07 R208, R209, R212, 06 R171). -/
def Strand.stopSlotted (t : Strand) (xs : List Slotted) (left : List Nat) : Strand :=
  match xs with
  | [] => t
  | x :: _ => match x.settled with
    | none => t
    | some (e, m) =>
      if x.indexed then { t with estart := e, fmask := m ||| maskOf left } else { t with estart := left.headD e }

/-- The groups of 64 elements that a slotted instruction has completed, where some of its elements are left (07 R212). -/
def slottedGroups (xs : List Slotted) (left : List Nat) : Nat :=
  match xs with
  | { indexed := true, .. } :: _ => ((List.range 16).filter fun g => !left.any fun i => i / 64 == g).length
  | _ => left.headD 0 / 64

/-- PROGRESS of a slotted instruction of a core, which awaits the port of its least element left (07 R213). -/
def slottedExc (core : Nat) (xs : List Slotted) (left : List (Nat × Word × Msg)) : Exc :=
  match left with
  | [] => { code := 0x09 }
  | (j, va, m) :: _ =>
    let (kind, port) := portOfKey core m.body.firstKey
    progressExc { kind, port } j (slottedGroups xs (left.map (·.1))) va

/-- The timer of strand `k` restarts where its slotted instruction has completed a further group of 64 elements (07 R212). -/
def State.restartSlotted (s : State) (k : Nat) : State :=
  let t := s.strandAt k
  let xs := (s.coreAt (k / 4)).slottedOf (k % 4)
  let groups := slottedGroups xs ((s.leftElems xs).map (·.1))
  match t.timer with
  | some x =>
    if t.cond = .slotted ∧ x.group < groups then s.setStrand k { t with timer := some { since := s.cyclesOf (k / 4), group := groups } } else s
  | none => s

/-- A strand that waits for slots gives its instruction up: the messages that are injected stand, and the others are dropped (07 R212,
R214, 14 R367).  Its PROGRESS is answered beside the state. -/
def State.stopSlots (s : State) (k : Nat) : State × Exc :=
  let c := s.coreAt (k / 4)
  let xs := c.slottedOf (k % 4)
  let left := s.leftElems xs
  let s := s.setCore (k / 4) { c with slotPend := c.slotPend.filter (·.slot != k % 4) }
  (s.setStrand k ((s.strandAt k).stopSlotted xs (left.map (·.1))), slottedExc (k / 4) xs left)

/-- The instruction of a vector memory form or string form at which the strand that moves waits is stopped: it is performed as far as
it can be, and the elements that wait fail with PROGRESS (07 R212, R214).  Nothing where it performs all. -/
def State.stopForm (s : State) : Option (State × Option Exc) :=
  match M.fetch.run.run s with
  | (.ok w, s1) =>
    match vmemForm w with
    | none => none
    | some x =>
      if s1.me.busy x.gs || s1.me.vbusy x.vs then none
      else match (M.timed (x.work true)).run.run s1 with
        | (.error (.trap e), s2) => some (s2, some e)
        | (.ok _, s2) => some (s2, none)
        | _ => none
  | _ => none

/-- The strand that moves is stopped by its timer, and raises PROGRESS, unless its instruction completes or fails otherwise (07
R212). -/
def State.progress (s : State) : State :=
  if s.me.cond = .slotted then
    let (s1, e) := s.stopSlots s.cur
    s1.take e s1.me.pc
  else match s.stopForm with
    | some (s1, some e) => s1.take e s1.me.pc
    | some (s1, none) => s1
    | none => s.setMe { s.me with timer := none }

/-- The timer of strand `k` has reached PTIMERLIM.LIMIT, and is not disabled (07 R212). -/
def State.timerExpired (s : State) (k : Nat) : Bool :=
  let t := s.strandAt k
  let limit := bitsNat (s.coreAt (k / 4)).csrs.ptimerlim 31 0
  limit != 0 && (t.cond == .stalled || t.cond == .slotted) &&
    t.timer.any fun x => decide (x.since + limit ≤ s.cyclesOf (k / 4))

/-- The element at which strand `k` waits, and the kind and number of the port that it waits for (07 R213). -/
def State.awaited (s : State) (k : Nat) : Nat × Nat × Nat :=
  let t := s.strandAt k
  if t.cond = .slotted then
    match s.leftElems ((s.coreAt (k / 4)).slottedOf (k % 4)) with
    | [] => (0, 0, 0)
    | (j, _, m) :: _ => (j, portOfKey (k / 4) m.body.firstKey)
  else (t.awaits.elem, t.awaits.kind, t.awaits.port)

/-- ELEMENT_PROGRESS_TIMER (07 R212): the timer of strand `k` stops its instruction, at the element that the event names with its
port. -/
def execElementProgressTimer (k elem kind port : Nat) (s : State) : Out :=
  if s.timerExpired k && s.awaited k == (elem, kind, port) then .next { { s with cur := k }.progress with cur := s.cur }
  else .next s

end Sys2Proof.Machine
end

