-- ==== Sys2Proof/Machine/Switch.lean ====
section
/-!
DEFINITION. Machine/Switch.lean: supervisor strands (13 R330), the span switch (R340 to R346), the merge at resume (R355) and
the replay of shadow records (R350), and the delivery of logged faults (R353, R354).
-/

namespace Sys2Proof.Machine

/-! ## Memory by physical address -/

/-- The state with a number of `n` bytes at a physical address, which lie within one page. -/
def State.putPart (s : State) (pa n v : Nat) : State :=
  match locateHbm 0 pa with
  | none => s
  | some k =>
    let s := s.clearRange k n
    if v = 0 then s else s.writeMem k n v

/-- The same of a number whose bytes may cross into the next 4 KiB page, which may lie on another die (01 R8). -/
def State.putPa (s : State) (pa n v : Nat) : State :=
  let k := min n (4096 - pa % 4096)
  (s.putPart pa k (v % 256 ^ k)).putPart (pa + k) (n - k) (v / 256 ^ k)

/-- The state with the bytes of one range of locations, and their poison, in another. -/
def State.copyRange (s : State) (src dst n : Nat) : State :=
  let moved := (s.mem.filter fun c => decide (src ≤ c.1) && decide (c.1 < src + n)).map fun c => (dst + (c.1 - src), c.2)
  let sick := (s.poisoned.filter fun p => decide (src ≤ p) && decide (p < src + n)).map fun p => dst + (p - src)
  let s := s.clearRange dst n
  let s := moved.foldl (fun s c => s.writeByte c.1 c.2) s
  { s with poisoned := s.poisoned ++ sick }

/-- A carve saved into a scratchpad image, page by page (13 R342). -/
def State.saveCarve (s : State) (core pa ways : Nat) : State :=
  (List.range (16 * ways)).foldl (fun s i =>
    match locateHbm 0 (pa + 4096 * i) with
    | none => s
    | some k => s.copyRange (scratchKey core (4096 * i)) k 4096) s

/-- A carve restored from a scratchpad image (13 R355). -/
def State.loadCarve (s : State) (core pa ways : Nat) : State :=
  (List.range (16 * ways)).foldl (fun s i =>
    match locateHbm 0 (pa + 4096 * i) with
    | none => s
    | some k => s.copyRange k (scratchKey core (4096 * i)) 4096) s

/-- The state with `n` pages from a physical address zero. -/
def State.clearPages (s : State) (pa n : Nat) : State :=
  (List.range n).foldl (fun s i =>
    match locateHbm 0 (pa + 4096 * i) with
    | none => s
    | some k => s.clearRange k 4096) s

/-! ## Strand images -/

/-- The bits of a set of registers. -/
def regBits (f : Nat → Bool) : Nat := ((List.range 32).map fun i => if f i then 2 ^ i else 0).sum

/-- The user CSRs that a strand image holds by number and that the strand itself keeps (13 R343). -/
def imageCsrs : List Nat :=
  [0x000, 0x001, 0x003, 0x004, 0x008, 0x009, 0x00A, 0x00B, 0x00C, 0x010, 0x011, 0x018, 0x022, 0x024, 0x060, 0x061, 0x062,
   0x063, 0x064] ++ rangeFrom 0x040 16

/-- The user CSRs that a strand image holds and that its core gives: STRANDID, COREID, PARTID and UDELEG, as the strand of slot `i`
of the resident context reads them (13 R343). -/
def State.placeCsrs (s : State) (core i : Nat) : List (Nat × Nat) :=
  let c := s.coreAt core
  let seed := (c.slots.toList.getD i {}).state.isSeed
  [(0x020, core * 4 + i + if seed then 2 ^ 13 else 0), (0x021, core),
   (0x023, bitsNat c.csrs.cidtag 15 0 * 2 ^ 16 + c.part % 128), (0x065, c.csrs.sdeleg.toNat)]

/-- A strand as it is saved: a value on its way to a register has landed (13 R344), and a slice of MCHAIN with it. -/
def Strand.settled (t : Strand) : Strand :=
  let g := Vector.ofFn fun (i : Fin 32) => match t.marks[i] with
    | .landing _ v _ => v
    | _ => t.g[i]
  let marks := Vector.ofFn fun (i : Fin 32) => match t.marks[i] with
    | .landing _ _ none => Mark.clear
    | .landing _ _ (some a) => Mark.poison a
    | m => m
  let t := t.vland.foldl (fun t x => { t.writeV x.1 x.2 with vpend := t.vpend &&& ~~~(1#32 <<< x.1.toNat) }) t
  { t with g, marks, vland := [] }

/-- A settled strand written into its image (13 R343). -/
def State.saveStrand (s : State) (img : Nat) (t : Strand) (tsavea : Word) (place : List (Nat × Nat)) : State :=
  let put := fun (s : State) (x : Nat × Nat × Nat) => s.putPa (img + x.1) x.2.1 x.2.2
  let pend := regBits fun i => match t.mark (BitVec.ofNat 5 i) with
    | .waiting _ => true
    | _ => false
  let pois := regBits fun i => match t.mark (BitVec.ofNat 5 i) with
    | .poison _ => true
    | _ => false
  let tflt := regBits fun i => match t.mark (BitVec.ofNat 5 i) with
    | .tokenFault _ _ => true
    | _ => false
  let head := [(0, 8, t.pc.toNat), (8, 8, t.mode.code), (0x10, 8, pend), (0x18, 8, pois), (0x20, 8, tflt),
    (0x28, 8, t.vpend.toNat)]
  let gs := t.g.toList.zipIdx.map fun (x, i) => (0x100 + 8 * i, 8, x.toNat)
  let fs := t.f.toList.zipIdx.map fun (x, i) => (0x200 + 8 * i, 8, x.toNat)
  let ms := (t.m.toList.zipIdx.drop 1).map fun (x, i) => (0x300 + 128 * (i - 1), 128, x.toNat)
  let us := (imageCsrs.map fun n => (0x800 + 8 * n, 8, (t.readUser n).toNat)) ++ place.map fun x => (0x800 + 8 * x.1, 8, x.2)
  let ss := [0x100, 0x102, 0x103, 0x104, 0x105].map fun n => (0x1000 + 8 * (n - 0x100), 8, (t.readSup n).toNat)
  let vs := t.v.toList.zipIdx.map fun (x, i) => (0x8000 + 1024 * i, 1024, x.toNat)
  (head ++ gs ++ fs ++ ms ++ us ++ ss ++ [(0x1000 + 8 * 0x14, 8, tsavea.toNat)] ++ vs).foldl put s

/-- A word of an image. -/
def State.imageWord (s : State) (pa : Nat) : Word := BitVec.ofNat 64 (s.readPa pa 8)

/-- Wider contents of an image. -/
def State.imageNum (s : State) (pa n : Nat) : Nat :=
  match locateHbm 0 pa with
  | none => 0
  | some k => s.readMem k n

/-- The mark of register `i` at resume (13 R344, R354): pending where the image still says so, poisoned or faulted with the
address that the core kept, or a free one where it kept none (log entry 6). -/
def State.resumeMark (s : State) (img slot : Nat) (d : Option Departed) (i : Nat) : Mark :=
  let saved := match d with
    | none => Mark.clear
    | some d => (Tab.get (Vector.replicate 32 Mark.clear) d.marks slot).toList.getD i Mark.clear
  let owed := ((d.map (·.owed)).getD []).find? fun o => o.slot == slot && o.reg.toNat == i && o.poison.isSome
  let bit := fun off => (s.readPa (img + off) 8).testBit i
  if i = 0 then .clear
  else if bit 0x10 then match saved with
    | .waiting k => .waiting k
    | _ => .waiting .load
  else if bit 0x18 then match owed, saved with
    | some o, _ => .poison (o.poison.getD 0)
    | none, .poison a => .poison a
    | none, _ => .poison (Config.freeValue s.fresh)
  else if bit 0x20 then match saved with
    | .tokenFault a w => .tokenFault a w
    | _ => .tokenFault (Config.freeValue s.fresh) (Config.freeValue (s.fresh + 1))
  else .clear

/-- The strand of an image (13 R343): its user CSRs as writes would leave them, and the fields that no write reaches. -/
def State.loadStrand (s : State) (img slot : Nat) (state : SlotState) (d : Option Departed) : Strand :=
  let w := fun off => s.imageWord (img + off)
  let csr := fun n => w (0x800 + 8 * n)
  let veradopt := csr 0x018
  let gang := csr 0x022
  let t : Strand :=
    { kind := if state = .gangOccupied then .gang else .seed
      pc := aligned4 (w 0), mode := Mode.ofCode (bitsNat (w 8) 1 0)
      g := Vector.ofFn fun (i : Fin 32) => if i = 0 then 0 else w (0x100 + 8 * i)
      f := Vector.ofFn fun (i : Fin 32) => w (0x200 + 8 * i)
      m := Vector.ofFn fun (i : Fin 8) =>
        if i = 0 then 0 else BitVec.ofNat 1024 (s.imageNum (img + 0x300 + 128 * (i - 1)) 128)
      v := Vector.ofFn fun (i : Fin 32) => BitVec.ofNat 8192 (s.imageNum (img + 0x8000 + 1024 * i) 1024)
      vpend := BitVec.ofNat 32 (s.readPa (img + 0x28) 8)
      marks := Vector.ofFn fun (i : Fin 32) => s.resumeMark img slot d i
      usc := bitsNat (csr 0x004) 10 0
      adopted := if bitAt veradopt 63 then none else some (veradopt.setWidth 32)
      gang := bitsNat gang 15 0, member := bitsNat gang 21 16, sizem1 := bitsNat gang 29 24
      prio := bitsNat (csr 0x024) 3 0
      harvest := Tab.get 0 ((d.map (·.harvests)).getD []) slot
      slotTie := d.bind fun d => (d.ties.find? (·.1 == slot)).map (·.2)
      fenced := Tab.get 0 ((d.map (·.fences)).getD []) slot
      cond := if ((d.map (·.halted)).getD []).contains slot then .halted else .ready }
  let t := (imageCsrs.filter fun n => !Csr.readOnly n).foldl (fun t n => t.writeUser n (csr n)) t
  let t := [0x100, 0x102, 0x103, 0x104, 0x105].foldl (fun t n => t.writeSup n (w (0x1000 + 8 * (n - 0x100)))) t
  let (a, b, c) := Tab.get (0, 0, 0) ((d.map (·.firm)).getD []) slot
  { t with fstatus := a, fepc := b, fcause := c }

/-! ## Supervisor strands -/

/-- A supervisor strand as it begins (13 R330): the record is written, and SEPC is 0. -/
def supervisorStrand (stvec : Word) (e : Exc) : Strand :=
  { kind := .supervisor, mode := .supervisor, pc := aligned4 stvec, scause := e.cause, saddr := e.addr, sinfo := e.info }

/-- The state with a supervisor strand in slot 0 of a core; the strand that stood there waits for its end. -/
def State.startSupervisor (s : State) (core : Nat) (e : Exc) : State :=
  let c := s.coreAt core
  let t := s.strandAt (core * 4)
  let s := if t.kind = .none then s else s.setCore core { c with waiting0 := some { t with age := 0 } }
  s.setStrand (core * 4) (supervisorStrand c.stvec e)

/-- The log address and the header's first word, as ABSENT_FAULT reports them (13 R353). -/
def absentExc (x : Word × Word) : Exc := { code := 0x11, addr := x.1, info := x.2 }

/-! ## Leaving -/

/-- The code of a slot's marking (13 R342). -/
def SlotState.code : SlotState → Nat
  | .unassigned => 0
  | .gangEmpty => 1
  | .gangOccupied => 2
  | .seedIdle => 3
  | .seedOccupied => 4

/-- The marking that a code names. -/
def SlotState.ofCode (n : Nat) : SlotState :=
  match n with
  | 1 => .gangEmpty
  | 2 => .gangOccupied
  | 3 => .seedIdle
  | 4 => .seedOccupied
  | _ => .unassigned

/-- The context's strand of a slot: that of slot 0 may wait behind a supervisor strand (13 R330). -/
def State.contextStrand (s : State) (core i : Nat) : Strand :=
  let t := s.strandAt (core * 4 + i)
  if t.kind = .supervisor then (s.coreAt core).waiting0.getD {} else t

/-- A lease that departs: it is to be requested again. -/
def Lease.departing (l : Lease) : Lease := { l with status := .contending, displaced := true, panel := [], acc := [] }

/-- The read of an MCOLL that has begun goes on to its end (06 R195). -/
def State.finishRead (s : State) (core : Nat) : Nat → State
  | 0 => s
  | n + 1 =>
    let c := s.coreAt core
    match c.held, c.q3 with
    | some l, x :: _ =>
      match x.op with
      | .mcoll _ _ rows _ =>
        if 0 < x.progress ∧ x.progress < rows then
          match s.runEngine (M.asStrand (core * 4 + x.slot) (M.millStep core l x)) with
          | (.ok _, s1) => s1.finishRead core n
          | _ => s
        else s
      | _ => s
    | _, _ => s

/-- The lease of a departing context goes to its save area, and its trays and memory are freed; a waiting request is withdrawn
(06 R195).  A supervisor strand's lease, which belongs to no span, stays (13 R330). -/
def State.departLease (s : State) (core : Nat) : State × Option Lease :=
  let s := s.finishRead core 16
  let c := (s.coreAt core).stopPlant
  let s := s.setCore core c
  match c.leases.find? fun l => l.isHeld && l.part.isSome with
  | none => (s, none)
  | some l =>
    if l.status ≠ .granted then (s, some l)
    else if l.replant then (s, some l.departing)
    else
      let s := (s.runEngine (M.displace core)).2
      (s, (s.coreAt core).held)

/-- Bytes written at a physical address. -/
def State.putBytes (s : State) (pa : Nat) (bs : List Byte) : State := s.putPa pa bs.length (natOfBytes bs)

/-- The 16 bytes of a q3 command in the husk: fn, slot, sequence number, mode, what it comes from, rows done, and its first operand
(13 R342, log entry 51). -/
def MillCmd.image (x : MillCmd) : List Byte :=
  let operand : Nat := match x.op with
    | .mfmt f => f.word.toNat
    | .plant p => p.src.toNat
    | .mma acc tile c0 nc _ _ _ => acc + tile * 2 ^ 8 + c0 * 2 ^ 16 + nc * 2 ^ 32
    | .mmas _ addr _ _ _ _ _ _ => addr.toNat
    | .mzero acc => acc
    | .drainAddr addr .. => addr.toNat
    | .drainTile tile acc .. => acc + tile * 2 ^ 8
    | .mchain v acc row c _ => acc + v.toNat * 2 ^ 8 + row * 2 ^ 16 + c * 2 ^ 32
    | .mcoll e .. => e.w0.toNat
    | .release => 0
  bytesOf 1 x.op.fn ++ bytesOf 1 x.slot ++ bytesOf 2 x.seq ++ bytesOf 1 x.mode.code ++ bytesOf 1 (if x.dead then 1 else 0) ++
    bytesOf 2 x.progress ++ bytesOf 8 operand

/-- The lease part of the husk: the save area, the request, the priority, the progress point and the image of q3 (13 R342, log entry
51). -/
def State.saveLease (s : State) (husk : Nat) (lease : Option Lease) (q3 : List MillCmd) : State :=
  let s := s.clearPages (husk + 0x1000) 1
  match lease with
  | none => s
  | some l =>
    let point := (q3.head?.map (·.progress)).getD 0
    s.putBytes (husk + 0x1000) (bytesOf 8 l.save.toNat ++ bytesOf 8 l.request.toNat ++ bytesOf 8 l.prio ++ bytesOf 8 point ++
      q3.flatMap MillCmd.image)

/-- An entry in the queue image: its request, its token and slot, its sequence number, its progress and PTBASE (13 R346, log entry
51). -/
def QEntry.image (e : QEntry) : List Byte :=
  ([e.w0, e.w1, e.w2, e.w3].flatMap fun w => bytesOf 8 w.toNat) ++ bytesOf 1 e.token.toNat ++ bytesOf 1 e.slot ++ bytesOf 2 e.seq ++
    bytesOf 4 1 ++ bytesOf 8 e.seg ++ bytesOf 8 e.off ++ bytesOf 8 e.bytes ++ bytesOf 8 e.ptbase.toNat

/-- The queue image: entry `i` of queue `q` at 2,048 q + 128 i (13 R342, R346, log entry 51). -/
def State.saveQueues (s : State) (husk : Nat) (qs : Vector (List QEntry) 3) : State :=
  let s := s.clearPages (husk + 0x2000) 2
  (qs.toList.zipIdx.flatMap fun (es, q) => es.zipIdx.map fun (e, i) => (q * 2048 + 128 * i, e)).foldl
    (fun s x => s.putBytes (husk + 0x2000 + x.1) x.2.image) s

/-- The data of a message that can be slotted. -/
def MsgBody.payload (b : MsgBody) : List Byte :=
  match b with
  | .store cells => cells.map (·.2)
  | .red _ w _ v => bytesOf (amoSize w) v.toNat
  | .reds _ w items => items.flatMap fun x => bytesOf (amoSize w) x.2.toNat
  | _ => []

/-- The spill area: of each message its destination, its length in flits and its injection order, then its flits, the head flit with
the message's first location (13 R345, log entry 51). -/
def State.saveSpilled (s : State) (husk : Nat) (ms : List Msg) : State :=
  (ms.zipIdx.take 28).foldl (fun s (m, i) =>
    let a := husk + 0x10000 + 2304 * i
    let first := (m.body.ranges.head?.map (·.1)).getD 0
    (s.putPa a 2304 0).putBytes a (bytesOf 8 m.dest ++ bytesOf 8 m.body.flits ++ bytesOf 8 m.serial ++ bytesOf 104 0 ++
      bytesOf 128 first ++ m.body.payload)) s

/-- The image of the header and of the context's CSRs (13 R342); ALLOCTRAP and HEAPBASE are its partition's (log entry 46). -/
def State.saveHeader (s : State) (core : Nat) (live : Bool) : State :=
  let c := s.coreAt core
  let h := c.husk
  let head := bitsNat c.csrs.cidtag 15 0 + 2 ^ 16 + (if live then 2 ^ 17 else 0) + c.part % 128 * 2 ^ 24
  let s := ((s.putPa h 8 head).putPa (h + 8) 8 s.gtime).putPa (h + 16) 8 0
  let csrs := { c.csrs with alloctrap := s.alloctrapAt core, heapbase := s.heapbaseAt core }
  let s := contextCsrs.foldl (fun s n => s.putPa (h + 0x40 + 8 * (n - 0x100)) 8 (csrs.read n).toNat) s
  c.slots.toList.zipIdx.foldl (fun s (x, i) =>
    (s.putPa (h + 0x300 + 8 * i) 8 x.state.code).putPa (h + 0x320 + 8 * i) 8 x.top.toNat) s

/-- The images of the barriers and domains (13 R342). -/
def State.saveBarriers (s : State) (core : Nat) : State :=
  let c := s.coreAt core
  let h := c.husk
  let s := (s.clearPages (h + 0x8000) 8).clearPages (h + 0x20000) 64
  let s := c.barriers.foldl (fun s (b, x) =>
    (s.putPa (h + 0x8000 + 16 * b) 8 x.countsWord.toNat).putPa (h + 0x8008 + 16 * b) 8 x.flagsWord.toNat) s
  c.domains.foldl (fun s (j, ms) =>
    (ms.length :: ms).zipIdx.foldl (fun s (x, i) => s.putPa (h + 0x20000 + 4096 * j + 2 * i) 2 x) s) s

/-- The vector memory instruction or string form at which strand `k` waits stops for a switch. -/
def State.stopWaiting (s : State) (k : Nat) : State :=
  match { s with cur := k }.stopForm with
  | some (s1, _) => { s1 with cur := s.cur }
  | none => s

/-- The instruction of strand `k`, which stands in its slot, stops for a switch: a vector memory instruction or string form that has
issued, whether it waits or is about to be tried again, is performed as far as it can be, and ESTART or FMASK names the rest; nothing
is raised (05 R159, 07 R214). -/
def State.stopHere (s : State) (k : Nat) : State :=
  match (s.strandAt k).cond with
  | .slotted => (s.stopSlots k).1
  | .stalled => s.stopWaiting k
  | .ready => if (s.strandAt k).timer.isSome then s.stopWaiting k else s
  | _ => s

/-- The same of the context's strand of a slot, which may wait behind a supervisor strand (13 R330). -/
def State.stopStrand (s : State) (core i : Nat) : State :=
  let k := core * 4 + i
  let t := s.strandAt k
  if t.kind = .supervisor then
    match (s.coreAt core).waiting0 with
    | none => s
    | some u =>
      let s := (s.setStrand k u).stopHere k
      (s.setCore core { s.coreAt core with waiting0 := some (s.strandAt k) }).setStrand k t
  else s.stopHere k

/-- The fault records of supervisor strands, which stay with their core; the others. -/
def ownFaults (t : Tab (Word × Nat)) : Tab (Word × Nat) := t.filter fun x => 16 ≤ x.1
def contextFaults (t : Tab (Word × Nat)) : Tab (Word × Nat) := t.filter fun x => x.1 < 16

/-- The queues of a core without a context are set aside as one comes in, and come back when it leaves. -/
def Core.leaveIdle (c : Core) : Core :=
  if c.queues.toList.all List.isEmpty then { c with qseq := #v[0, 0, 0, 0] }
  else
    let d : Departed := { cid := 0, part := 128, husk := 0, ptbase := c.csrs.ptbase, queues := c.queues, qseq := c.qseq }
    { c with departed := c.departed ++ [d], queues := #v[[], [], []], qseq := #v[0, 0, 0, 0] }
def Core.enterIdle (c : Core) : Core :=
  match c.departed.find? Departed.isIdle with
  | none => c
  | some d => { c with departed := c.departed.filter (!·.isIdle), queues := d.queues, qseq := d.qseq }

/-- Commands and leases of strands of a context; the others are a supervisor strand's, and stay at its core (06 R195, 13 R330). -/
def contextCmds (xs : List MillCmd) : List MillCmd := xs.filter (·.part.isSome)
def ownCmds (xs : List MillCmd) : List MillCmd := xs.filter (·.part.isNone)
def ownLeases (ls : List Lease) : List Lease := ls.filter (·.part.isNone)

/-- The departing context leaves its core (13 R341 to R346). -/
def State.switchOut (s : State) (core : Nat) : State :=
  let c := s.coreAt core
  if !c.resident then s.setCore core c.leaveIdle
  else
    let cid := bitsNat c.csrs.cidtag 15 0
    let (s, lease) := ((List.range 4).foldl (State.stopStrand · core) s).departLease core
    let c := s.coreAt core
    let strands := (List.range 4).map fun i => (i, (s.contextStrand core i).settled)
    let here := strands.filter fun x => x.2.kind != .none
    let live := c.queues.toList.any fun q => !q.isEmpty
    let s := s.saveHeader core live
    let s := s.saveBarriers core
    let s := c.slots.toList.zipIdx.foldl (fun s (x, i) => s.putPa (imageAddr c.husk i + 0x1000 + 8 * 0x14) 8 x.tsavea.toNat) s
    let s := here.foldl (fun s x =>
      s.saveStrand (imageAddr c.husk x.1) x.2 (c.slots.toList.getD x.1 {}).tsavea (s.placeCsrs core x.1)) s
    let ways := bitsNat c.csrs.spadways 4 0
    let s := (s.saveCarve core (c.husk + 0xA0000) ways).clearRange (scratchKey core 0) (2 ^ 20)
    let mine := fun (m : Msg) => m.slotted && m.sender.core == core && m.sender.cid == cid && m.sender.part == some c.part
    let spilled := s.net.filter mine
    let s := ((s.saveLease c.husk lease (contextCmds c.q3)).saveQueues c.husk c.queues).saveSpilled c.husk spilled
    let d : Departed :=
      { cid, part := c.part, husk := c.husk, ptbase := c.csrs.ptbase, ways, queues := c.queues, qseq := c.qseq, spilled,
        lease, q3 := contextCmds c.q3, halt := c.halt.filter (!·.sup), harvests := here.map fun x => (x.1, x.2.harvest),
        ties := here.filterMap fun x => x.2.slotTie.map (x.1, ·), fences := here.map fun x => (x.1, x.2.fenced),
        marks := here.map fun x => (x.1, x.2.marks), halted := (here.filter fun x => x.2.cond == .halted).map (·.1),
        firm := here.map fun x => (x.1, x.2.fstatus, x.2.fepc, x.2.fcause), qfaults := contextFaults c.qfaults }
    let area := c.ownerArea
    let tiles := if c.holds c.tiles.cid then { c.tiles with area := area.1, ptbase := area.2 } else c.tiles
    let s := { s with net := s.net.filter fun m => !mine m }
    let s := s.setCore core
      { c with resident := false, tiles, slots := Vector.replicate 4 {}, barriers := [], domains := [],
               queues := #v[[], [], []], qseq := #v[0, 0, 0, 0], qfaults := ownFaults c.qfaults, q3 := ownCmds c.q3,
               halt := c.halt.filter (·.sup), leases := promote false (s.cyclesOf core) (ownLeases c.leases), slotPend := [], waiting0 := none,
               departed := c.departed.filter (fun x => x.husk != c.husk || x.isIdle) ++ [d] }
    let s := strands.foldl (fun s x =>
      let k := core * 4 + x.1
      if (s.strandAt k).kind = .supervisor then s else s.setStrand k {}) s
    s.linkChain core

/-! ## The replay of shadow records -/

/-- The lowest set bit of a byte mask, and how many are set. -/
def maskLow (m : Nat) : Nat := trailingZeros 32 m
def maskCount (m : Nat) : Nat := popcount 32 m

/-- The sender of a diverted load or AMO, from its record (13 R350, log entry 16). -/
def ShadowRec.sender (r : ShadowRec) (part : Nat) : Sender :=
  { core := r.src, slot := r.tag % 4, cid := r.tag / 2 ^ 16, part := some part, sup := r.tag.testBit 9 }

/-- The message whose record this is, for its home core (13 R350). -/
def ShadowRec.toMsg (r : ShadowRec) (core part : Nat) : Msg :=
  let key := scratchKey core (r.target + maskLow r.mask)
  let sender := r.sender part
  let reg : Reg := BitVec.ofNat 5 (r.tag / 4)
  let body : MsgBody := match r.op with
    | 0 => .store ((List.range 32).filterMap fun i =>
        if r.mask.testBit i then some (scratchKey core (r.target + i), BitVec.ofNat 8 (r.data / 2 ^ (8 * i))) else none)
    | 6 => .arrive r.target r.value
    | 7 => .expect r.target r.value false none
    | 8 => .subtract r.target r.value
    | 9 => .phase r.target (r.value % 2 == 1)
    | 10 => if r.tag.testBit 10 then .vload key (maskCount r.mask)
        else .load key (maskCount r.mask) (r.tag.testBit 7) reg (r.tag.testBit 8)
    | 11 => .amo (memOpOfCode (r.width / 4)) (widthOfCode r.width) (r.width / 64) key (addrOfKey key)
        (BitVec.ofNat 64 r.data) (BitVec.ofNat 64 (r.data / 2 ^ 64)) reg
    | op =>
        let w := widthOfCode r.width
        .reds (redOfOp op) w (((List.range 32).filter fun i => i % amoSize w == 0 && r.mask.testBit i).map fun i =>
          (scratchKey core (r.target + i), BitVec.ofNat 64 (r.data / 2 ^ (8 * i) % 2 ^ (8 * amoSize w))))
  { sender, home := some core, dest := core, body }

/-- The message in the network whose diverted load or AMO a record is of: the first with its tag (log entry 16). -/
def State.divertedOf (s : State) (core part : Nat) (r : ShadowRec) : Option Nat :=
  s.net.findIdx? fun m => m.diverted && m.home == some core && m.sender.core == r.src && m.sender.part == some part &&
    match m.body with
    | .load k n sg x fl => r.op == 10 && tagOf m.sender x sg fl == r.tag && scratchKey core (r.target + maskLow r.mask) == k &&
        maskCount r.mask == n
    | .vload k n => r.op == 10 && vloadTag m.sender == r.tag && decide (scratchKey core r.target < k + n) &&
        decide (k + n ≤ scratchKey core (r.target + 32))
    | .amo _ _ _ k _ _ _ x => r.op == 11 && tagOf m.sender x false false == r.tag &&
        scratchKey core (r.target + maskLow r.mask) == k
    | _ => false

/-- The message that a record replays, and the state without it in the network: none for the read of a vector load which nobody waits
for any more, or of which another record is the last. -/
def State.undivert (s : State) (core part : Nat) (r : ShadowRec) : State × Option Msg :=
  match s.divertedOf core part r with
  | none => (s, if r.op = 10 ∧ r.tag.testBit 10 = true then none else some (r.toMsg core part))
  | some i =>
    let m := (s.net[i]?).getD (r.toMsg core part)
    ({ s with net := s.net.eraseIdx i },
     some { r.toMsg core part with sender := m.sender, body := if m.body.isVload then m.body else (r.toMsg core part).body })

/-- A record replayed (13 R350, R355): one whose bytes lie beyond the carve is discarded and counted as an orphan. -/
def State.replay (s : State) (core part : Nat) (r : ShadowRec) : State :=
  match s.undivert core part r with
  | (s, none) => s
  | (s, some m) =>
    if r.op ≤ 5 ∨ 10 ≤ r.op then
      let last := (List.range 32).foldl (fun x i => if r.mask.testBit i then i else x) 0
      if s.carveSize core ≤ r.target + last then (s.orphanMsg core m m.body.firstKey).answerDiscarded m else s.performMsg m
    else s.barrierMsg core m

/-- The records of a context's entries of one kind, in ascending SEQ, each with its entry's partition (13 R355). -/
def State.recordsOf (s : State) (core cid kind : Nat) : List (Nat × ShadowRec × Nat) :=
  let all := ((s.coreAt core).divtab.filter fun e => e.kind == kind && e.cid == cid).flatMap fun e =>
    (List.range e.used).filterMap fun i => (locateHbm 0 (e.shadow + 64 * i)).map fun k => (s.readMem k 8, s.shadowAt k, e.part)
  all.mergeSort fun x y => decide (x.1 ≤ y.1)

/-- The records of one kind replayed. -/
def State.replayAll (s : State) (core cid kind : Nat) : State :=
  (s.recordsOf core cid kind).foldl (fun s x => s.replay core x.2.2 x.2.1) s

/-! ## Coming in -/

/-- The context CSRs of a husk (13 R342); all zero where VALID is 0. -/
def State.loadCsrs (s : State) (husk : Nat) (valid : Bool) : CtxCsrs :=
  contextCsrs.foldl (fun c n => c.write n (if valid then s.imageWord (husk + 0x40 + 8 * (n - 0x100)) else 0)) {}

/-- ALLOCTRAP and HEAPBASE of a husk restored, to the partition that holds them (08 R236, log entry 46). -/
def State.loadHeap (s : State) (part : Nat) (c : CtxCsrs) (valid : Bool) : State :=
  if valid then s.setPart part { s.partAt part with alloctrap := c.alloctrap, heapbase := c.heapbase } else s

/-- The slots of a husk (13 R342, R343). -/
def State.loadSlots (s : State) (husk : Nat) (valid : Bool) : Vector Slot 4 :=
  Vector.ofFn fun (i : Fin 4) =>
    if !valid then {}
    else { state := SlotState.ofCode (s.readPa (husk + 0x300 + 8 * i) 8), top := s.imageWord (husk + 0x320 + 8 * i),
           tsavea := s.imageWord (imageAddr husk i + 0x1000 + 8 * 0x14) &&& 0xFFFFFFFFFFFFF001 }

/-- The barriers and domains of a husk (13 R342). -/
def State.loadBarriers (s : State) (husk : Nat) : Tab Barrier :=
  (List.range 2048).filterMap fun b =>
    let x := Barrier.ofWords (s.imageWord (husk + 0x8000 + 16 * b)) (s.imageWord (husk + 0x8008 + 16 * b))
    if x = {} then none else some (b, x)
def State.loadDomains (s : State) (husk : Nat) : Tab (List Nat) :=
  (List.range 64).filterMap fun j =>
    let n := s.readPa (husk + 0x20000 + 4096 * j) 2
    if n = 0 then none
    else some (j, (List.range (min n 1024)).map fun i => s.readPa (husk + 0x20002 + 4096 * j + 2 * i) 2)

/-- A gang member noted in its gang's record (12 R308). -/
def State.joinGang (s : State) (part k : Nat) (t : Strand) : State :=
  if t.kind ≠ .gang then s
  else
    let mine := fun (g : Gang) => g.part == part && g.handle == t.gang
    if s.gangs.any mine then
      { s with gangs := s.gangs.map fun g => if mine g then { g with members := Tab.set g.members t.member k } else g }
    else { s with gangs := s.gangs ++ [{ part, handle := t.gang, members := [(t.member, k)] }] }

/-- A strand of an incoming context takes its slot; that of slot 0 waits behind a supervisor strand (13 R330). -/
def State.placeStrand (s : State) (core i : Nat) (t : Strand) : State :=
  let c := s.coreAt core
  let t := { t with prio := min t.prio c.csrs.ceil }
  let s := s.joinGang c.part (core * 4 + i) t
  if i = 0 ∧ (s.strandAt (core * 4)).kind = .supervisor then s.setCore core { s.coreAt core with waiting0 := some t }
  else s.setStrand (core * 4 + i) t

/-- A change to the context's strand of a slot, wherever it stands. -/
def State.mapContextStrand (s : State) (core i : Nat) (f : Strand → Strand) : State :=
  let k := core * 4 + i
  if (s.strandAt k).kind = .supervisor then
    let c := s.coreAt core
    s.setCore core { c with waiting0 := c.waiting0.map f }
  else s.setStrand k (f (s.strandAt k))

/-- TOKEN_FAULT marks of the log's first `n` records, as the handler has left their DELIVER bits (13 R354).  The count is that of the
header in step 5, which the handler has zeroed since (13 R353). -/
def State.applyLog (s : State) (core husk n : Nat) : State :=
  let log := husk + 0x4000
  (List.range n).foldl (fun s i =>
    let r := log + 64 + 64 * i
    if s.readPa (r + 29) 1 % 2 = 1 ∧ s.readPa (r + 25) 1 = 0 then
      let reg : Reg := BitVec.ofNat 5 (s.readPa (r + 28) 1)
      let m := Mark.tokenFault (s.imageWord (r + 8)) (s.imageWord (r + 16))
      s.mapContextStrand core (s.readPa (r + 27) 1 % 4) fun t => if t.kind = .none then t else t.setMark reg m
    else s) s

/-- The held messages of a core performed, in arrival order (13 R355). -/
def State.performHeld (s : State) (core : Nat) : State :=
  let mine := fun (m : Msg) => m.held && m.home == some core
  (s.net.filter mine).foldl (fun s m =>
    match s.arriveMsg { m with held := false } with
    | (s, none) => s
    | (s, some m) => { s with net := s.net ++ [m] }) { s with net := s.net.filter fun m => !mine m }

/-- Step 6 of the merge (13 R355): the shadow images empty, the log is applied, held messages are performed, spilled ones
re-injected, and a revoked lease requested again (06 R196). -/
def State.finishMerge (s : State) (core : Nat) : State :=
  let c := s.coreAt core
  let cid := bitsNat c.csrs.cidtag 15 0
  let s := (c.divtab.filter fun e => e.cid == cid && e.kind != 0).foldl
    (fun s e => s.keepDivEntry core { e with used := 0, full := false }) s
  let s := s.applyLog core c.husk c.logged
  let d := c.departed.find? fun x => x.husk == c.husk && !x.isIdle
  let c := s.coreAt core
  let s := s.setCore core
    { c with merging := false, logged := 0, leases := promote false (s.cyclesOf core) c.leases, departed := c.departed.filter fun x => x.husk != c.husk || x.isIdle }
  let s := s.performHeld core
  let back := ((d.map (·.spilled)).getD []).map fun m =>
    { m with travel := none, via := none, atPort := true, held := false, refused := false, diverted := false }
  { s with net := s.net ++ back }.injectWaiting

/-- The incoming context is restored, and its diverted messages are replayed (13 R355, steps 1 to 5). -/
def State.switchIn (s : State) (core : Nat) : State :=
  let c := s.coreAt core
  let husk := bitsNat c.nextcid 51 16 * 65536
  let cid := bitsNat c.nextcid 15 0
  let head := s.readPa husk 8
  let part := head / 2 ^ 24 % 128
  let valid := head.testBit 16
  let d := c.departed.find? fun x => x.husk == husk && x.cid == head % 2 ^ 16 && x.part == part && !x.isIdle
  let csrs := (s.loadCsrs husk valid).write 0x111 (BitVec.ofNat 64 cid)
  let slots := s.loadSlots husk valid
  let lease := (d.bind (·.lease)).map fun l => { l with status := .queued, displaced := true }
  let s := s.setCore core
    { c with
      resident := true, part, husk, csrs, slots, merging := true
      departed := c.departed.filter fun x => x.husk != husk || x.isIdle || d == some x
      queues := (d.map (·.queues)).getD #v[[], [], []], qseq := (d.map (·.qseq)).getD #v[0, 0, 0, 0],
      qfaults := ownFaults c.qfaults ++ (d.map (·.qfaults)).getD []
      q3 := c.q3 ++ (d.map (·.q3)).getD [], halt := c.halt.or (d.bind (·.halt)), leases := c.leases ++ lease.toList }
  let s := (s.loadHeap part csrs valid).trimSlice core
  let s := if d.any (·.live) then s.writePa (husk + 2) 1 (s.readPa (husk + 2) 1 % 2) else s
  let s := s.setCore core { s.coreAt core with departed := (s.coreAt core).departed.map fun x =>
    if x.husk = husk ∧ x.isIdle = false then { x with queues := #v[[], [], []] } else x }
  let s := s.linkChain core
  let ways := bitsNat csrs.spadways 4 0
  let s := s.clearRange (scratchKey core 0) (2 ^ 20)
  let s := if valid then s.loadCarve core (husk + 0xA0000) ways else s
  let s := slots.toList.zipIdx.foldl (fun s (x, i) =>
    if x.state = .gangOccupied ∨ x.state = .seedOccupied then
      s.placeStrand core i (s.loadStrand (imageAddr husk i) i x.state d)
    else s) s
  let s := s.replayAll core cid 1
  let s := if valid then
      s.setCore core { s.coreAt core with barriers := s.loadBarriers husk, domains := s.loadDomains husk }
    else s
  let s := s.replayAll core cid 2
  let log := s.imageWord (husk + 0x4000)
  let s := s.setCore core { s.coreAt core with logged := if valid then bitsNat log 7 0 else 0 }
  if valid && bitsNat log 8 0 != 0 then
    let x : Word × Word := (BitVec.ofNat 64 (husk + 0x4000), log)
    if (s.strandAt (core * 4)).kind = .supervisor then
      let c := s.coreAt core
      s.setCore core { c with pending := { c.pending with absent := some x } }
    else s.startSupervisor core (absentExc x)
  else s.finishMerge core

/-- The core is left with no context: its idle set is in force (13 R341, R417). -/
def State.goIdle (s : State) (core : Nat) : State :=
  let c := (s.coreAt core).enterIdle
  s.setCore core { c with csrs := { c.idleCsrs with cidtag := 0 }, resident := false }

/-- A switch is due at a core: its tick has come, and it names a switch (13 R340). -/
def State.switchDue (s : State) (core : Nat) : Bool :=
  let c := s.coreAt core
  c.switchat != BitVec.allOnes 64 && decide (c.switchat.toNat ≤ s.gtime) && !bitAt c.nextcid 63 && !c.merging && !isChiplet core

/-- An instruction that has issued and completes before its strand is saved: it waits for an answer (13 R341). -/
def Cond.awaitsAnswer : Cond → Bool
  | .bexp _ _ _ | .floatLoad _ | .acquire _ => true
  | _ => false

/-- The switch may be made: it is due, and no instruction of the context that completes first is under way (13 R341). -/
def State.maySwitch (s : State) (core : Nat) : Bool :=
  s.clocked core && s.switchDue core && !((List.range 4).any fun i => (s.contextStrand core i).cond.awaitsAnswer)

/-- SPAN_SWITCH (13 R341). -/
def State.spanSwitch (s : State) (core : Nat) : State :=
  if !s.maySwitch core then s
  else
    let was := s.coreAt core
    let s := s.setCore core { was with switchat := BitVec.allOnes 64,
                                       idleCsrs := if was.resident then was.idleCsrs else was.csrs }
    if bitsNat was.nextcid 15 0 ≠ 0 then (s.switchOut core).switchIn core
    else (if was.resident then s.switchOut core else s).goIdle core

/-- SPAN_SWITCH (13 R341, R355). -/
def execSpanSwitch (core : Nat) (s : State) : Out := .next (s.spanSwitch core)

/-- The lease of a core's supervisor strand, which ends, is released as though it had issued MRELEASE last (06 R180). -/
def Core.releaseOwn (c : Core) : Core :=
  if c.leases.any fun l => l.isHeld && l.part.isNone && !l.released then
    let n := c.qseq[3]
    let cmd : MillCmd := { op := .release, slot := 0, seq := n, mode := .supervisor, part := none, adopted := none }
    { c with q3 := c.q3 ++ [cmd], qseq := c.qseq.set 3 ((n + 1) % 65536),
             leases := mapFirst (fun l => l.isHeld && l.part.isNone) (fun l => { l with released := true }) c.leases }
  else c

/-- The queue entries and mill commands of a core's supervisor strand, which ends, are nobody's any more (09 R255, 12 R322); a halt of
its own is over. -/
def Core.orphanEntries (c : Core) : Core :=
  let c := c.releaseOwn
  let dead := fun (qs : Vector (List QEntry) 3) => qs.map (·.map fun e => if e.part.isNone then { e with dead := true } else e)
  let gone := fun (xs : List MillCmd) => xs.map fun x => if x.part.isNone then { x with dead := true } else x
  { c with queues := dead c.queues, q3 := gone c.q3, halt := c.halt.filter (!·.sup), qfaults := contextFaults c.qfaults,
           departed := c.departed.map fun d => { d with queues := dead d.queues } }

/-- A supervisor strand ends (13 R330): what is under way for it answers to nobody; a waiting ABSENT_FAULT starts the next one; the
merge that waited for it is finished; and the strand of slot 0 takes its slot. -/
def State.endSupervisor (s : State) (core : Nat) : State :=
  let s := s.forsake fun m => m.core == core && m.sup
  let c := (s.coreAt core).orphanEntries
  let s := s.setCore core c
  match c.pending.absent with
  | some x =>
    let s := s.setCore core { c with pending := { c.pending with absent := none } }
    s.setStrand (core * 4) (supervisorStrand c.stvec (absentExc x))
  | none =>
    let t := c.waiting0.getD {}
    let s := (s.setCore core { c with waiting0 := none }).setStrand (core * 4) t
    if c.merging then s.finishMerge core else s

end Sys2Proof.Machine
end

