-- ==== Sys2Proof/Machine/Boot.lean ====
section
/-!
DEFINITION. Machine/Boot.lean: measured boot and the state in which the module operating system begins (17 R398, R399).
-/

namespace Sys2Proof.Machine

/-- What Salhal has left in local HBM (17 R399, log entry 2): the level-0 table at physical address 0x1000, the tables below it
with leaves for the image at 0x200000, the boot record at 0x105000 and the stack at 0x400000, and the constants of the boot
record: the host window of 4 GiB at 0x100000000, and the first address that Salhal does not use, 0x600000. -/
def bootCells : List Host.Cell :=
  [(6184, 39#8), (6185, 80#8), (6186, 16#8), (274877906944, 1#8), (274877906945, 32#8), (274878173196, 1#8),
   (274878173204, 1#8), (274878173210, 96#8), (549755813888, 1#8), (549755813889, 48#8), (824633720832, 1#8),
   (824633720833, 64#8), (824633720840, 47#8), (824633720842, 32#8), (824633720848, 39#8), (824633720850, 64#8)]

/-- The physical address of the boot record (log entry 2). -/
def bootRecord : Nat := 0x105000

/-- Chiplet core 0's strand when it begins the module operating system (17 R399, log entry 2). -/
def bootStrand : Strand :=
  { kind := .chiplet, pc := 0x200000, mode := .supervisor,
    g := ((Vector.replicate 32 0).set 3 0x600000).set 14 (BitVec.ofNat 64 bootRecord) }

/-- Chiplet core 0 at that moment: its tables are the ones Salhal built. -/
def bootCore : Core := { csrs := { ptbase := 0x1001 } }

/-- What a reset leaves of the module (17 R398): its fuses, its place in its domain, GTIME, its ports but for their sessions,
and the model's own schedule (log entries 1 and 3). -/
def State.cleared (s : State) : State :=
  { gtime := s.gtime, refilled := s.gtime / 1024 * 1024, domain := s.domain, modules := s.modules, prodFuse := s.prodFuse,
    secState := if s.prodFuse then .production else .factoryOpen, minsvn := s.minsvn, ident := s.ident,
    ports := s.ports.map fun e => (e.1, { e.2 with spdm := .start }), monitors := (List.range 4).map fun d => (d, { began := s.gtime }),
    booted := true, agenda := s.agenda, turns := s.turns, ticks := s.ticks, lags := s.lags, fresh := s.fresh }

/-- The state in which the module operating system begins, but for the measurements (17 R399). -/
def State.osStart (s : State) : State :=
  let s := { s.cleared with
    mem := bootCells, strands := [(4096, bootStrand)], cores := [(1024, bootCore)], cur := 4096,
    hdmBase := 0x100000000, hdmSize := 0x100000000 }
  (s.writePa bootRecord 8 s.domain).writePa (bootRecord + 320) 8 s.secstat.toNat

/-- MEASi extended by a hash (17 R398). -/
def extend (m h : BitVec 512) : BitVec 512 := Config.sha3_512 (bytesOf 64 m.toNat ++ bytesOf 64 h.toNat)

/-- SHA3-512 of the image of a boot stage (17 R398). -/
def stageHash (i : Nat) : BitVec 512 := Config.sha3_512 (Config.stageImage i)

/-- The signature of a boot stage's image verifies over its hash with a key whose hash is one of the four fused ones, unrevoked (17
R398). -/
def stageVerified (i : Nat) : Bool :=
  let key := Config.stageKey i
  ([0, 1, 2, 3].any fun j => Config.keyHash j == Config.sha3_512 key && !Config.keyRevoked j) &&
    Config.mlDsa87Verify key (bytesOf 64 (stageHash i).toNat) (Config.stageSignature i)

/-- The boot stages run in order: the measurements, and the stages that passed before one failed (17 R398). -/
def bootStages (minsvn : Nat) : List Nat → Vector (BitVec 512) 4 → Vector (BitVec 512) 4 × Nat
  | [], m => (m, 0)
  | i :: is, m =>
    if stageVerified i && decide (minsvn ≤ Config.stageVersion i) then
      let (m, n) := bootStages minsvn is (m.set (i % 4) (extend (m.toList.getD i 0) (stageHash i)) (Nat.mod_lt i (by decide)))
      (m, n + 1)
    else (m, 0)

/-- The state with the measurements kept, and written into the boot record (17 R399). -/
def State.withMeas (s : State) (m : Vector (BitVec 512) 4) : State :=
  (List.range 4).foldl (fun s i => s.writePa (bootRecord + 64 + 64 * i) 64 (m.toList.getD i 0).toNat) { s with meas := m }

/-- The module is reset and boots (17 R398, R399): where a stage fails, no later stage runs, and the state is fault-locked.  Salhal, the
first stage, runs from its own passing on (R400). -/
def State.boot (s : State) : State :=
  let (m, passed) := bootStages s.minsvn [0, 1, 2, 3] (Vector.replicate 4 0)
  if passed = 4 then { s.osStart.withMeas m with salhal := true }
  else { s.cleared with meas := m, secState := .faultLocked, salhal := decide (0 < passed) }

/-- RESET (17 R398). -/
def execReset (s : State) : Out := .next s.boot

end Sys2Proof.Machine
end

