-- ==== Sys2Proof/Machine/Sys.lean ====
section
/-!
DEFINITION. Machine/Sys.lean: the system instructions: ECALL, EBREAK and ERET (13 R332 to R334), the CSR instructions (04 R115 to
R117), TLBINV (08 R230), RDTIME and RDCYC (04 R118), and an unassigned word (02 R28, R29).
-/

namespace Sys2Proof.Machine

/-- Raises an exception after the instruction, whose epc is the next one (13 R332, R333). -/
def raiseAfter (e : Exc) (s : State) : Out := .next (s.take e (s.me.pc + 4))

/-- ECALL (13 R332). -/
def execEcall (s : State) : Out :=
  match s.me.mode with
  | .user => raiseAfter { code := 0x16 } s
  | .supervisor => raiseAfter { code := 0x17 } s
  | .firmware => raise (illegalExc (syWord 0x34 0 0 0 0) 4) s

/-- A strand halted for the debugger, in firmware mode, at its next instruction (17 R403). -/
def Strand.debugHalt (t : Strand) (ftvec epc : Word) : Strand := { t.enterFirmware ftvec 0x18 epc with cond := .halted }

/-- A debugger reaches a core at the intrusive level: in the active state, and no gated cluster (17 R402). -/
def State.intrusive (s : State) (core : Nat) : Bool := s.dbg == 2 && s.power == .active && s.clocked core

/-- EBREAK: a debugger at the intrusive level claims it (13 R333, 17 R402). -/
def execEbreak (s : State) : Out :=
  if s.intrusive s.myCoreNo then .next (s.setMe (s.me.debugHalt s.myCore.ftvec (s.me.pc + 4))) else raiseAfter { code := 0x18 } s

/-- The core's halted command restarts when its strand returns from MILL_ROW (06 R194). -/
def Core.clearHalt (c : Core) (slot : Nat) : Core :=
  match c.halt with
  | some h => if h.taken && h.slot == slot && !h.sup then { c with halt := none } else c
  | none => c

/-- ERET (13 R334, 17 R396).  FEPC can be written whole, and a return to an address that is no multiple of 4 raises MISALIGN with that
address (02 R27); SEPC and UEPC hold multiples of 4. -/
def execEret (s : State) : Out :=
  match s.me.mode with
  | .user => raise (illegalExc (syWord 0x34 0 0 0 2) 4) s
  | .firmware =>
    if bitsNat s.me.fepc 1 0 ≠ 0 then raise (misalignExc s.me.fepc) s else .next (s.setMe s.me.leaveFirmware)
  | .supervisor =>
    if s.me.kind = .supervisor then .next (s.endSupervisor s.myCoreNo)
    else .next ((s.setMyCore (s.myCore.clearHalt s.mySlotNo)).setMe s.me.leaveSupervisor)

/-! ## CSRs -/

/-- A write of UCAUSE in user mode that ends ACTIVE is the user return (13 R329). -/
def userReturns (t : Strand) (n : Nat) (after : Strand) : Bool :=
  t.mode == .user && n == 0x062 && bitAt t.ucause 62 && !bitAt after.ucause 62

/-- The word of a CSR form (02 R36). -/
def csrWord (d a : Reg) (c : BitVec 12) (f : BitVec 4) : IWord := syWord 0x34 d a c f

/-- A CSR instruction (04 R115, R116): the old value goes to g[d], and a written value is made from it and g[a]. -/
def csrOp (w : IWord) (d a : Reg) (n : Nat) (write : Option (Word → Word → Word)) (s : State) : Out :=
  match csrReason s.me.mode n write.isSome with
  | some r => raise (illegalExc w r) s
  | none =>
    issue (if write.isSome then [a] else []) [d] (fun s =>
      let old := s.csrRead n
      let s1 := match write with
        | none => s
        | some f => s.csrWrite n (f old (s.me.readG a))
      let t := s1.me.writeG d old
      .next (s1.setMe (if userReturns s.me n s1.me then t.leaveUser else t.advance))) s

/-- CSRRD (04 R115). -/
def execCsrrd (d : Reg) (c : BitVec 12) (s : State) : Out := csrOp (csrWord d 0 c 3) d 0 c.toNat none s
/-- CSRWR (04 R115). -/
def execCsrwr (d a : Reg) (c : BitVec 12) (s : State) : Out := csrOp (csrWord d a c 4) d a c.toNat (some fun _ x => x) s
/-- CSRSET: with a = 0 it acts as CSRRD (04 R115). -/
def execCsrset (d a : Reg) (c : BitVec 12) (s : State) : Out :=
  csrOp (csrWord d a c 5) d a c.toNat (if a = 0 then none else some fun old x => old ||| x) s
/-- CSRCLR: with a = 0 it acts as CSRRD (04 R115). -/
def execCsrclr (d a : Reg) (c : BitVec 12) (s : State) : Out :=
  csrOp (csrWord d a c 6) d a c.toNat (if a = 0 then none else some fun old x => old &&& ~~~x) s

/-- The user return of a strand: ACTIVE ends, and pc is UEPC (13 R329). -/
def Strand.userReturn (t : Strand) : Strand :=
  if t.mode = .user ∧ bitAt t.ucause 62 = true then { t with ucause := setBits t.ucause 62 62 0 }.leaveUser else t

/-- USER_RETURN: a strand's handler ends (13 R329). -/
def execUserReturn (k : Nat) (s : State) : Out := .next (s.setStrand k (s.strandAt k).userReturn)

/-! ## TLB invalidation -/

/-- TLBINV retires at issue, and its invalidation is under way (08 R230). -/
def tlbinv (w : IWord) (a : Reg) (sc : Scope) (kind : State → Word → TlbKind) (s : State) : Out :=
  if s.me.mode = .user then raise (illegalExc w 4) s
  else issue [a] [] (fun s =>
    let x : TlbInv := { core := s.myCoreNo, slot := s.mySlotNo, scope := sc, kind := kind s (s.me.readG a) }
    complete id { s with tlbinv := s.tlbinv ++ [x] }) s

/-- imm12 of a TLBINV (08 R230). -/
def tlbinvWord (a : Reg) (kind : BitVec 2) (sc : Scope) : IWord :=
  syWord 0x34 0 a (BitField.join 6 6 0 (BitField.join 2 4 kind (BitField.join 1 3 0 sc.code))) 7

/-- TLBINV.page (08 R230). -/
def execTlbinvPage (a : Reg) (sc : Scope) (s : State) : Out :=
  tlbinv (tlbinvWord a 0 sc) a sc (fun s x => .page x (bitsNat s.myCore.csrs.cidtag 15 0)) s
/-- TLBINV.cid (08 R230). -/
def execTlbinvCid (a : Reg) (sc : Scope) (s : State) : Out :=
  tlbinv (tlbinvWord a 1 sc) a sc (fun _ x => .cid (bitsNat x 15 0)) s
/-- TLBINV.ctx (08 R230). -/
def execTlbinvCtx (a : Reg) (sc : Scope) (s : State) : Out := tlbinv (tlbinvWord a 2 sc) a sc (fun _ _ => .ctx) s
/-- TLBINV.all (08 R230). -/
def execTlbinvAll (a : Reg) (sc : Scope) (s : State) : Out := tlbinv (tlbinvWord a 3 sc) a sc (fun _ _ => .all) s

/-- TLBINV_COMPLETE: the entries go from the TLBs in scope; once every message then in flight has been performed, the invalidation
is complete (08 R230). -/
def State.tlbinvStep (s : State) (i : Nat) : State :=
  match s.tlbinv[i]? with
  | none => s
  | some x =>
    match x.after with
    | none =>
      let reached := fun (e : TlbEntry) => inScope x.scope x.core e.core && !(e.shared && x.scope == .core)
      let gone := fun (e : TlbEntry) => reached e && x.kind.removes e
      { s with tlb := s.tlb.filter fun e => !gone e,
               tlbinv := s.tlbinv.set i { x with after := some (s.net.map (·.serial)) } }
    | some after => if s.allPerformed after then { s with tlbinv := s.tlbinv.eraseIdx i } else s

/-- TLBINV_COMPLETE (08 R230). -/
def execTlbinvComplete (i : Nat) (s : State) : Out := .next (s.tlbinvStep i)

/-! ## Counters -/

/-- RDTIME (04 R118): the one GTIME of the module.  The spec lets the dies' copies of it differ by up to 2 ticks (01 R20); here they
never do (log entry 43). -/
def execRdtime (d : Reg) (s : State) : Out :=
  issue [] [d] (fun s => complete (fun t => t.writeG d (BitVec.ofNat 64 s.gtime)) s) s

/-- RDCYC (04 R118). -/
def execRdcyc (d : Reg) (s : State) : Out :=
  issue [] [d] (fun s => complete (fun t => t.writeG d (BitVec.ofNat 64 (s.cyclesOf s.myCoreNo))) s) s

/-! ## Unassigned words -/

/-- UNASSIGNED_INSTRUCTION_WORD: ILLEGAL with reason code 0 or 1 (02 R28, R29). -/
def execUnassignedInstructionWord (w : IWord) (s : State) : Out :=
  match unassignedReason w with
  | some r => raise (illegalExc w r) s
  | none => .next s

end Sys2Proof.Machine
end

