-- ==== Sys2Proof/Machine/EvNet.lean ====
section
/-!
DEFINITION. Machine/EvNet.lean: the events of messages and their answers (04 R92, R93, 07 R203, 10 R276, R277, 11 R287, R290, R296,
R301, 13 R351), of sleeping strands (11 R300, 14 R369), of slotted injection (R367), and of the shares and load monitors (R361,
R364, R365).  An event that is not enabled changes nothing (log entry 1).
-/

namespace Sys2Proof.Machine

/-! ## Values that land -/

/-- The strand after a value of a kind lands in g[r], where one is on its way; poisoned data is written together with a poison mark (04
R92, R93). -/
def Strand.landed (t : Strand) (kind : PendKind) (r : Reg) : Strand :=
  match t.mark r with
  | .landing x v p =>
    if x = kind then
      match p with
      | none => t.writeG r v
      | some a => (t.writeG r v).setMark r (.poison a)
    else t
  | _ => t

/-- LOAD_DATA_RETURN: the data of a load or AMO reaches g[r] of strand `k` (04 R93). -/
def execLoadDataReturn (k : Nat) (r : Reg) (s : State) : Out := .next (s.setStrand k ((s.strandAt k).landed .load r))

/-- LONG_LATENCY_RESULT: the result of a DIV, DIVZ, REM or REMZ reaches g[r] of strand `k` (04 R92). -/
def execLongLatencyResult (k : Nat) (r : Reg) (s : State) : Out :=
  .next (s.setStrand k ((s.strandAt k).landed .longLatency r))

/-! ## Messages at their homes -/

/-- The location of USC in a slot's strand image (13 R343). -/
def uscAddr (husk slot : Nat) : Nat := imageAddr husk slot + 0x800 + 8 * 4

/-- An acknowledgement reaches its sender: USC falls by 1, in the strand or in its image (07 R203, R204). -/
def State.acked (s : State) (m : Sender) : State :=
  if s.senderLive m then
    let t := s.senderStrand m
    s.setSender m { t with usc := t.usc - 1 }
  else
    match (s.coreAt m.core).departed.find? (·.isOf m) with
    | none => s
    | some x => s.writePa (uscAddr x.husk m.slot) 8 (s.readPa (uscAddr x.husk m.slot) 8 - 1)

/-- ACKNOWLEDGEMENT (07 R203). -/
def execAcknowledgement (i : Nat) (s : State) : Out :=
  match s.acks[i]? with
  | none => .next s
  | some m => .next ({ s with acks := s.acks.eraseIdx i }.acked m)

/-- Message `i` reaches its home, where it is of the event's kind and has not been refused. -/
def State.arrival (s : State) (kind : MsgBody → Bool) (i : Nat) : State :=
  match s.net[i]? with
  | none => s
  | some m =>
    if kind m.body && !m.refused then
      let s := s.deliver i
      if m.slotted then s.restartSlotted (m.sender.core * 4 + m.sender.slot) else s
    else s

/-- Kinds of message. -/
def MsgBody.isWrite : MsgBody → Bool
  | .store _ | .red .. | .reds .. => true
  | _ => false
def MsgBody.isLoad : MsgBody → Bool
  | .load .. | .vload .. => true
  | _ => false
def MsgBody.isAmo : MsgBody → Bool
  | .amo .. => true
  | _ => false
def MsgBody.isArrive : MsgBody → Bool
  | .arrive .. => true
  | _ => false
def MsgBody.isExpect : MsgBody → Bool
  | .expect .. => true
  | _ => false
def MsgBody.isSubtract : MsgBody → Bool
  | .subtract .. => true
  | _ => false
def MsgBody.isPhase : MsgBody → Bool
  | .phase .. => true
  | _ => false
def MsgBody.isEvsig : MsgBody → Bool
  | .evsig .. => true
  | _ => false

/-- REMOTE_WRITE_ARRIVAL (10 R276). -/
def execRemoteWriteArrival (i : Nat) (s : State) : Out := .next (s.arrival MsgBody.isWrite i)
/-- HELD_READ (10 R277). -/
def execHeldRead (i : Nat) (s : State) : Out := .next (s.arrival MsgBody.isLoad i)
/-- AMO_ARRIVAL (11 R301). -/
def execAmoArrival (i : Nat) (s : State) : Out := .next (s.arrival MsgBody.isAmo i)
/-- BARRIER_ARRIVAL (11 R287). -/
def execBarrierArrival (i : Nat) (s : State) : Out := .next (s.arrival MsgBody.isArrive i)
/-- EXPECTATION (11 R290). -/
def execExpectation (i : Nat) (s : State) : Out := .next (s.arrival MsgBody.isExpect i)
/-- BYTE_SUBTRACTION (09 R256). -/
def execByteSubtraction (i : Nat) (s : State) : Out := .next (s.arrival MsgBody.isSubtract i)
/-- PHASE_MESSAGE (11 R287). -/
def execPhaseMessage (i : Nat) (s : State) : Out := .next (s.arrival MsgBody.isPhase i)
/-- EVENT_LINE_UPDATE (11 R296). -/
def execEventLineUpdate (i : Nat) (s : State) : Out := .next (s.arrival MsgBody.isEvsig i)

/-- MESSAGE_RETRY: a refused message is sent again, and keeps its place (13 R351). -/
def execMessageRetry (i : Nat) (s : State) : Out :=
  match s.net[i]? with
  | none => .next s
  | some m => .next (if m.refused then s.deliver i else s)

/-! ## Sleeping strands -/

/-- A part of strand `k`'s instruction, where it completes or raises; nothing where it waits. -/
def State.onBehalf (s : State) (k : Nat) (work : M Unit) : State :=
  match work.run.run { s with cur := k } with
  | (.ok _, s1) => { s1 with cur := s.cur }
  | (.error (.trap e), s1) => { s1.take e s1.me.pc with cur := s.cur }
  | (.error .wait, _) => s

/-- BEXP_REPLY: the reply reaches strand `k` (11 R290). -/
def execBexpReply (k : Nat) (s : State) : Out :=
  match (s.strandAt k).cond with
  | .bexp d a (some r) => .next (s.onBehalf k (bexpFinish d a r))
  | _ => .next s

/-- A sleeping strand `k` compares again: it completes its instruction, or sleeps on unchanged (11 R300), also where its address does not
translate any more (log entry 53). -/
def State.wake (s : State) (k : Nat) (work : M Unit) : State :=
  match work.run.run { s with cur := k } with
  | (.ok _, s1) => if s1.me.cond = .ready then { s1 with cur := s.cur } else s
  | _ => s

/-- BWAIT_WAKE (11 R291). -/
def execBwaitWake (k : Nat) (s : State) : Out :=
  match (s.strandAt k).cond with
  | .asleep (.bwait d a) => .next (s.wake k (bwaitLoop d a))
  | _ => .next s

/-- EVWAIT_WAKE (11 R295). -/
def execEvwaitWake (k : Nat) (s : State) : Out :=
  match (s.strandAt k).cond with
  | .asleep (.evwait d a) => .next (s.wake k (evwaitLoop d a))
  | _ => .next s

/-- EVLOCK's compare for the ticket it sleeps with (11 R297). -/
def evlockAgain (d a : Reg) (ticket : Nat) : M Unit := do
  let l ← M.lineOf true .amo ((← M.me).readG a)
  evlockLoop d a l ticket

/-- EVLOCK_WAKE (11 R297). -/
def execEvlockWake (k : Nat) (s : State) : Out :=
  match (s.strandAt k).cond with
  | .asleep (.evlock d a t) => .next (s.wake k (evlockAgain d a t))
  | _ => .next s

/-- WAITV_WAKE (11 R299). -/
def execWaitvWake (k : Nat) (s : State) : Out :=
  match (s.strandAt k).cond with
  | .asleep (.waitv d a b m l c) => .next (s.wake k (waitvLoop d a b m l c))
  | _ => .next s

/-- SLOTWAIT_WAKE: GTIME has reached the tick (14 R369). -/
def execSlotwaitWake (k : Nat) (s : State) : Out :=
  match (s.strandAt k).cond with
  | .asleep (.slotwait d tick) =>
    .next (if tick ≤ s.gtime then s.setStrand k ((s.strandAt k).slotwaitDone d tick) else s)
  | _ => .next s

/-! ## Slotted injection -/

/-- A slotted message of the core may begin injection (14 R367): the tick lies in a slot of the core, or slots are no longer in
force; the port is free; fewer than 16 are undelivered; and USC has room. -/
def State.mayInjectSlotted (s : State) (core : Nat) (x : Slotted) : Bool :=
  let c := (s.coreAt core).slotsAt s.gtime
  (slotOwned c s.gtime || !bitAt c.slotper 16) && s.mayBegin s.packets x.msg && decide (s.slottedInFlight core < 16) &&
    decide ((s.strandAt (core * 4 + x.slot)).usc < 1024)

/-- The first message of a list that has not been injected. -/
def firstLeft (xs : List Slotted) : Option Nat := xs.findIdx? (·.serial.isNone)

/-- The slotted message of a core that is injected next: the messages of one instruction in their order, and of several strands the one
that came first and may begin (14 R367). -/
def State.nextSlotted (s : State) (core : Nat) : Option (Nat × Slotted) :=
  let xs := (s.coreAt core).slotPend
  (xs.zipIdx.find? fun x => x.1.serial.isNone && s.mayInjectSlotted core x.1 &&
    !(xs.take x.2).any fun y => y.slot == x.1.slot && y.serial.isNone).map fun x => (x.2, x.1)

/-- The strand after the last slotted message of its instruction is injected (14 R367): the instruction completes, or raises what it
failed with. -/
def Strand.slottedEnd (t : Strand) (c : Core) (x : Slotted) : Strand :=
  let t := match x.settled with
    | none => t
    | some (e, m) => { t with estart := e, fmask := m, vl := x.trim.getD t.vl }
  match x.fault with
  | none => { t.advance with timer := none }
  | some (code, addr, info) => t.enter c { code, addr, info } t.pc

/-- The slotted messages of strand `k`'s instruction have all been injected. -/
def State.slottedDone (s : State) (k : Nat) (x : Slotted) : State :=
  let c := s.coreAt (k / 4)
  if (firstLeft (c.slottedOf (k % 4))).isSome then s
  else (s.setCore (k / 4) { c with slotPend := c.slotPend.filter (·.slot != k % 4) }).setStrand k ((s.strandAt k).slottedEnd c x)

/-- SLOTTED_INJECTION (14 R367): a message is injected and counted in USC. -/
def execSlottedInjection (core : Nat) (s : State) : Out :=
  match s.nextSlotted core with
  | none => .next s
  | some (i, x) =>
    let k := core * 4 + x.slot
    let c := s.coreAt core
    let s := (s.setCore core { c with slotPend := c.slotPend.set i { x with serial := some s.sent } }).post x.msg
    let s := s.setStrand k { s.strandAt k with usc := (s.strandAt k).usc + 1 }
    .next ((s.slottedDone k x).restartSlotted k)

/-! ## Shares -/

/-- Partition `p` has a span or a live departed queue at core `c` (14 R365). -/
def State.presentAt (s : State) (c p : Nat) : Bool :=
  let x := s.coreAt c
  (x.resident && x.part == p) || x.departed.any fun d => d.part == p && d.live

/-- The numbers of the partitions that exist. -/
def State.made (s : State) : List Nat := (s.parts.filter (·.2.made)).map (·.1)

/-- A partition is idle at a port from this refill on: it has nothing there, or its bucket is found full for the second time
running (14 R365). -/
def State.idleAt (s : State) (c p : Nat) : Bool :=
  let b := s.bucketAt c p
  let waits := s.packets.any fun m => m.atPort && m.source == c && m.charged == some p
  !waits && (!s.presentAt c p || (b.level == b.capacity && (b.fullOnce || b.idle)))

/-- The refill of core `c`'s port (14 R364, R365). -/
def State.refillPort (s : State) (c : Nat) : State :=
  let ps := s.made
  let idle := ps.filter (s.idleAt c)
  let active := ps.filter fun p => !s.idleAt c p
  let pool := (idle.map s.baseRefill).sum
  let weight := (active.map fun p => (s.partAt p).weight).sum
  let next := fun p =>
    let b := s.bucketAt c p
    let q := s.baseRefill p
    if s.idleAt c p then (p, { level := q, capacity := q, fullOnce := true, idle := true : Bucket })
    else
      let amount := q + pool * (s.partAt p).weight / weight
      (p, { level := min (b.level + amount) amount, capacity := amount, fullOnce := b.level == b.capacity : Bucket })
  s.setCore c { s.coreAt c with buckets := ps.map next, pool }

/-- SHARE_REFILL: at a tick that is a multiple of 1,024 the ports are refilled, and what waits at them is injected as far as it may
begin (14 R364, R365). -/
def execShareRefill (s : State) : Out :=
  if s.refilled + 1024 ≤ s.gtime then
    let t := (s.cores.map (·.1)).foldl State.refillPort s
    .next { t with refilled := s.refilled + 1024 }.injectWaiting
  else .next s

/-! ## Load monitors -/

/-- A channel number is a mesh or skip channel of its die, and no crossing to another (14 R358, R361). -/
def inDie (ch : Nat) : Bool :=
  let x := ch / 8 % 32 % 16
  let y := ch / 256 % 16
  match ch % 8 with
  | 0 => x != 15
  | 1 => x != 0
  | 2 => y != 15
  | 3 => y != 0
  | _ => true

/-- Mesh and skip channels of a die: 30 and 24 for each of its 16 rows, and 30 for each of its 16 columns (01 R13). -/
def dieChannels : Nat := 16 * (30 + 24) + 16 * 30

/-- A window's ratio of the greatest count to the mean reaches `n`/4. -/
def Monitor.reaches (m : Monitor) (n : Nat) : Bool :=
  let xs := (m.counts.filter fun c => inDie c.1).map (·.2)
  decide (0 < xs.sum) && decide (n * xs.sum ≤ 4 * dieChannels * xs.foldl max 0)

/-- A load monitor at the end of its window (14 R361). -/
def Monitor.close (m : Monitor) : Monitor :=
  let calm := if m.reaches 5 then 0 else m.calm + 1
  { began := m.began + 4096, counts := [], calm := min calm 4, twoPhase := m.reaches 8 || (m.twoPhase && decide (calm < 4)) }

/-- LOAD_MONITOR_WINDOW (14 R361). -/
def execLoadMonitorWindow (die : Nat) (s : State) : Out :=
  let m := s.monitorAt die
  .next (if m.began + 4096 ≤ s.gtime then s.setMonitor die m.close else s)

end Sys2Proof.Machine
end

