-- ==== Sys2Proof/Machine/EvFw.lean ====
section
/-!
DEFINITION. Machine/EvFw.lean: the functions of firmware (17 R397, R401, R402, R399), which a supervisor reaches by ECALL.
-/

namespace Sys2Proof.Machine

/-! ## Calls -/

/-- The registers that a firmware function reads beside g14 (17 R397). -/
def fwArgs (n : Nat) : List Reg := if n = 3 then [15] else if n = 5 then [16] else [15, 16]

/-- Strand `k` has called firmware function `n`, and firmware has not answered (17 R396, R397): it waits for a register that it reads and
that is still on its way (04 R92). -/
def State.called (s : State) (k n : Nat) : Bool :=
  let t := s.strandAt k
  t.kind != .none && !t.busy (14 :: fwArgs n) && t.mode == .firmware && t.fcause == 0x17 && t.pc == aligned4 (s.coreAt (k / 4)).ftvec &&
    (t.readG 14).toNat == n

/-- Firmware answers strand `k` with a status in g14, and returns, where the strand is still there (17 R396, R397). -/
def State.answerCall (s : State) (k status : Nat) : State :=
  if (s.strandAt k).kind = .none then s
  else s.setStrand k ((s.strandAt k).writeG 14 (BitVec.ofNat 64 status)).leaveFirmware

/-- A firmware function for strand `k`: its effect and status, where it was called; a poisoned register is a bad argument (log entry
22). -/
def State.fwCall (s : State) (k n : Nat) (f : Word → Word → State → State × Nat) : State :=
  if s.called k n then
    let t := s.strandAt k
    if (t.badRead (14 :: fwArgs n)).isSome then s.answerCall k 1
    else
    let (s, status) := f (t.readG 15) (t.readG 16) s
    s.answerCall k status
  else s

/-- A call of no function of the table is answered as a bad argument (17 R397, log entry 22). -/
def State.unknownCall (s : State) (k : Nat) : State :=
  let t := s.strandAt k
  if s.called k (t.readG 14).toNat && !(decide (1 ≤ (t.readG 14).toNat) && decide ((t.readG 14).toNat ≤ 6)) then
    s.answerCall k 1
  else s

/-- The bytes from a physical address; nothing where one is not in local HBM. -/
def State.bytesPa (s : State) (pa n : Nat) : Option (List Byte) :=
  (List.range n).mapM fun i => (locateHbm 0 (pa + i)).map s.byteAt

/-- The buckets are full again where the sum of the weights is no longer what it was; which of them a refill found full, and which
partitions are idle, stands (14 R364, R365). -/
def State.reshare (s : State) (was : Nat) : State :=
  if s.weightSum = was then s
  else
    let full := fun (e : Nat × Bucket) => (e.1, { e.2 with level := s.baseRefill e.1, capacity := s.baseRefill e.1 })
    let refill := fun (c : Core) => { c with buckets := (c.buckets.filter fun e => (s.partAt e.1).made).map full }
    { s with cores := s.cores.map fun (e : Nat × Core) => (e.1, refill e.2) }.injectWaiting

/-! ## Partitions -/

/-- The partition of a 64-byte descriptor (17 R397). -/
def partitionOfBytes (bs : List Byte) : Partition :=
  { made := true, mask := BitVec.ofNat 128 (recField bs 0 16), weight := recField bs 16 8, sched := recField bs 24 8,
    vtable := recField bs 32 8 }

/-- The descriptor is well formed (17 R397): a cluster at least, a weight of 1 to 255, a scheduling block that is aligned (12
R312), a version table that is aligned (15 R371), and its other bytes zero. -/
def descriptorGood (bs : List Byte) : Bool :=
  recField bs 0 16 != 0 && decide (1 ≤ recField bs 16 8) && decide (recField bs 16 8 ≤ 255) &&
    recField bs 24 8 % 256 == 0 && recField bs 32 8 % 256 == 0 && recField bs 40 24 == 0

/-- Two sets of clusters meet. -/
def masksMeet (x y : BitVec 128) : Bool := (x &&& y) != 0

/-- The gated clusters. -/
def State.gatedMask (s : State) : BitVec 128 :=
  (s.clusters.filter (·.2.gated)).foldl (fun (m : BitVec 128) (e : Nat × Cluster) => m ||| (1#128 <<< e.1)) 0

/-- Function 1: create a partition (17 R397). -/
def fwCreate (a b : Word) (s : State) : State × Nat :=
  if s.secState = .faultLocked then (s, 3)
  else
    match s.bytesPa b.toNat 64 with
    | none => (s, 1)
    | some bs =>
      let p := a.toNat
      let x := partitionOfBytes bs
      if 128 ≤ p ∨ descriptorGood bs = false then (s, 1)
      else if (s.partAt p).made || masksMeet x.mask s.gatedMask || s.parts.any fun e => e.2.made && masksMeet x.mask e.2.mask then
        (s, 2)
      else ((s.setPart p { x with born := s.gtime }).reshare s.weightSum, 0)

/-- Function 2: set a share weight (17 R397). -/
def fwWeight (a b : Word) (s : State) : State × Nat :=
  let p := a.toNat
  let w := b.toNat
  if (s.partAt p).made && decide (1 ≤ w) && decide (w ≤ 255) then
    ((s.setPart p { s.partAt p with weight := w }).reshare s.weightSum, 0)
  else (s, 1)

/-- A span of a partition is resident, or a departed queue of it is live (17 R397). -/
def State.partitionBusy (s : State) (p : Nat) : Bool :=
  s.cores.any fun e => (e.2.resident && e.2.part == p) || e.2.departed.any fun d => d.part == p && d.live

/-- Function 3: destroy a partition (17 R397). -/
def fwDestroy (a _ : Word) (s : State) : State × Nat :=
  let p := a.toNat
  if !(s.partAt p).made then (s, 1)
  else if s.partitionBusy p then (s, 2)
  else
    (({ s with parts := Tab.drop p s.parts, gangs := s.gangs.filter (·.part != p) }.forsake (·.part == some p)).reshare s.weightSum, 0)

/-! ## Power -/

/-- Some core has a resident context or a live departed queue (17 R401). -/
def State.spansRemain (s : State) : Bool := s.cores.any fun e => e.2.resident || e.2.departed.any (·.live)

/-- The compute core lies in a set of clusters. -/
def inClusters (m : BitVec 128) (core : Nat) : Bool := !isChiplet core && m.getLsbD (clusterOf core)

/-- Clusters lose their contents (17 R401): the records of their cores and strands, their caches, and their slices' memory. -/
def State.loseClusters (s : State) (m : BitVec 128) : State :=
  let s := s.loseCaches (inClusters m) m.getLsbD
  let lost := fun (k : Nat) => decide (2 ^ 48 ≤ k) && inClusters m ((k - 2 ^ 48) / 2 ^ 20)
  { s with strands := s.strands.filter fun e => !inClusters m (e.1 / 4)
           cores := s.cores.filter fun e => !inClusters m e.1
           mem := s.mem.filter fun c => !lost c.1
           poisoned := s.poisoned.filter fun p => !lost p
           tlb := s.tlb.filter fun e => !inClusters m e.core }

/-- The state with exactly the clusters of a set gated; a cluster that returns is at its reset values (17 R401), but for the cycles that
its clock has missed (04 R118). -/
def State.gate (s : State) (m : BitVec 128) : State :=
  let s := s.loseClusters m
  { s with clusters := (List.range 128).filterMap fun i =>
      let c := s.clusterAt i
      let c := if m.getLsbD i then { gated := true, behind := c.behind } else if c.gated then { behind := c.behind } else c
      if c = {} then none else some (i, c) }

/-- Function 4: set the power state (17 R401); the states are numbered in the order of R401 (log entry 21). -/
def fwPower (a b : Word) (s : State) : State × Nat :=
  match a.toNat with
  | 0 => ({ s.gate 0 with power := .active, wakeAt := none }, 0)
  | 1 =>
    if s.secState = .faultLocked then (s, 3)
    else
      match s.bytesPa b.toNat 16 with
      | none => (s, 1)
      | some bs =>
        let m : BitVec 128 := BitVec.ofNat 128 (natOfBytes bs)
        if s.parts.any fun e => e.2.made && masksMeet m e.2.mask then (s, 2)
        else ({ s.gate m with power := .active, wakeAt := none }, 0)
  | 2 =>
    if s.secState = .faultLocked then (s, 3)
    else if s.spansRemain then (s, 2)
    else ({ s with power := .retention, wakeAt := some b.toNat }, 0)
  | 3 => ({ s.cleared with power := .off, secState := s.secState, gtime := 0, refilled := 0, ports := [], monitors := [] }, 0)
  | _ => (s, 1)

/-! ## Debug grants -/

/-- The length of the signed part of a grant: its level, and the device's IDENT (log entry 21). -/
def grantLength : Nat := 72

/-- The length of an ML-DSA-87 signature (log entry 21). -/
def signatureLength : Nat := 4627

/-- Function 5: a debug grant (17 R402).  A grant that does not verify or names another device is answered with status 1 or 3,
by a free value (log entry 6).  A grant holds until the next reset, so a lower one takes nothing from it. -/
def fwGrant (_ b : Word) (s : State) : State × Nat :=
  match s.bytesPa b.toNat (grantLength + signatureLength) with
  | none => (s, 1)
  | some bs =>
    let level := recField bs 0 8
    let good := Config.mlDsa87Verify Config.grantKey (bs.take grantLength) (bs.drop grantLength) && recField bs 8 64 == s.ident.toNat &&
      decide (1 ≤ level) && decide (level ≤ 2)
    if s.secState = .faultLocked then (s, 3)
    else if good then
      ({ s with grant := some (max level (s.grant.getD 0)), secState := if s.secState = .factoryOpen then .factoryOpen else .granted }, 0)
    else ({ s with fresh := s.fresh + 1 }, if bitAt (Config.freeValue s.fresh) 0 then 1 else 3)

/-! ## Chiplet cores -/

/-- The strand with which a chiplet core starts (17 R399). -/
def chipletStrand (core : Nat) (entry : Word) : Strand :=
  { kind := .chiplet, mode := .supervisor, pc := entry, g := (Vector.replicate 32 0).set 14 (BitVec.ofNat 64 core) }

/-- Function 6: start a chiplet core, with the tables of strand `k`'s core (17 R397, R399). -/
def fwStart (k : Nat) (a b : Word) (s : State) : State × Nat :=
  let n := a.toNat
  let key := (1024 + n) * 4
  if n = 0 ∨ 15 < n ∨ b.toNat % 4 ≠ 0 then (s, 1)
  else if (s.strandAt key).kind ≠ .none then (s, 2)
  else
    let from_ := (s.coreAt (k / 4)).csrs
    let c := { s.coreAt (1024 + n) with csrs := { ptbase := from_.ptbase, cidtag := from_.cidtag }, stvec := 0 }
    ((s.setCore (1024 + n) c).setStrand key (chipletStrand n b), 0)

/-- FW_CREATE_PARTITION (17 R397). -/
def execFwCreatePartition (k : Nat) (s : State) : Out := .next (s.fwCall k 1 fwCreate)
/-- FW_SET_SHARE_WEIGHT (17 R397). -/
def execFwSetShareWeight (k : Nat) (s : State) : Out := .next (s.fwCall k 2 fwWeight)
/-- FW_DESTROY_PARTITION (17 R397). -/
def execFwDestroyPartition (k : Nat) (s : State) : Out := .next (s.fwCall k 3 fwDestroy)
/-- FW_SET_POWER_STATE (17 R401). -/
def execFwSetPowerState (k : Nat) (s : State) : Out := .next (s.fwCall k 4 fwPower)
/-- FW_DEBUG_GRANT (17 R402). -/
def execFwDebugGrant (k : Nat) (s : State) : Out := .next (s.fwCall k 5 fwGrant)
/-- FW_START_CHIPLET_CORE (17 R399). -/
def execFwStartChipletCore (k : Nat) (s : State) : Out := .next (s.fwCall k 6 (fwStart k))

end Sys2Proof.Machine
end

