-- ==== Sys2Proof/Machine/EvHost.lean ====
section
/-!
DEFINITION. Machine/EvHost.lean: what hosts and devices do to the module: seed windows (12 R313), semaphore cells and mailboxes (17
R393 to R395), the barrier and line windows (11 R293, R294), the host memory window (17 R391), link training, the wake from
retention (R401), and the SPDM responder (R400).
-/

namespace Sys2Proof.Machine

/-! ## Ports -/

/-- The state after a port is sent something. -/
def State.sendPort (s : State) (p : Nat) (x : PortMsg) : State :=
  let port := s.portAt p
  s.setPort p { port with sent := port.sent ++ [x] }

/-- A host's request is refused: it completes as Unsupported Request (17 R392). -/
def State.unsupported (s : State) (p : Nat) : State := s.sendPort p .unsupported

/-- The port of a host, by the code that OWNER gives it (17 R394). -/
def hostPort (agent : BitVec 16) : Option Nat := if 0xFFF0 ≤ agent.toNat then some (agent.toNat - 0xFFF0) else none

/-- A host at port `p` reaches the module: the port is trained (17 R391). -/
def State.hostUp (s : State) (p : Nat) : Bool := decide (p < 2) && (s.portAt p).linkUp

/-- A party that OWNER names reaches the module. -/
def State.partyUp (s : State) (agent : BitVec 16) : Bool := (hostPort agent).all s.hostUp

/-- An access from outside: it is held while the module is in retention, which it wakes (17 R401), and performed otherwise. -/
def State.posted (s : State) (w : HostWrite) (f : State → State) : State :=
  if s.power = .off then s
  else if s.power = .retention ∨ s.hostHeld ≠ [] then { s with hostHeld := s.hostHeld ++ [w] }
  else f s

/-! ## Seed windows -/

/-- The window and the scheduling block of a partition count a refused record (12 R313), also one refused for its size (log entry 31). -/
def State.refuseSeed (s : State) (p : Nat) : State :=
  (s.setPart p { s.partAt p with refused := (s.partAt p).refused + 1 }).countRefused p

/-- A write reaches a partition's seed window (12 R313): 64 bytes at a multiple of 64 are a record; a write of another size or
alignment is counted as refused. -/
def State.seedWrite (s : State) (p offset : Nat) (bs : List Byte) : State :=
  if !(s.partAt p).made then s
  else if bs.length ≠ 64 ∨ offset % 64 ≠ 0 ∨ !seedGood bs then s.refuseSeed p
  else match s.enqueueSeed p (seedOf bs (seedPrio bs) []) with
    | none => s.refuseSeed p
    | some s => s.setPart p { s.partAt p with accepted := (s.partAt p).accepted + 1 }

/-! ## Semaphore cells and mailboxes -/

/-- A semaphore cell's word. -/
def State.cellWord (s : State) (c : Nat) : Word := Tab.get 0 s.cellsSem c

/-- The word of a cell that an agent holds (17 R394). -/
def heldWord (agent : BitVec 16) : Word := BitVec.ofNat 64 (2 ^ 63 + agent.toNat)

/-- A load at offset 0 of a cell takes it where it is free (17 R394). -/
def State.semTake (s : State) (agent : BitVec 16) (c : Nat) : State :=
  if bitAt (s.cellWord c) 63 then s else { s with cellsSem := Tab.set s.cellsSem c (heldWord agent) }

/-- A party takes a cell; a host receives the word, and is refused at a cell that does not exist (17 R392 to R394). -/
def State.semLoad (s : State) (agent : BitVec 16) (c : Nat) : State :=
  match hostPort agent with
  | some p => if 64 ≤ c then s.unsupported p else (s.semTake agent c).sendPort p (.data (s.cellWord c))
  | none => if 64 ≤ c then s else s.semTake agent c

/-- SEM_TAKE (17 R394). -/
def execSemTake (agent : BitVec 16) (c : Nat) (s : State) : Out :=
  .next (if s.partyUp agent then s.posted (.take agent c) fun s => s.semLoad agent c else s)

/-- A store to offset 0 of a cell frees it where it is 0 and its owner makes it (17 R394). -/
def State.semStore (s : State) (agent : BitVec 16) (c : Nat) (value : Word) : State :=
  if 64 ≤ c then
    match hostPort agent with
    | some p => s.unsupported p
    | none => s
  else if value = 0 ∧ s.cellWord c = heldWord agent then { s with cellsSem := Tab.set s.cellsSem c 0 }
  else s

/-- SEM_RELEASE (17 R394). -/
def execSemRelease (agent : BitVec 16) (c : Nat) (value : Word) (s : State) : Out :=
  .next (if s.partyUp agent then s.posted (.sem agent c value) fun s => s.semStore agent c value else s)

/-- A store to a mailbox (17 R393, R395). -/
def State.mailStore (s : State) (core : Nat) (sender : BitVec 16) (value : Word) : State :=
  if core < 1040 then s.putMail core sender.toNat (hostPort sender).isSome value
  else match hostPort sender with
    | some p => s.unsupported p
    | none => s

/-- MAILBOX_WRITE (17 R395). -/
def execMailboxWrite (core : Nat) (sender : BitVec 16) (value : Word) (s : State) : Out :=
  .next (if s.partyUp sender then s.posted (.mail core sender value) fun s => s.mailStore core sender value else s)

/-! ## BAR0 -/

/-- The code of a host port as OWNER gives it (17 R394). -/
def hostAgent (p : Nat) : BitVec 16 := BitVec.ofNat 16 (0xFFF0 + p)

/-- A host's read at an offset of BAR0, which maps the S windows from 0x2000_0000 (17 R392): the counts of a seed window, a
semaphore cell, taken at its offset 0, or a mailbox, whose answer is free (log entry 6).  What the window refuses is an
Unsupported Request. -/
def State.barRead (s : State) (p o n : Nat) : State :=
  let r := o - 0x80000
  if !windowAccepts .supervisor .load (0x20000000 + o) n then s.unsupported p
  else if o < 0x80000 then s.sendPort p (.data (s.partAt (o / 4096)).seedCounts)
  else if 0x1000 ≤ r then { s with fresh := s.fresh + 1 }.sendPort p (.data (Config.freeValue s.fresh))
  else if r % 64 = 0 then s.semLoad (hostAgent p) (r / 64)
  else s.sendPort p (.data (s.cellWord (r / 64)))

/-- A host's write at an offset of BAR0 (12 R313, 17 R392 to R395). -/
def State.barWrite (s : State) (p o : Nat) (bs : List Byte) : State :=
  let r := o - 0x80000
  let v := BitVec.ofNat 64 (natOfBytes bs)
  if o < 0x80000 then s.seedWrite (o / 4096) o bs
  else if !windowAccepts .supervisor .store (0x20000000 + o) bs.length then s.unsupported p
  else if r < 0x1000 then s.semStore (hostAgent p) (r / 64) v
  else s.mailStore ((r - 0x1000) / 32) (hostAgent p) v

/-- A host's access to BAR0. -/
def State.barAccess (s : State) (p o : Nat) : HostAccess → State
  | .read n => s.barRead p o n
  | .write bs => s.barWrite p o bs

/-- HOST_SEED_WRITE: an access of a host to BAR0, in whose lower half the seed windows lie (12 R313, 17 R392). -/
def execHostSeedWrite (port offset : Nat) (x : HostAccess) (s : State) : Out :=
  .next (if s.hostUp port then s.posted (.bar port offset x) fun s => s.barAccess port offset x else s)

/-! ## The barrier window and the lines -/

/-- A message of the strand that moves reaches a core's event unit; one that is held or refused there stays in the network (13
R347). -/
def State.windowMsg (s : State) (core : Nat) (body : MsgBody) : State :=
  let sender := s.senderOf s.cur
  let sender := match sender.part with
    | none => { sender with part := if (s.coreAt core).resident then some (s.coreAt core).part else none }
    | some _ => sender
  match s.arriveMsg { sender, home := some core, dest := core, body, serial := s.sent } with
  | (s, none) => { s with sent := s.sent + 1 }
  | (s, some m) => { s with sent := s.sent + 1, net := s.net ++ [m] }

/-- BARRIER_WINDOW_ARRIVE (11 R293). -/
def execBarrierWindowArrive (core bar : Nat) (value : Word) (s : State) : Out :=
  .next (if 1024 ≤ core ∨ 2048 ≤ bar ∨ bitsNat value 15 0 = 0 then s else s.windowMsg core (.arrive bar (bitsNat value 15 0)))

/-- BARRIER_WINDOW_EXPECT (11 R293). -/
def execBarrierWindowExpect (core bar : Nat) (value : Word) (s : State) : Out :=
  .next (if 1024 ≤ core ∨ 2048 ≤ bar then s else s.windowMsg core (.expect bar (bitsNat value 31 0) false none))

/-- EVENT_LINE_INIT: a line's word is replaced (11 R294). -/
def execEventLineInit (line : Nat) (value : Word) (s : State) : Out :=
  .next (if line < 2 ^ 22 then s.setLine line value else s)

/-- A line's word after a signal (11 R294, R296). -/
def signalled (old value : Word) : Word :=
  BitVec.ofNat 64 ((bitsNat old 63 32 + 1) % 2 ^ 32 * 2 ^ 32 + bitsNat value 31 0)

/-- EVENT_LINE_SIGNAL (11 R294). -/
def execEventLineSignal (line : Nat) (value : Word) (s : State) : Out :=
  .next (if line < 2 ^ 21 then s.setLine line (signalled (s.lineWord line) value) else s)

/-! ## The host memory window -/

/-- The lines of some locations, used by a host: their requests of `out` flits and answers of `back` flits cross the network from the
chiplet, and each is used at its rim bank (08 R222, 14 R358, R359). -/
def State.hostLines (s : State) (keys : List Nat) (out back : Nat) : State :=
  ((keys.map (· / 64)).eraseDups).foldl (fun s line =>
    (s.postTraffic (trafficMsg chipletDest (destOfKey (line * 64)) 0 none out back 0 1)).rimUse line (some .ordinary)) s

/-- The locations of the bytes of the window at an offset, decoded with HOME 000 (17 R391). -/
def State.hdmKeys (s : State) (offset n : Nat) : List (Option Nat) :=
  (List.range n).map fun i => locateHbm 0 (s.hdmBase + offset + i)

/-- Bytes written by a host at an offset of its window (17 R391); outside it the write is refused. -/
def State.hdmWrite (s : State) (port offset : Nat) (bs : List Byte) : State :=
  if s.hdmSize < offset + bs.length then s.unsupported port
  else
    let s := s.hostLines (s.hdmKeys offset bs.length).reduceOption 2 1
    bs.zipIdx.foldl (fun s (b, i) => match locateHbm 0 (s.hdmBase + offset + i) with
      | some k => s.writeByte k b
      | none => s) s

/-- The bytes of the window that a host reads; the caches of the module share their lines (10 R275). -/
def State.hdmRead (s : State) (port offset n : Nat) : State :=
  if s.hdmSize < offset + n then s.unsupported port
  else
    let keys := s.hdmKeys offset n
    let t := (keys.reduceOption.map (· / 64)).eraseDups.foldl State.shareLine (s.hostLines keys.reduceOption 1 2)
    t.sendPort port (.bytes (keys.map fun k => (k.map s.byteAt).getD 0) (keys.reduceOption.any s.poisoned.contains))

/-- A host's access to its memory window. -/
def State.hdmAccess (s : State) (port offset : Nat) : HostAccess → State
  | .read n => s.hdmRead port offset n
  | .write bs => s.hdmWrite port offset bs

/-- HOST_HDM_WRITE: an access of a host to its memory window, at a port that runs CXL (10 R275, 17 R391). -/
def execHostHdmWrite (port offset : Nat) (x : HostAccess) (s : State) : Out :=
  .next (if s.hostUp port && (s.portAt port).cxl then s.posted (.hdm port offset x) fun s => s.hdmAccess port offset x else s)

/-! ## Link and wake -/

/-- HOST_LINK_TRAINING: the link goes down, or comes up at a width, a rate and a protocol, by free values (17 R391, log entry 6). -/
def execHostLinkTraining (p : Nat) (s : State) : Out :=
  let x := Config.freeValue s.fresh
  let port := s.portAt p
  .next (if p < 2 ∧ s.power ≠ .off then { s with fresh := s.fresh + 1 }.setPort p
    { port with linkUp := bitAt x 0, cxl := bitAt x 1, width := 2 ^ (bitsNat x 10 8 % 5), rate := bitsNat x 18 16 % 6 + 1 }
  else s)

/-- An access that was held is performed. -/
def State.performHost (s : State) : HostWrite → State
  | .hdm port offset x => s.hdmAccess port offset x
  | .bar port offset x => s.barAccess port offset x
  | .mail core sender value => s.mailStore core sender value
  | .sem agent c value => s.semStore agent c value
  | .take agent c => s.semLoad agent c

/-- POWER_WAKE: the module is active again, and the accesses held are performed in arrival order (17 R401). -/
def State.wakeUp (s : State) : State :=
  if s.power = .off ∨ (s.power = .active ∧ s.hostHeld = []) then s
  else s.hostHeld.foldl State.performHost { s with power := .active, wakeAt := none, hostHeld := [] }

/-- POWER_WAKE (17 R401). -/
def execPowerWake (s : State) : Out := .next s.wakeUp

/-! ## SPDM -/

/-- Response codes of SPDM 1.3 (log entry 23). -/
def spdmVersion : Nat := 0x04
def spdmCapabilities : Nat := 0x61
def spdmAlgorithms : Nat := 0x63
def spdmDigests : Nat := 0x01
def spdmCertificate : Nat := 0x02
def spdmChallengeAuth : Nat := 0x03
def spdmMeasurements : Nat := 0x60
def spdmKeyExchange : Nat := 0x64
def spdmFinish : Nat := 0x65
def spdmEndSession : Nat := 0x6C
def spdmError : Nat := 0x7F

/-- A response of the responder of a port that is trained, where Salhal runs: in the state that the request needs it answers and moves on,
and otherwise reports an error (17 R400).  A request is host traffic, and wakes the module from retention (R401). -/
def State.respond (s : State) (p : Nat) (ok : SpdmState → Bool) (next : SpdmState → SpdmState) (code : Nat)
    (body : List Byte) : State :=
  let port := s.portAt p
  let s := if s.power = .retention ∧ s.hostUp p then { s with power := .active, wakeAt := none } else s
  if s.power = .off ∨ !s.hostUp p ∨ !s.salhal then s
  else if ok port.spdm then (s.setPort p { port with spdm := next port.spdm }).sendPort p (.spdm code body)
  else s.sendPort p (.spdm spdmError [])

/-- The responder has agreed its algorithms. -/
def SpdmState.agreed : SpdmState → Bool
  | .negotiated | .exchanging | .session => true
  | _ => false

/-- A body with its signature (17 R400). -/
def signed (body : List Byte) : List Byte := body ++ Config.mlDsa87Sign body

/-- Measurement block `i`, with its number: 1 to 4 are MEAS0 to MEAS3, and 5 is SECSTAT (17 R400). -/
def State.measBlock (s : State) (i : Nat) : List Byte :=
  bytesOf 1 i ++ if i = 5 then bytesOf 8 s.secstat.toNat else bytesOf 64 (s.meas.toList.getD (i - 1) 0).toNat

/-- The measurement blocks that a request names: a block by its number, and all by 0xFF; 0 asks for their count alone (log entry 23). -/
def measBlocks (n : Nat) : Option (List Nat) :=
  if n = 0 then some [] else if n = 0xFF then some [1, 2, 3, 4, 5] else if n ≤ 5 then some [n] else none

/-- The body of a measurement report: the count of the blocks that the responder has where none is asked for, or the blocks (17
R400). -/
def State.measReport (s : State) (n : Nat) : List Byte :=
  match measBlocks n with
  | some [] => [5]
  | some is => is.flatMap s.measBlock
  | none => []

/-- The device's certificate chain (log entry 7). -/
def certificateChain : List Byte := Config.spdmBytes spdmCertificate

/-- The digest of the certificate chain. -/
def certificateDigest : List Byte := bytesOf 64 (Config.sha3_512 certificateChain).toNat

/-- GET_VERSION (17 R400). -/
def execGetVersion (p : Nat) (s : State) : Out :=
  .next (s.respond p (fun _ => true) (fun _ => .version) spdmVersion [0x13])
/-- GET_CAPABILITIES (17 R400). -/
def execGetCapabilities (p : Nat) (s : State) : Out :=
  .next (s.respond p (· == .version) (fun _ => .capabilities) spdmCapabilities (Config.spdmBytes spdmCapabilities))
/-- NEGOTIATE_ALGORITHMS (17 R400). -/
def execNegotiateAlgorithms (p : Nat) (s : State) : Out :=
  .next (s.respond p (· == .capabilities) (fun _ => .negotiated) spdmAlgorithms (Config.spdmBytes spdmAlgorithms))
/-- GET_DIGESTS (17 R400). -/
def execGetDigests (p : Nat) (s : State) : Out :=
  .next (s.respond p SpdmState.agreed id spdmDigests certificateDigest)
/-- GET_CERTIFICATE: a part of the chain of slot 0 (17 R400). -/
def execGetCertificate (p slot offset length : Nat) (s : State) : Out :=
  .next (s.respond p (fun x => x.agreed && slot == 0) id spdmCertificate ((certificateChain.drop offset).take length))
/-- CHALLENGE (17 R400). -/
def execChallenge (p : Nat) (nonce : BitVec 256) (s : State) : Out :=
  .next (s.respond p SpdmState.agreed id spdmChallengeAuth (signed (certificateDigest ++ bytesOf 32 nonce.toNat ++ s.measReport 0xFF)))
/-- GET_MEASUREMENTS of a block, of all, or of their count (17 R400). -/
def execGetMeasurements (p : Nat) (r : MeasRequest) (s : State) : Out :=
  .next (s.respond p (fun x => x.agreed && (measBlocks r.block.toNat).isSome) id spdmMeasurements
    (signed (bytesOf 32 r.nonce.toNat ++ s.measReport r.block.toNat)))
/-- KEY_EXCHANGE (17 R400). -/
def execKeyExchange (p : Nat) (s : State) : Out :=
  .next (s.respond p (· == .negotiated) (fun _ => .exchanging) spdmKeyExchange (signed (Config.spdmBytes spdmKeyExchange)))
/-- FINISH (17 R400). -/
def execFinish (p : Nat) (s : State) : Out :=
  .next (s.respond p (· == .exchanging) (fun _ => .session) spdmFinish (Config.spdmBytes spdmFinish))
/-- END_SESSION (17 R400). -/
def execEndSession (p : Nat) (s : State) : Out :=
  .next (s.respond p (· == .session) (fun _ => .negotiated) spdmEndSession [])

end Sys2Proof.Machine
end

