-- ==== Sys2Proof/Machine/EvSched.lean ====
section
/-!
DEFINITION. Machine/EvSched.lean: the asynchronous events of a core (13 R330, R357, 06 R194), the debug halt and the tamper event
(17 R396, R402, R403), supply sags (R404), and the wake from retention (R401).  An event that is not enabled changes nothing
(log entry 1).
-/

namespace Sys2Proof.Machine

/-! ## TIMER -/

/-- TIMER is due at a core: its switch tick has come, and NEXTCID.TIMER is 1 (13 R357). -/
def State.timerDue (s : State) (core : Nat) : Bool :=
  let c := s.coreAt core
  s.clocked core && c.switchat != BitVec.allOnes 64 && decide (c.switchat.toNat ≤ s.gtime) && bitAt c.nextcid 63

/-- TIMER (13 R357): its information is the tick that SWITCHAT named. -/
def execTimer (core : Nat) (s : State) : Out :=
  .next (if s.timerDue core then
      let c := s.coreAt core
      s.setCore core { c with switchat := BitVec.allOnes 64,
                              pending := { c.pending with timer := some c.switchat } }
    else s)

/-! ## Taking an event between two instructions -/

/-- A strand stands between two instructions: it waits for the answer of none that has issued (13 R330); a sleep, a wait for a
lease and a slotted store may be left and issued again (06 R195, 11 R300, 14 R367). -/
def Cond.between : Cond → Bool
  | .ready | .stalled | .asleep _ | .lease _ | .slotted => true
  | _ => false

/-- Strand `k` leaves the instruction it stands at unissued: a waiting MLEASE is withdrawn (06 R195), and slotted messages that
wait for injection are given up (14 R367). -/
def State.leaveInstruction (s : State) (k : Nat) : State :=
  let s := if (s.strandAt k).cond = .slotted then (s.stopSlots k).1 else s
  let c := s.coreAt (k / 4)
  let kept := c.leases.filter fun l => l.isHeld || !l.isOf (k % 4) ((s.strandAt k).kind == .supervisor)
  let leases := if kept.length < c.leases.length then promote c.merging (s.cyclesOf (k / 4)) kept else c.leases
  s.setCore (k / 4) { c with leases }

/-- Strand `k` takes an event in supervisor mode, with epc the address of its next instruction (13 R330). -/
def State.takeEvent (s : State) (k : Nat) (e : Exc) : State :=
  let s := s.leaveInstruction k
  let t := s.strandAt k
  s.setStrand k { t.enterSupervisor (s.coreAt (k / 4)).stvec e t.pc with age := 0 }

/-- A halted mill command of a core whose MILL_ROW its strand has not taken, where it may take it: the strand that issued it, in its
slot (06 R194). -/
def State.millRowDue (s : State) (core : Nat) : Option (Nat × MillHalt) :=
  let c := s.coreAt core
  match c.halt with
  | none => none
  | some h =>
    let k := core * 4 + h.slot
    let t := s.strandAt k
    if !h.taken && (h.sup || !c.merging) && t.kind != .none && (t.kind == .supervisor) == h.sup && t.mode != .firmware && t.cond.between
    then some (k, h)
    else none

/-- A strand takes MILL_ROW (06 R194). -/
def State.takeMillRow (s : State) (core k : Nat) (h : MillHalt) : State :=
  let c := s.coreAt core
  let s := s.setCore core { c with halt := some { h with taken := true } }
  s.takeEvent k { code := 0x0B, addr := h.addr, info := h.info }

/-- The mailbox interrupt of a message (17 R395). -/
def Mail.exc (m : Mail) : Exc :=
  { code := if m.fromHost then 0x41 else 0x42, int := true,
    info := BitVec.ofNat 64 (bitsNat m.value 31 0 + m.sender % 2 ^ 16 * 2 ^ 32 + if m.lost then 2 ^ 48 else 0) }

/-- The pending event of the lowest code, and what is pending once it is taken (13 R330, R351, R352, R357, 17 R395). -/
def Pending.first (p : Pending) : Option (Exc × Pending) :=
  match p.orphan, p.divFull, p.timer, p.mail with
  | some o, _, _, _ =>
    some ({ code := 0x10, addr := o.addr, info := o.info + BitVec.ofNat 64 (o.count % 2 ^ 16 * 2 ^ 48), int := true },
      { p with orphan := none })
  | none, d :: ds, _, _ => some ({ code := 0x12, addr := d.1, info := d.2, int := true }, { p with divFull := ds })
  | none, [], some t, _ => some ({ code := 0x40, info := t, int := true }, { p with timer := none })
  | none, [], none, some m => some (m.exc, { p with mail := none })
  | none, [], none, none => none

/-- A strand is open to events (13 R330). -/
def Strand.isOpen (t : Strand) : Bool :=
  match t.mode with
  | .user => true
  | .supervisor => bitAt t.sstatus sstatusIE
  | .firmware => false

/-- The occupied slots of a core; during a merge, that of its supervisor strand alone (13 R355). -/
def State.occupied (s : State) (core : Nat) : List Nat :=
  ((List.range 4).map (core * 4 + ·)).filter fun k =>
    (s.strandAt k).kind != .none && (!(s.coreAt core).merging || (s.strandAt k).kind == .supervisor)

/-- The core takes its first pending event: the lowest open slot takes it, once it stands between two instructions; where no
slot is occupied a supervisor strand does (13 R330).  A chiplet core that has not been started takes none (17 R399). -/
def State.takePending (s : State) (core : Nat) : State :=
  let c := s.coreAt core
  match c.pending.first with
  | none => s
  | some (e, rest) =>
    let s1 := s.setCore core { c with pending := rest }
    match s.occupied core with
    | [] => if isChiplet core || c.merging then s else s1.startSupervisor core e
    | ks =>
      match ks.find? fun k => (s.strandAt k).isOpen with
      | none => s
      | some k => if (s.strandAt k).cond.between then s1.takeEvent k e else s

/-- ASYNC_EVENT_TAKE (13 R330), with MILL_ROW, whose code is lowest (06 R194). -/
def execAsyncEventTake (core : Nat) (s : State) : Out :=
  .next (if s.clocked core then
      match s.millRowDue core with
      | some (k, h) => s.takeMillRow core k h
      | none => s.takePending core
    else s)

/-! ## Debug and tamper -/

/-- A debug halt may take strand `k`: the debug level is intrusive and reaches it, it stands between two instructions, and its
core is not at a switch tick (17 R402, R403). -/
def State.mayHalt (s : State) (k : Nat) : Bool :=
  let t := s.strandAt k
  let c := s.coreAt (k / 4)
  s.intrusive (k / 4) && t.kind != .none && t.cond.between &&
    !(c.switchat != BitVec.allOnes 64 && decide (c.switchat.toNat ≤ s.gtime) && !bitAt c.nextcid 63)

/-- A debug halt of strand `k` (17 R403). -/
def State.debugHalt (s : State) (k : Nat) : State :=
  if s.mayHalt k then
      let s := s.leaveInstruction k
      let t := s.strandAt k
      s.setStrand k { t.debugHalt (s.coreAt (k / 4)).ftvec t.pc with age := 0 }
    else s

/-- A change that a debugger makes to a halted strand's registers. -/
def Strand.debugWrite (t : Strand) : DebugAct → Strand
  | .writeG _ r x => t.writeG r x
  | .writeF _ r x => t.writeF r x
  | .writeV _ r x => t.writeV r x
  | .writeM _ r x => t.writeM r x
  | .writePc _ x => { t with fepc := x }
  | _ => t

/-- What a debugger does at the intrusive level, in the active state (17 R402): it halts a strand, writes registers of one that is halted,
whose pc its firmware entry holds, or writes a byte of local HBM at a physical address (log entry 43). -/
def State.debug (s : State) (x : DebugAct) : State :=
  match x with
  | .halt k => s.debugHalt k
  | .writeG k .. | .writeF k .. | .writeV k .. | .writeM k .. | .writePc k _ =>
    let t := s.strandAt k
    if s.intrusive (k / 4) && t.cond == .halted then s.setStrand k (t.debugWrite x) else s
  | .writeMem pa b => match locateHbm 0 pa with
    | some key => if s.intrusive 1024 then s.writeByte key b else s
    | none => s

/-- DEBUG_HALT: a debugger acts (17 R402, R403). -/
def execDebugHalt (x : DebugAct) (s : State) : Out := .next (s.debug x)

/-- The compute dies held in reset (17 R402): their strands, cores and clusters are gone, with their caches, and so is what they had sent. -/
def State.holdDies (s : State) : State :=
  let s := s.loseCaches (fun c => !isChiplet c) (fun _ => true)
  let dies := fun (k : Nat) => decide (2 ^ 48 ≤ k ∧ k < 2 ^ 50)
  { s with rim := [], rimUses := 0, strands := s.strands.filter fun e => isChiplet (e.1 / 4)
           cores := s.cores.filter fun e => isChiplet e.1
           clusters := []
           mem := s.mem.filter fun c => !dies c.1
           poisoned := s.poisoned.filter fun p => !dies p
           net := s.net.filter fun m => isChiplet m.sender.core && m.home.isNone
           traffic := s.traffic.filter fun m => isChiplet m.source
           acks := s.acks.filter fun m => isChiplet m.core
           tlb := s.tlb.filter fun e => isChiplet e.core
           gangs := [] }

/-- TAMPER: the security state is locked, strand `k` enters firmware mode, and the compute dies are held in reset, which the active state
alone allows; the code of the entry is a free value (17 R396, R402, log entry 6). -/
def execTamper (k : Nat) (s : State) : Out :=
  let t := s.strandAt k
  let code := (Config.freeValue s.fresh).toNat
  let s1 := if t.kind = .none then s
    else s.setStrand k (t.enterFirmware (s.coreAt (k / 4)).ftvec code t.pc)
  let power := if s.power = .off then .off else .active
  .next { s1.holdDies with secState := .faultLocked, dbg := 0, grant := none, fresh := s.fresh + 1, power, wakeAt := none }

/-! ## Supply sags -/

/-- SUPPLY_SAG: the clock of a cluster is stretched from now on (17 R404). -/
def execSupplySag (cluster : Nat) (s : State) : Out :=
  .next (s.setCluster cluster { s.clusterAt cluster with sag := true })

/-- SUPPLY_SAG_END (17 R404): a cycle that has gone on over a tick ends, stretched. -/
def execSupplySagEnd (cluster : Nat) (s : State) : Out :=
  let c := s.clusterAt cluster
  .next (s.setCluster cluster { c with sag := false, late := false, stretch := c.stretch + if c.late then 1 else 0 })

/-- A tick of a cluster's clock (17 R404, log entry 18): while a sag lasts, the schedule says whether the present cycle goes on
over this tick, which it does for one tick at most, or ends here, stretched.  The clock of a gated cluster stands (R401). -/
def Cluster.tick (c : Cluster) (longer : Bool) : Cluster :=
  if c.gated then { c with behind := c.behind + 1 }
  else if !c.sag then c
  else if longer && !c.late then { c with behind := c.behind + 1, late := true }
  else { c with stretch := c.stretch + 1, late := false }

end Sys2Proof.Machine
end

