-- ==== Sys2Proof/Machine/Immediate.lean ====
section
/-!
DEFINITION. Machine/Immediate.lean: the immediate forms (04 R99 to R101) and LADDR (07 R202).
-/

namespace Sys2Proof.Machine

/-- ADDI (04 R99). -/
def execAddi (d a : Reg) (i : BitVec 16) (s : State) : Out := alu1 (· + sext16 i) d a s
/-- ANDI (04 R99). -/
def execAndi (d a : Reg) (i : BitVec 16) (s : State) : Out := alu1 (· &&& i.setWidth 64) d a s
/-- ORI (04 R99). -/
def execOri (d a : Reg) (i : BitVec 16) (s : State) : Out := alu1 (· ||| i.setWidth 64) d a s
/-- XORI (04 R99). -/
def execXori (d a : Reg) (i : BitVec 16) (s : State) : Out := alu1 (· ^^^ i.setWidth 64) d a s
/-- SLTI (04 R99). -/
def execSlti (d a : Reg) (i : BitVec 16) (s : State) : Out := alu1 (fun x => boolWord (x.slt (sext16 i))) d a s
/-- SHLI (04 R100). -/
def execShli (d a : Reg) (n : BitVec 6) (s : State) : Out := alu1 (· <<< n.toNat) d a s
/-- SHRI (04 R100). -/
def execShri (d a : Reg) (n : BitVec 6) (s : State) : Out := alu1 (· >>> n.toNat) d a s
/-- SARI (04 R100). -/
def execSari (d a : Reg) (n : BitVec 6) (s : State) : Out := alu1 (·.sshiftRight n.toNat) d a s

/-- LDHI (04 R101). -/
def execLdhi (d : Reg) (i : BitVec 16) (s : State) : Out :=
  issue [] [d] (complete fun t => t.writeG d (sext16 i <<< 16)) s

/-- ADPC (04 R101). -/
def execAdpc (d : Reg) (i : BitVec 16) (s : State) : Out :=
  issue [] [d] (complete fun t => t.writeG d (t.pc + (sext16 i <<< 16))) s

/-- The L-space address of an offset in a core's carve (07 R202). -/
def laddrWord (die row col off : Nat) : Word :=
  0xFFFFFFFFC0000000 ||| BitVec.ofNat 64 (die * 2 ^ 28 + row * 2 ^ 24 + col * 2 ^ 20 + off % 2 ^ 20)

/-- LADDR (07 R202). -/
def execLaddr (d a : Reg) (die : BitVec 2) (row col : BitVec 4) (s : State) : Out :=
  alu1 (fun x => laddrWord die.toNat row.toNat col.toNat x.toNat) d a s

/-- LOCAL_RANGE at an LADDR.near: ADDR is g[a] and INFO[15:0] the immediate (07 R202). -/
def laddrExc (addr : Word) (dy dx : BitVec 4) : Exc :=
  { code := 0x07, addr := addr, info := BitVec.ofNat 64 (0x8000 + dy.toNat * 16 + dx.toNat) }

/-- LADDR.near (07 R202). -/
def execLaddrNear (d a : Reg) (dy dx : BitVec 4) (s : State) : Out :=
  issue [a] [d] (fun s =>
    let x := s.me.readG a
    let c := s.myCoreNo
    let row : Int := (c / 16 % 16 : Nat) + dy.toInt
    let col : Int := (c % 16 : Nat) + dx.toInt
    if isChiplet c || decide (row < 0) || decide (15 < row) || decide (col < 0) || decide (15 < col) then
      raise (laddrExc x dy dx) s
    else complete (fun t => t.writeG d (laddrWord (c / 256) row.toNat col.toNat x.toNat)) s) s

end Sys2Proof.Machine
end

