-- ==== Sys2Proof/Machine/ScalarMem.lean ====
section
/-!
DEFINITION. Machine/ScalarMem.lean: scalar loads and stores (04 R105 to R107).
-/

namespace Sys2Proof.Machine

/-- The effective address of a scalar access (04 R105). -/
def Strand.ea (t : Strand) (a : Reg) (i : BitVec 16) : Word := t.readG a + sext16 i

/-- A load into g[d]: the value is on its way under a pending mark; a load from another core's carve travels as a message
(04 R92, R93, R105). -/
def loadG (n : Nat) (signed : Bool) (d a : Reg) (i : BitVec 16) : State → Out :=
  issue [a] [d] (runM do
    let s ← get
    let ea := s.me.ea a i
    let p ← M.check s.myAgent .load ea n false 0
    let far := match p with
      | .carve c _ => c != s.myCoreNo
      | _ => false
    if far then
      let c := localCore ea
      M.send (some c) c (.load (scratchKey c (localOff ea)) n signed d false) false
      M.modifyMe fun t => t.setMark d (.waiting .load)
    else
      let (x, bad) ← M.read p n
      let v : Word := if signed then sextNat (8 * n) x else BitVec.ofNat 64 x
      M.modifyMe fun t => t.setMark d (.landing .load v (if bad then some ea else none))
    M.done)

/-- A load into f[d], which retires when its data has returned (04 R93). -/
def loadF (n : Nat) (d a : Reg) (i : BitVec 16) : State → Out :=
  issue [a] [] (runM do
    let s ← get
    let ea := s.me.ea a i
    let p ← M.check s.myAgent .load ea n false 0
    let far := match p with
      | .carve c _ => c != s.myCoreNo
      | _ => false
    if far then
      let c := localCore ea
      M.send (some c) c (.load (scratchKey c (localOff ea)) n false d true) false
      M.modifyMe fun t => { t with cond := .floatLoad d }
    else
      let (x, bad) ← M.read p n
      if bad then M.trap { code := 0x15, addr := ea }
      M.modifyMe fun t => t.writeF d (BitVec.ofNat 64 (if n = 4 then x + (2 ^ 32 - 1) * 2 ^ 32 else x))
      M.done)

/-- A store of the low `n` bytes of a value. -/
def storeValue (n : Nat) (a : Reg) (i : BitVec 16) (value : Strand → Word) : State → Out :=
  runM do
    let s ← get
    let ea := s.me.ea a i
    let p ← M.check s.myAgent .store ea n false 0
    M.store ea p n ((value s.me).toNat % 2 ^ (8 * n))

/-- A store from g[d] (04 R105). -/
def storeG (n : Nat) (d a : Reg) (i : BitVec 16) : State → Out :=
  issue [a, d] [] (storeValue n a i fun t => t.readG d)

/-- A store from f[d] (04 R105). -/
def storeF (n : Nat) (d a : Reg) (i : BitVec 16) : State → Out :=
  issue [a] [] (storeValue n a i fun t => t.readF d)

/-- LB (04 R105). -/
def execLb (d a : Reg) (i : BitVec 16) (s : State) : Out := loadG 1 true d a i s
/-- LH (04 R105). -/
def execLh (d a : Reg) (i : BitVec 16) (s : State) : Out := loadG 2 true d a i s
/-- LW (04 R105). -/
def execLw (d a : Reg) (i : BitVec 16) (s : State) : Out := loadG 4 true d a i s
/-- LD (04 R105). -/
def execLd (d a : Reg) (i : BitVec 16) (s : State) : Out := loadG 8 false d a i s
/-- LBZ (04 R105). -/
def execLbz (d a : Reg) (i : BitVec 16) (s : State) : Out := loadG 1 false d a i s
/-- LHZ (04 R105). -/
def execLhz (d a : Reg) (i : BitVec 16) (s : State) : Out := loadG 2 false d a i s
/-- LWZ (04 R105). -/
def execLwz (d a : Reg) (i : BitVec 16) (s : State) : Out := loadG 4 false d a i s
/-- SB (04 R105). -/
def execSb (d a : Reg) (i : BitVec 16) (s : State) : Out := storeG 1 d a i s
/-- SH (04 R105). -/
def execSh (d a : Reg) (i : BitVec 16) (s : State) : Out := storeG 2 d a i s
/-- SW (04 R105). -/
def execSw (d a : Reg) (i : BitVec 16) (s : State) : Out := storeG 4 d a i s
/-- SD (04 R105). -/
def execSd (d a : Reg) (i : BitVec 16) (s : State) : Out := storeG 8 d a i s
/-- FLW (04 R105). -/
def execFlw (d a : Reg) (i : BitVec 16) (s : State) : Out := loadF 4 d a i s
/-- FLD (04 R105). -/
def execFld (d a : Reg) (i : BitVec 16) (s : State) : Out := loadF 8 d a i s
/-- FSW (04 R105). -/
def execFsw (d a : Reg) (i : BitVec 16) (s : State) : Out := storeF 4 d a i s
/-- FSD (04 R105). -/
def execFsd (d a : Reg) (i : BitVec 16) (s : State) : Out := storeF 8 d a i s

end Sys2Proof.Machine
end

