-- ==== Sys2Proof/Machine/Dispatch.lean ====
section
/-!
DEFINITION. Machine/Dispatch.lean: the meaning of each instruction and event.
-/

namespace Sys2Proof.Machine

/-- The outcome of one instruction or event. -/
def exec (i : Instr) (s : State) : Host.Outcome State Fault Refusal :=
  match i with
  | .add d a b => Sys2Proof.Machine.execAdd d a b s
  | .sub d a b => Sys2Proof.Machine.execSub d a b s
  | .and d a b => Sys2Proof.Machine.execAnd d a b s
  | .or d a b => Sys2Proof.Machine.execOr d a b s
  | .xor d a b => Sys2Proof.Machine.execXor d a b s
  | .shl d a b => Sys2Proof.Machine.execShl d a b s
  | .shr d a b => Sys2Proof.Machine.execShr d a b s
  | .sar d a b => Sys2Proof.Machine.execSar d a b s
  | .mul d a b => Sys2Proof.Machine.execMul d a b s
  | .mulh d a b => Sys2Proof.Machine.execMulh d a b s
  | .mulhz d a b => Sys2Proof.Machine.execMulhz d a b s
  | .div d a b => Sys2Proof.Machine.execDiv d a b s
  | .divz d a b => Sys2Proof.Machine.execDivz d a b s
  | .rem d a b => Sys2Proof.Machine.execRem d a b s
  | .remz d a b => Sys2Proof.Machine.execRemz d a b s
  | .min d a b => Sys2Proof.Machine.execMin d a b s
  | .max d a b => Sys2Proof.Machine.execMax d a b s
  | .slt d a b => Sys2Proof.Machine.execSlt d a b s
  | .sltz d a b => Sys2Proof.Machine.execSltz d a b s
  | .clz d a => Sys2Proof.Machine.execClz d a s
  | .ctz d a => Sys2Proof.Machine.execCtz d a s
  | .popc d a => Sys2Proof.Machine.execPopc d a s
  | .sext d a n => Sys2Proof.Machine.execSext d a n s
  | .zext d a n => Sys2Proof.Machine.execZext d a n s
  | .csel d a b => Sys2Proof.Machine.execCsel d a b s
  | .bfx d a b => Sys2Proof.Machine.execBfx d a b s
  | .bfi d a b => Sys2Proof.Machine.execBfi d a b s
  | .lea d a b s1 => Sys2Proof.Machine.execLea d a b s1 s
  | .addw d a b => Sys2Proof.Machine.execAddw d a b s
  | .addi d a i1 => Sys2Proof.Machine.execAddi d a i1 s
  | .andi d a i1 => Sys2Proof.Machine.execAndi d a i1 s
  | .ori d a i1 => Sys2Proof.Machine.execOri d a i1 s
  | .xori d a i1 => Sys2Proof.Machine.execXori d a i1 s
  | .slti d a i1 => Sys2Proof.Machine.execSlti d a i1 s
  | .shli d a s1 => Sys2Proof.Machine.execShli d a s1 s
  | .shri d a s1 => Sys2Proof.Machine.execShri d a s1 s
  | .sari d a s1 => Sys2Proof.Machine.execSari d a s1 s
  | .ldhi d i1 => Sys2Proof.Machine.execLdhi d i1 s
  | .adpc d i1 => Sys2Proof.Machine.execAdpc d i1 s
  | .laddr d a die row col => Sys2Proof.Machine.execLaddr d a die row col s
  | .laddrNear d a dy dx => Sys2Proof.Machine.execLaddrNear d a dy dx s
  | .bmany m o => Sys2Proof.Machine.execBmany m o s
  | .bmall m o => Sys2Proof.Machine.execBmall m o s
  | .bmnone m o => Sys2Proof.Machine.execBmnone m o s
  | .beq a b o => Sys2Proof.Machine.execBeq a b o s
  | .bne a b o => Sys2Proof.Machine.execBne a b o s
  | .blt a b o => Sys2Proof.Machine.execBlt a b o s
  | .bge a b o => Sys2Proof.Machine.execBge a b o s
  | .blo a b o => Sys2Proof.Machine.execBlo a b o s
  | .bhs a b o => Sys2Proof.Machine.execBhs a b o s
  | .jal d o => Sys2Proof.Machine.execJal d o s
  | .jalr d a i1 => Sys2Proof.Machine.execJalr d a i1 s
  | .lb d a i1 => Sys2Proof.Machine.execLb d a i1 s
  | .lh d a i1 => Sys2Proof.Machine.execLh d a i1 s
  | .lw d a i1 => Sys2Proof.Machine.execLw d a i1 s
  | .ld d a i1 => Sys2Proof.Machine.execLd d a i1 s
  | .lbz d a i1 => Sys2Proof.Machine.execLbz d a i1 s
  | .lhz d a i1 => Sys2Proof.Machine.execLhz d a i1 s
  | .lwz d a i1 => Sys2Proof.Machine.execLwz d a i1 s
  | .sb d a i1 => Sys2Proof.Machine.execSb d a i1 s
  | .sh d a i1 => Sys2Proof.Machine.execSh d a i1 s
  | .sw d a i1 => Sys2Proof.Machine.execSw d a i1 s
  | .sd d a i1 => Sys2Proof.Machine.execSd d a i1 s
  | .flw d a i1 => Sys2Proof.Machine.execFlw d a i1 s
  | .fld d a i1 => Sys2Proof.Machine.execFld d a i1 s
  | .fsw d a i1 => Sys2Proof.Machine.execFsw d a i1 s
  | .fsd d a i1 => Sys2Proof.Machine.execFsd d a i1 s
  | .fadd d a b r p => Sys2Proof.Machine.execFadd d a b r p s
  | .fsub d a b r p => Sys2Proof.Machine.execFsub d a b r p s
  | .fmul d a b r p => Sys2Proof.Machine.execFmul d a b r p s
  | .fdiv d a b r p => Sys2Proof.Machine.execFdiv d a b r p s
  | .fsqrt d a r p => Sys2Proof.Machine.execFsqrt d a r p s
  | .fma d a b r p => Sys2Proof.Machine.execFma d a b r p s
  | .fmin d a b p => Sys2Proof.Machine.execFmin d a b p s
  | .fmax d a b p => Sys2Proof.Machine.execFmax d a b p s
  | .feq d a b p => Sys2Proof.Machine.execFeq d a b p s
  | .flt d a b p => Sys2Proof.Machine.execFlt d a b p s
  | .fle d a b p => Sys2Proof.Machine.execFle d a b p s
  | .fsgn d a b s1 p => Sys2Proof.Machine.execFsgn d a b s1 p s
  | .fclass d a p => Sys2Proof.Machine.execFclass d a p s
  | .fcvt d a dst src r => Sys2Proof.Machine.execFcvt d a dst src r s
  | .fcvti d a wide z r p => Sys2Proof.Machine.execFcvti d a wide z r p s
  | .fcvtf d a wide z r p => Sys2Proof.Machine.execFcvtf d a wide z r p s
  | .fmvgf d a p => Sys2Proof.Machine.execFmvgf d a p s
  | .fmvfg d a p => Sys2Proof.Machine.execFmvfg d a p s
  | .vadd d a b k e => Sys2Proof.Machine.execVadd d a b k e s
  | .vsub d a b k e => Sys2Proof.Machine.execVsub d a b k e s
  | .vmul d a b k e => Sys2Proof.Machine.execVmul d a b k e s
  | .vmulh d a b k e => Sys2Proof.Machine.execVmulh d a b k e s
  | .vmulhz d a b k e => Sys2Proof.Machine.execVmulhz d a b k e s
  | .vmin d a b k e => Sys2Proof.Machine.execVmin d a b k e s
  | .vmax d a b k e => Sys2Proof.Machine.execVmax d a b k e s
  | .vminz d a b k e => Sys2Proof.Machine.execVminz d a b k e s
  | .vmaxz d a b k e => Sys2Proof.Machine.execVmaxz d a b k e s
  | .vand d a b k e => Sys2Proof.Machine.execVand d a b k e s
  | .vor d a b k e => Sys2Proof.Machine.execVor d a b k e s
  | .vxor d a b k e => Sys2Proof.Machine.execVxor d a b k e s
  | .vshl d a b k e => Sys2Proof.Machine.execVshl d a b k e s
  | .vshr d a b k e => Sys2Proof.Machine.execVshr d a b k e s
  | .vsar d a b k e => Sys2Proof.Machine.execVsar d a b k e s
  | .vsadd d a b k e => Sys2Proof.Machine.execVsadd d a b k e s
  | .vssub d a b k e => Sys2Proof.Machine.execVssub d a b k e s
  | .vmacc d a b k e => Sys2Proof.Machine.execVmacc d a b k e s
  | .vdot4 d a b k => Sys2Proof.Machine.execVdot4 d a b k s
  | .vnarrow d a m k e => Sys2Proof.Machine.execVnarrow d a m k e s
  | .vwiden d a x k e => Sys2Proof.Machine.execVwiden d a x k e s
  | .vaddScalar d a b k e => Sys2Proof.Machine.execVaddScalar d a b k e s
  | .vsubScalar d a b k e => Sys2Proof.Machine.execVsubScalar d a b k e s
  | .vmulScalar d a b k e => Sys2Proof.Machine.execVmulScalar d a b k e s
  | .vmulhScalar d a b k e => Sys2Proof.Machine.execVmulhScalar d a b k e s
  | .vmulhzScalar d a b k e => Sys2Proof.Machine.execVmulhzScalar d a b k e s
  | .vminScalar d a b k e => Sys2Proof.Machine.execVminScalar d a b k e s
  | .vmaxScalar d a b k e => Sys2Proof.Machine.execVmaxScalar d a b k e s
  | .vminzScalar d a b k e => Sys2Proof.Machine.execVminzScalar d a b k e s
  | .vmaxzScalar d a b k e => Sys2Proof.Machine.execVmaxzScalar d a b k e s
  | .vandScalar d a b k e => Sys2Proof.Machine.execVandScalar d a b k e s
  | .vorScalar d a b k e => Sys2Proof.Machine.execVorScalar d a b k e s
  | .vxorScalar d a b k e => Sys2Proof.Machine.execVxorScalar d a b k e s
  | .vshlScalar d a b k e => Sys2Proof.Machine.execVshlScalar d a b k e s
  | .vshrScalar d a b k e => Sys2Proof.Machine.execVshrScalar d a b k e s
  | .vsarScalar d a b k e => Sys2Proof.Machine.execVsarScalar d a b k e s
  | .vsaddScalar d a b k e => Sys2Proof.Machine.execVsaddScalar d a b k e s
  | .vssubScalar d a b k e => Sys2Proof.Machine.execVssubScalar d a b k e s
  | .vmaccScalar d a b k e => Sys2Proof.Machine.execVmaccScalar d a b k e s
  | .vdot4Scalar d a b k => Sys2Proof.Machine.execVdot4Scalar d a b k s
  | .vfadd d a b k e => Sys2Proof.Machine.execVfadd d a b k e s
  | .vfsub d a b k e => Sys2Proof.Machine.execVfsub d a b k e s
  | .vfmul d a b k e => Sys2Proof.Machine.execVfmul d a b k e s
  | .vfdiv d a b k e => Sys2Proof.Machine.execVfdiv d a b k e s
  | .vfsqrt d a k e => Sys2Proof.Machine.execVfsqrt d a k e s
  | .vfma d a b k e => Sys2Proof.Machine.execVfma d a b k e s
  | .vfms d a b k e => Sys2Proof.Machine.execVfms d a b k e s
  | .vfnma d a b k e => Sys2Proof.Machine.execVfnma d a b k e s
  | .vfmin d a b k e => Sys2Proof.Machine.execVfmin d a b k e s
  | .vfmax d a b k e => Sys2Proof.Machine.execVfmax d a b k e s
  | .vfrcpe d a k e => Sys2Proof.Machine.execVfrcpe d a k e s
  | .vfrsqe d a k e => Sys2Proof.Machine.execVfrsqe d a k e s
  | .vfcvt d a r src k e => Sys2Proof.Machine.execVfcvt d a r src k e s
  | .vfcvti d a r z w k e => Sys2Proof.Machine.execVfcvti d a r z w k e s
  | .vfcvtf d a r z w k e => Sys2Proof.Machine.execVfcvtf d a r z w k e s
  | .vfscale d a b k e => Sys2Proof.Machine.execVfscale d a b k e s
  | .vfmxq d a r n k e => Sys2Proof.Machine.execVfmxq d a r n k e s
  | .vfsgn d a b k e => Sys2Proof.Machine.execVfsgn d a b k e s
  | .vfaddScalar d a b k e => Sys2Proof.Machine.execVfaddScalar d a b k e s
  | .vfsubScalar d a b k e => Sys2Proof.Machine.execVfsubScalar d a b k e s
  | .vfmulScalar d a b k e => Sys2Proof.Machine.execVfmulScalar d a b k e s
  | .vfdivScalar d a b k e => Sys2Proof.Machine.execVfdivScalar d a b k e s
  | .vfmaScalar d a b k e => Sys2Proof.Machine.execVfmaScalar d a b k e s
  | .vfmsScalar d a b k e => Sys2Proof.Machine.execVfmsScalar d a b k e s
  | .vfnmaScalar d a b k e => Sys2Proof.Machine.execVfnmaScalar d a b k e s
  | .vfminScalar d a b k e => Sys2Proof.Machine.execVfminScalar d a b k e s
  | .vfmaxScalar d a b k e => Sys2Proof.Machine.execVfmaxScalar d a b k e s
  | .vfscaleScalar d a b k e => Sys2Proof.Machine.execVfscaleScalar d a b k e s
  | .vfsgnScalar d a b k e => Sys2Proof.Machine.execVfsgnScalar d a b k e s
  | .vcmpeq d a b k e => Sys2Proof.Machine.execVcmpeq d a b k e s
  | .vcmpne d a b k e => Sys2Proof.Machine.execVcmpne d a b k e s
  | .vcmplt d a b k e => Sys2Proof.Machine.execVcmplt d a b k e s
  | .vcmple d a b k e => Sys2Proof.Machine.execVcmple d a b k e s
  | .vcmplo d a b k e => Sys2Proof.Machine.execVcmplo d a b k e s
  | .vcmpls d a b k e => Sys2Proof.Machine.execVcmpls d a b k e s
  | .vfcmpeq d a b k e => Sys2Proof.Machine.execVfcmpeq d a b k e s
  | .vfcmplt d a b k e => Sys2Proof.Machine.execVfcmplt d a b k e s
  | .vfcmple d a b k e => Sys2Proof.Machine.execVfcmple d a b k e s
  | .mand d a b k e => Sys2Proof.Machine.execMand d a b k e s
  | .mor d a b k e => Sys2Proof.Machine.execMor d a b k e s
  | .mxor d a b k e => Sys2Proof.Machine.execMxor d a b k e s
  | .mandn d a b k e => Sys2Proof.Machine.execMandn d a b k e s
  | .mpopc d a k e => Sys2Proof.Machine.execMpopc d a k e s
  | .mfirst d a k e => Sys2Proof.Machine.execMfirst d a k e s
  | .mtofirst d a k e => Sys2Proof.Machine.execMtofirst d a k e s
  | .mbefore d a k e => Sys2Proof.Machine.execMbefore d a k e s
  | .mfromg d a b => Sys2Proof.Machine.execMfromg d a b s
  | .mtog d a b => Sys2Proof.Machine.execMtog d a b s
  | .vslideup d a b k e => Sys2Proof.Machine.execVslideup d a b k e s
  | .vslidedn d a b k e => Sys2Proof.Machine.execVslidedn d a b k e s
  | .vperm d a b k e => Sys2Proof.Machine.execVperm d a b k e s
  | .vcompress d a k e => Sys2Proof.Machine.execVcompress d a k e s
  | .vexpand d a k e => Sys2Proof.Machine.execVexpand d a k e s
  | .vmerge d a b k e => Sys2Proof.Machine.execVmerge d a b k e s
  | .vsplat d b k e => Sys2Proof.Machine.execVsplat d b k e s
  | .vextr d a b e => Sys2Proof.Machine.execVextr d a b e s
  | .vzip d a b k e => Sys2Proof.Machine.execVzip d a b k e s
  | .vunzip d a b k e => Sys2Proof.Machine.execVunzip d a b k e s
  | .viota d a k e => Sys2Proof.Machine.execViota d a k e s
  | .vbfly d a b k e => Sys2Proof.Machine.execVbfly d a b k e s
  | .vredsum d a b k e => Sys2Proof.Machine.execVredsum d a b k e s
  | .vredmax d a b k e => Sys2Proof.Machine.execVredmax d a b k e s
  | .vredmin d a b k e => Sys2Proof.Machine.execVredmin d a b k e s
  | .vfredsum d a b k e => Sys2Proof.Machine.execVfredsum d a b k e s
  | .vfredmax d a b k e => Sys2Proof.Machine.execVfredmax d a b k e s
  | .vscan d a b k e => Sys2Proof.Machine.execVscan d a b k e s
  | .vhash d a b k e => Sys2Proof.Machine.execVhash d a b k e s
  | .vpart d a b k e => Sys2Proof.Machine.execVpart d a b k e s
  | .vconflict d a k e => Sys2Proof.Machine.execVconflict d a k e s
  | .vmatchb d a b k => Sys2Proof.Machine.execVmatchb d a b k s
  | .vstrld d a k => Sys2Proof.Machine.execVstrld d a k s
  | .vstrcmp d a b k => Sys2Proof.Machine.execVstrcmp d a b k s
  | .vstrhash d a k => Sys2Proof.Machine.execVstrhash d a k s
  | .vrand d k e => Sys2Proof.Machine.execVrand d k e s
  | .setvl d a e => Sys2Proof.Machine.execSetvl d a e s
  | .setvli d u e => Sys2Proof.Machine.execSetvli d u e s
  | .vld d a k e => Sys2Proof.Machine.execVld d a k e s
  | .vlds d a s1 k e => Sys2Proof.Machine.execVlds d a s1 k e s
  | .vldx d a x k e => Sys2Proof.Machine.execVldx d a x k e s
  | .vldseg d a f k e => Sys2Proof.Machine.execVldseg d a f k e s
  | .vldff d a k e => Sys2Proof.Machine.execVldff d a k e s
  | .vst d a k e => Sys2Proof.Machine.execVst d a k e s
  | .vsts d a s1 k e => Sys2Proof.Machine.execVsts d a s1 k e s
  | .vstx d a x k e => Sys2Proof.Machine.execVstx d a x k e s
  | .vstseg d a f k e => Sys2Proof.Machine.execVstseg d a f k e s
  | .vpst d a k e => Sys2Proof.Machine.execVpst d a k e s
  | .tzero d => Sys2Proof.Machine.execTzero d s
  | .tld d a b n => Sys2Proof.Machine.execTld d a b n s
  | .tst d a b n => Sys2Proof.Machine.execTst d a b n s
  | .tmovvt d a b => Sys2Proof.Machine.execTmovvt d a b s
  | .tmovtv d a b => Sys2Proof.Machine.execTmovtv d a b s
  | .topa d a b z => Sys2Proof.Machine.execTopa d a b z s
  | .tsave r => Sys2Proof.Machine.execTsave r s
  | .trestore => Sys2Proof.Machine.execTrestore s
  | .mlease d a b w => Sys2Proof.Machine.execMlease d a b w s
  | .mrelease => Sys2Proof.Machine.execMrelease s
  | .mfmt a => Sys2Proof.Machine.execMfmt a s
  | .plant a b t => Sys2Proof.Machine.execPlant a b t s
  | .mma d a b n z r => Sys2Proof.Machine.execMma d a b n z r s
  | .mmas d a b n z r => Sys2Proof.Machine.execMmas d a b n z r s
  | .mzero d => Sys2Proof.Machine.execMzero d s
  | .mdrain d a b r c k => Sys2Proof.Machine.execMdrain d a b r c k s
  | .mchain d a b c => Sys2Proof.Machine.execMchain d a b c s
  | .mcoll d a b r c => Sys2Proof.Machine.execMcoll d a b r c s
  | .mstat d => Sys2Proof.Machine.execMstat d s
  | .amoswap d a b s1 r q w => Sys2Proof.Machine.execAmoswap d a b s1 r q w s
  | .amoadd d a b s1 r q w => Sys2Proof.Machine.execAmoadd d a b s1 r q w s
  | .amoand d a b s1 r q w => Sys2Proof.Machine.execAmoand d a b s1 r q w s
  | .amoor d a b s1 r q w => Sys2Proof.Machine.execAmoor d a b s1 r q w s
  | .amoxor d a b s1 r q w => Sys2Proof.Machine.execAmoxor d a b s1 r q w s
  | .amomin d a b s1 r q w => Sys2Proof.Machine.execAmomin d a b s1 r q w s
  | .amomax d a b s1 r q w => Sys2Proof.Machine.execAmomax d a b s1 r q w s
  | .amocas d a b s1 r q w => Sys2Proof.Machine.execAmocas d a b s1 r q w s
  | .amofadd d a b s1 r q w => Sys2Proof.Machine.execAmofadd d a b s1 r q w s
  | .redadd a b s1 r w => Sys2Proof.Machine.execRedadd a b s1 r w s
  | .redmin a b s1 r w => Sys2Proof.Machine.execRedmin a b s1 r w s
  | .redmax a b s1 r w => Sys2Proof.Machine.execRedmax a b s1 r w s
  | .redfadd a b s1 r w => Sys2Proof.Machine.execRedfadd a b s1 r w s
  | .redfmax a b s1 r w => Sys2Proof.Machine.execRedfmax a b s1 r w s
  | .vredm d a b s1 r t => Sys2Proof.Machine.execVredm d a b s1 r t s
  | .binit a => Sys2Proof.Machine.execBinit a s
  | .barr d a c => Sys2Proof.Machine.execBarr d a c s
  | .bexp d a r => Sys2Proof.Machine.execBexp d a r s
  | .bwait d a => Sys2Proof.Machine.execBwait d a s
  | .btestCnt d a => Sys2Proof.Machine.execBtestCnt d a s
  | .btestFlg d a => Sys2Proof.Machine.execBtestFlg d a s
  | .bdomRect a j => Sys2Proof.Machine.execBdomRect a j s
  | .bdomList a j => Sys2Proof.Machine.execBdomList a j s
  | .evwait d a => Sys2Proof.Machine.execEvwait d a s
  | .evsig d a x => Sys2Proof.Machine.execEvsig d a x s
  | .evlock d a t => Sys2Proof.Machine.execEvlock d a t s
  | .evunlock a => Sys2Proof.Machine.execEvunlock a s
  | .waitv d a b k l c => Sys2Proof.Machine.execWaitv d a b k l c s
  | .cpq d a => Sys2Proof.Machine.execCpq d a s
  | .cpqt d a => Sys2Proof.Machine.execCpqt d a s
  | .qfence m => Sys2Proof.Machine.execQfence m s
  | .qstatOcc d q => Sys2Proof.Machine.execQstatOcc d q s
  | .qstatFaddr d q => Sys2Proof.Machine.execQstatFaddr d q s
  | .qstatFcause d q => Sys2Proof.Machine.execQstatFcause d q s
  | .gcast d a b => Sys2Proof.Machine.execGcast d a b s
  | .fence s1 r q c => Sys2Proof.Machine.execFence s1 r q c s
  | .fencei c => Sys2Proof.Machine.execFencei c s
  | .seedput d a => Sys2Proof.Machine.execSeedput d a s
  | .seedyield d a => Sys2Proof.Machine.execSeedyield d a s
  | .seedend => Sys2Proof.Machine.execSeedend s
  | .nestgo d a => Sys2Proof.Machine.execNestgo d a s
  | .prio d a => Sys2Proof.Machine.execPrio d a s
  | .slotwait d n => Sys2Proof.Machine.execSlotwait d n s
  | .tokb d => Sys2Proof.Machine.execTokb d s
  | .verstage d a b => Sys2Proof.Machine.execVerstage d a b s
  | .verpub d a => Sys2Proof.Machine.execVerpub d a s
  | .verqCur d => Sys2Proof.Machine.execVerqCur d s
  | .verqReg d a => Sys2Proof.Machine.execVerqReg d a s
  | .verqSlot d a => Sys2Proof.Machine.execVerqSlot d a s
  | .mark a w => Sys2Proof.Machine.execMark a w s
  | .ttgo d a b => Sys2Proof.Machine.execTtgo d a b s
  | .ttstatSt d => Sys2Proof.Machine.execTtstatSt d s
  | .ttstatEnt d a => Sys2Proof.Machine.execTtstatEnt d a s
  | .ttstatFaddr d => Sys2Proof.Machine.execTtstatFaddr d s
  | .pin d a b w r => Sys2Proof.Machine.execPin d a b w r s
  | .unpin r => Sys2Proof.Machine.execUnpin r s
  | .hintef a b r => Sys2Proof.Machine.execHintef a b r s
  | .pref a b x l => Sys2Proof.Machine.execPref a b x l s
  | .cflushWb a b => Sys2Proof.Machine.execCflushWb a b s
  | .cflushWbi a b => Sys2Proof.Machine.execCflushWbi a b s
  | .cflushInv a b => Sys2Proof.Machine.execCflushInv a b s
  | .alloc d a => Sys2Proof.Machine.execAlloc d a s
  | .free a b => Sys2Proof.Machine.execFree a b s
  | .ecall => Sys2Proof.Machine.execEcall s
  | .ebreak => Sys2Proof.Machine.execEbreak s
  | .eret => Sys2Proof.Machine.execEret s
  | .csrrd d c => Sys2Proof.Machine.execCsrrd d c s
  | .csrwr d a c => Sys2Proof.Machine.execCsrwr d a c s
  | .csrset d a c => Sys2Proof.Machine.execCsrset d a c s
  | .csrclr d a c => Sys2Proof.Machine.execCsrclr d a c s
  | .tlbinvPage a s1 => Sys2Proof.Machine.execTlbinvPage a s1 s
  | .tlbinvCid a s1 => Sys2Proof.Machine.execTlbinvCid a s1 s
  | .tlbinvCtx a s1 => Sys2Proof.Machine.execTlbinvCtx a s1 s
  | .tlbinvAll a s1 => Sys2Proof.Machine.execTlbinvAll a s1 s
  | .rdtime d => Sys2Proof.Machine.execRdtime d s
  | .rdcyc d => Sys2Proof.Machine.execRdcyc d s
  | .userReturn k => Sys2Proof.Machine.execUserReturn k s
  | .spadwaysWrite core value => Sys2Proof.Machine.execSpadwaysWrite core value s
  | .prioceilWrite core value => Sys2Proof.Machine.execPrioceilWrite core value s
  | .diversionTableWrite core count value => Sys2Proof.Machine.execDiversionTableWrite core count value s
  | .dbgctlWrite value => Sys2Proof.Machine.execDbgctlWrite value s
  | .spanSwitch core => Sys2Proof.Machine.execSpanSwitch core s
  | .timer core => Sys2Proof.Machine.execTimer core s
  | .asyncEventTake core => Sys2Proof.Machine.execAsyncEventTake core s
  | .elementProgressTimer k elem kind port => Sys2Proof.Machine.execElementProgressTimer k elem kind port s
  | .seedDispatch k => Sys2Proof.Machine.execSeedDispatch k s
  | .loadDataReturn k reg => Sys2Proof.Machine.execLoadDataReturn k reg s
  | .acknowledgement i1 => Sys2Proof.Machine.execAcknowledgement i1 s
  | .remoteWriteArrival i1 => Sys2Proof.Machine.execRemoteWriteArrival i1 s
  | .heldRead i1 => Sys2Proof.Machine.execHeldRead i1 s
  | .amoArrival i1 => Sys2Proof.Machine.execAmoArrival i1 s
  | .messageRetry i1 => Sys2Proof.Machine.execMessageRetry i1 s
  | .barrierArrival i1 => Sys2Proof.Machine.execBarrierArrival i1 s
  | .expectation i1 => Sys2Proof.Machine.execExpectation i1 s
  | .byteSubtraction i1 => Sys2Proof.Machine.execByteSubtraction i1 s
  | .phaseMessage i1 => Sys2Proof.Machine.execPhaseMessage i1 s
  | .bexpReply k => Sys2Proof.Machine.execBexpReply k s
  | .bwaitWake k => Sys2Proof.Machine.execBwaitWake k s
  | .evwaitWake k => Sys2Proof.Machine.execEvwaitWake k s
  | .evlockWake k => Sys2Proof.Machine.execEvlockWake k s
  | .waitvWake k => Sys2Proof.Machine.execWaitvWake k s
  | .slotwaitWake k => Sys2Proof.Machine.execSlotwaitWake k s
  | .eventLineUpdate i1 => Sys2Proof.Machine.execEventLineUpdate i1 s
  | .copyChunk core queue => Sys2Proof.Machine.execCopyChunk core queue s
  | .collectivePerform cluster => Sys2Proof.Machine.execCollectivePerform cluster s
  | .leaseGrant cluster => Sys2Proof.Machine.execLeaseGrant cluster s
  | .budgetExpiry core => Sys2Proof.Machine.execBudgetExpiry core s
  | .millCommandPerform core => Sys2Proof.Machine.execMillCommandPerform core s
  | .mchainLanding k reg => Sys2Proof.Machine.execMchainLanding k reg s
  | .slottedInjection core => Sys2Proof.Machine.execSlottedInjection core s
  | .shareRefill => Sys2Proof.Machine.execShareRefill s
  | .loadMonitorWindow die => Sys2Proof.Machine.execLoadMonitorWindow die s
  | .ttEntryBegin part entry => Sys2Proof.Machine.execTtEntryBegin part entry s
  | .ttEntryComplete part entry => Sys2Proof.Machine.execTtEntryComplete part entry s
  | .hostSeedWrite port offset x => Sys2Proof.Machine.execHostSeedWrite port offset x s
  | .semTake agent cell => Sys2Proof.Machine.execSemTake agent cell s
  | .semRelease agent cell value => Sys2Proof.Machine.execSemRelease agent cell value s
  | .mailboxWrite core sender value => Sys2Proof.Machine.execMailboxWrite core sender value s
  | .barrierWindowArrive core bar value => Sys2Proof.Machine.execBarrierWindowArrive core bar value s
  | .barrierWindowExpect core bar value => Sys2Proof.Machine.execBarrierWindowExpect core bar value s
  | .eventLineInit line value => Sys2Proof.Machine.execEventLineInit line value s
  | .eventLineSignal line value => Sys2Proof.Machine.execEventLineSignal line value s
  | .hostHdmWrite port offset x => Sys2Proof.Machine.execHostHdmWrite port offset x s
  | .fwCreatePartition k => Sys2Proof.Machine.execFwCreatePartition k s
  | .fwSetShareWeight k => Sys2Proof.Machine.execFwSetShareWeight k s
  | .fwDestroyPartition k => Sys2Proof.Machine.execFwDestroyPartition k s
  | .fwSetPowerState k => Sys2Proof.Machine.execFwSetPowerState k s
  | .fwDebugGrant k => Sys2Proof.Machine.execFwDebugGrant k s
  | .fwStartChipletCore k => Sys2Proof.Machine.execFwStartChipletCore k s
  | .reset => Sys2Proof.Machine.execReset s
  | .powerWake => Sys2Proof.Machine.execPowerWake s
  | .supplySag cluster => Sys2Proof.Machine.execSupplySag cluster s
  | .tamper k => Sys2Proof.Machine.execTamper k s
  | .debugHalt k => Sys2Proof.Machine.execDebugHalt k s
  | .getVersion port => Sys2Proof.Machine.execGetVersion port s
  | .getCapabilities port => Sys2Proof.Machine.execGetCapabilities port s
  | .negotiateAlgorithms port => Sys2Proof.Machine.execNegotiateAlgorithms port s
  | .getDigests port => Sys2Proof.Machine.execGetDigests port s
  | .getCertificate port slot offset length => Sys2Proof.Machine.execGetCertificate port slot offset length s
  | .challenge port nonce => Sys2Proof.Machine.execChallenge port nonce s
  | .getMeasurements port nonce => Sys2Proof.Machine.execGetMeasurements port nonce s
  | .keyExchange port => Sys2Proof.Machine.execKeyExchange port s
  | .finish port => Sys2Proof.Machine.execFinish port s
  | .endSession port => Sys2Proof.Machine.execEndSession port s
  | .unassignedInstructionWord w => Sys2Proof.Machine.execUnassignedInstructionWord w s
  | .longLatencyResult k reg => Sys2Proof.Machine.execLongLatencyResult k reg s
  | .tlbinvComplete i1 => Sys2Proof.Machine.execTlbinvComplete i1 s
  | .hostLinkTraining port => Sys2Proof.Machine.execHostLinkTraining port s
  | .supplySagEnd cluster => Sys2Proof.Machine.execSupplySagEnd cluster s

end Sys2Proof.Machine
end

