-- ==== Sys2Proof/Machine/Sched.lean ====
section
/-!
DEFINITION. Machine/Sched.lean: what moves next.  The spec leaves the order of the agents' steps and the time that each takes to the
device (01 R20, 04 R90, 10 R265 to R277, 12 R316, R317); here plain data in the state decides both (log entry 1): the agenda
names events to perform first, `turns` chooses among what may move, `ticks` says how far GTIME moves on.
-/

namespace Sys2Proof.Machine

noncomputable section

/-- What moves next: an event, the firmware that a strand has called, a strand that is tried again after a stall, a strand that
issues, or nothing. -/
inductive Action where
  | event (i : Instr)
  | firmware (k : Nat)
  | retry (k : Nat)
  | issue (k : Nat)
  | idle

/-! ## Issue ports -/

/-- The majors that go through vector issue (04 R90). -/
def vectorMajor (m : Nat) : Bool := (decide (0x24 ≤ m) && decide (m ≤ 0x2A)) || (decide (0x35 ≤ m) && decide (m ≤ 0x38))

/-- The word at strand `k`'s pc, where it can be fetched. -/
def State.peek (s : State) (k : Nat) : Option IWord :=
  match M.fetch.run.run { s with cur := k } with
  | (.ok w, _) => some w
  | _ => none

/-- The port that strand `k`'s next instruction uses: the vector port, or the scalar port, also where its fetch fails. -/
def State.usesVector (s : State) (k : Nat) : Bool :=
  match s.peek k with
  | some w => vectorMajor (BitField.upper 6 26 w).toNat
  | none => false

/-- Strand `k` has entered firmware by a call that firmware answers (17 R396, R397). -/
def State.inCall (s : State) (k : Nat) : Bool := s.called k ((s.strandAt k).readG 14).toNat

/-- Strand `k`'s core issues for it: it is clocked, and where a switch is due, or a merge is under way, it issues for the supervisor
strand only (13 R341, R355, 17 R401). -/
def State.issuesFor (s : State) (k : Nat) : Bool :=
  s.clocked (k / 4) && ((s.strandAt k).kind == .supervisor || !((s.coreAt (k / 4)).merging || s.switchDue (k / 4)))

/-- Strand `k` may issue: it is ready, and its core issues for it (04 R90). -/
def State.mayIssue (s : State) (k : Nat) : Bool :=
  let t := s.strandAt k
  t.kind != .none && t.cond == .ready && s.issuesFor k && !s.inCall k

/-- The exception of a word that does not decode (02 R28). -/
def decodeExc (e : DecodeError) (w : IWord) : Exc := illegalExc w e.reason

/-- Strand `k` fetches its next word, which is decoded and executed; an exception of the fetch or the decoder is taken. -/
def State.run (s : State) (k : Nat) : Out :=
  match M.fetch.run.run { s with cur := k } with
  | (.ok w, s1) =>
    match decode w with
    | .ok i => exec i s1
    | .error e => raise (decodeExc e w) s1
  | (.error (.trap e), s1) => raise e s1
  | (.error .wait, s1) => stall s1

/-- Strand `k`'s next instruction would stall: the strand is not ready (04 R90). -/
def State.wouldStall (s : State) (k : Nat) : Bool :=
  match s.run k with
  | .next s1 => (s1.strandAt k).cond == .stalled
  | _ => false

/-- The strands of a core that are ready for a port, in ascending slots (12 R317). -/
def State.readyFor (s : State) (core : Nat) (vector : Bool) : List Nat :=
  ((List.range 4).map (core * 4 + ·)).filter fun k => s.mayIssue k && s.usesVector k == vector && !s.wouldStall k

/-- Strand `k` has not issued in the present cycle of its core (04 R90). -/
def State.freshStrand (s : State) (k : Nat) : Bool := decide ((s.strandAt k).nextIssue ≤ s.cyclesOf (k / 4))

/-- A port of a core has not issued in the present cycle (04 R90). -/
def State.freshPort (s : State) (core : Nat) (vector : Bool) : Bool :=
  let c := s.coreAt core
  decide ((if vector then c.nextVector else c.nextScalar) ≤ s.cyclesOf core)

/-- The first of some strands of a core in round-robin order, which starts after a slot (12 R317). -/
def roundRobin (last : Nat) (ks : List Nat) : Option Nat :=
  ([1, 2, 3, 4].map fun i => (last + i) % 4).findSome? fun slot => ks.find? fun k => k % 4 == slot

/-- The strand that a port of a core issues: the saturated first, then those of the highest priority (12 R316, R317); a port issues one
instruction in a cycle, and so does a strand (04 R90). -/
def State.portChoice (s : State) (core : Nat) (vector : Bool) : Option Nat :=
  let ks := if s.freshPort core vector then (s.readyFor core vector).filter s.freshStrand else []
  let old := ks.filter fun k => decide (255 ≤ (s.strandAt k).age)
  let top := (ks.map fun k => (s.strandAt k).prio).foldl max 0
  let c := s.coreAt core
  roundRobin (if vector then c.lastVector else c.lastScalar)
    (if old.isEmpty then ks.filter fun k => (s.strandAt k).prio == top else old)

/-- The cores that hold a strand. -/
def State.liveCores (s : State) : List Nat := (s.strands.map fun e => e.1 / 4).eraseDups

/-- What the ports of the cores would issue, each with its turn number. -/
def State.issueChoices (s : State) : List (Nat × Nat) :=
  (s.liveCores.map fun c => [(2 * c, s.portChoice c false), (2 * c + 1, s.portChoice c true)]).flatten.filterMap fun x =>
    x.2.map fun k => (x.1, k)

/-- The next of some choices in turn. -/
def inTurn (last : Nat) (xs : List (Nat × Nat)) : Option Nat :=
  match xs.find? fun x => decide (last < x.1) with
  | some x => some x.2
  | none => xs.head?.map (·.2)

/-! ## Events in waiting -/

/-- The event of message `i` of the network. -/
def arrivalEvent (m : Msg) (i : Nat) : Instr :=
  if m.refused then .messageRetry i
  else match m.body with
    | .store _ | .red .. | .reds .. => .remoteWriteArrival i
    | .load .. | .vload .. => .heldRead i
    | .amo .. => .amoArrival i
    | .arrive .. => .barrierArrival i
    | .expect .. => .expectation i
    | .subtract .. => .byteSubtraction i
    | .phase .. => .phaseMessage i
    | .evsig .. => .eventLineUpdate i
    | .packet .. => .messageRetry i

/-- The events of the network and its answers. -/
def State.netEvents (s : State) : List Instr :=
  (s.net.zipIdx.filterMap fun (m, i) => if s.mayArrive i then some (arrivalEvent m i) else none) ++
    ((List.range s.acks.length).map .acknowledgement) ++ ((List.range s.tlbinv.length).map .tlbinvComplete)

/-- The events that a strand waits for; a stalled one is tried again. -/
def strandEvents (k : Nat) (t : Strand) : List Action :=
  (((List.range 32).map (BitVec.ofNat 5)).filterMap fun r => match t.mark r with
    | .landing .load _ _ => some (.event (.loadDataReturn k r))
    | .landing .longLatency _ _ => some (.event (.longLatencyResult k r))
    | _ => none) ++
  (t.vland.map fun x => .event (.mchainLanding k x.1)) ++
  (match t.cond with
    | .stalled => [.retry k]
    | .bexp _ _ (some _) => [.event (.bexpReply k)]
    | .asleep (.bwait _ _) => [.event (.bwaitWake k)]
    | .asleep (.evwait _ _) => [.event (.evwaitWake k)]
    | .asleep (.evlock _ _ _) => [.event (.evlockWake k)]
    | .asleep (.waitv ..) => [.event (.waitvWake k)]
    | _ => [])

/-- The events of a core's queues, mill and slots. -/
def State.coreEvents (s : State) (e : Nat × Core) : List Instr :=
  let (core, c) := e
  let queue := fun (base : Nat) (qs : Vector (List QEntry) 3) =>
    (qs.toList.zipIdx.filter fun x => !x.1.isEmpty).map fun x => Instr.copyChunk core (base + x.2)
  queue 0 c.queues ++ (c.departed.zipIdx.map fun (d, i) => queue (4 * (i + 1)) d.queues).flatten ++
    (if (firstLeft c.slotPend).isNone then [] else [.slottedInjection core]) ++
    (if c.q3.isEmpty && !(c.held.any (·.replant)) && !(c.departed.any fun d => (s.drainOver d).isSome) then []
      else [.millCommandPerform core]) ++
    (if c.leases.isEmpty then [] else [.leaseGrant (clusterOf core), .budgetExpiry core]) ++
    (if c.pending.first.isSome || (s.millRowDue core).isSome then [.asyncEventTake core] else []) ++
    (if c.queues[2].isEmpty && !(c.departed.any fun d => !d.queues[2].isEmpty) then []
      else [.collectivePerform (clusterOf core)])

/-- The seeds that may be dispatched. -/
def State.seedEvents (s : State) : List Instr :=
  ((s.cores.filter fun e => !s.switchDue e.1).map fun e => ((List.range 4).filter fun i => s.mayDispatch (4 * e.1 + i) && !(s.seedContenders e.2.part).isEmpty).map
    fun i => Instr.seedDispatch (4 * e.1 + i)).flatten

/-- The timetable entries that have not ended. -/
def State.tierEvents (s : State) : List Instr :=
  (s.parts.map fun e => (e.2.tier.entries.zipIdx.filterMap fun (x, i) => match x.state with
    | .pending => some (Instr.ttEntryBegin e.1 i)
    | .inFlight => some (Instr.ttEntryComplete e.1 i)
    | _ => none)).flatten

/-- A ready strand whose next instruction would stall comes to it, and stalls. -/
def State.stallEvents (s : State) (k : Nat) : List Action := if s.mayIssue k && s.wouldStall k then [.retry k] else []

/-- An action is open at a core that issues: a strand of one that does not is not tried again (13 R341). -/
def State.isOpen (s : State) (a : Action) : Bool :=
  match a with
  | .retry k => s.issuesFor k
  | _ => true

/-- Everything but issue that waits to move. -/
def State.waitingEvents (s : State) : List Action :=
  match s.power with
  | .off => []
  | _ =>
    ((s.netEvents ++ (s.cores.map s.coreEvents).flatten ++ s.seedEvents ++ s.tierEvents).map .event) ++
      ((s.strands.filter fun e => s.clocked (e.1 / 4)).map fun e =>
        (strandEvents e.1 e.2).filter s.isOpen ++ s.stallEvents e.1 ++ if s.inCall e.1 then [.firmware e.1] else []).flatten

/-! ## Events that are due -/

/-- What GTIME has brought about: the boot after a reset (17 R398); the wake from retention (R401); refills and windows (14 R361,
R364); timers and span switches (13 R341, R357); element-progress timers (07 R212); and the ticks that strands sleep for (14
R369). -/
def State.dueEvents (s : State) : List Instr :=
  if !s.booted then [.reset]
  else if s.power = .off then []
  else
    (if (s.power = .retention ∧ s.wakeAt.any (· ≤ s.gtime)) ∨ s.hostHeld ≠ [] then [.powerWake] else []) ++
    (if s.refilled + 1024 ≤ s.gtime then [.shareRefill] else []) ++
    ((s.monitors.filter fun e => decide (e.2.began + 4096 ≤ s.gtime)).map fun e => .loadMonitorWindow e.1) ++
    ((s.cores.filter fun e => s.timerDue e.1).map fun e => .timer e.1) ++
    ((s.cores.filter fun e => s.maySwitch e.1).map fun e => .spanSwitch e.1) ++
    ((s.strands.filter fun e => s.timerExpired e.1).map fun e =>
      let w := s.awaited e.1
      .elementProgressTimer e.1 w.1 w.2.1 w.2.2) ++
    (s.strands.filterMap fun e => match e.2.cond with
      | .asleep (.slotwait _ tick) => if tick ≤ s.gtime then some (.slotwaitWake e.1) else none
      | _ => none)

/-! ## The choice -/

/-- What moves next, where nothing is due and the agenda names nothing: the schedule chooses among everything that may move; where
it says nothing, issue and the rest alternate, and each takes its turns. -/
def State.choice (s : State) : Action :=
  let issues := s.issueChoices
  let rest := s.waitingEvents
  match s.turns with
  | n :: _ => ((issues.map fun x => Action.issue x.2) ++ rest).getD (n % (issues.length + rest.length)) .idle
  | [] =>
    match inTurn s.lastTurn issues, rest with
    | none, [] => .idle
    | some k, [] => .issue k
    | none, e :: es => (e :: es).getD (s.cycles % (es.length + 1)) e
    | some k, e :: es => if s.cycles % 2 = 0 then .issue k else (e :: es).getD (s.cycles / 2 % (es.length + 1)) e

/-- What moves next. -/
def State.nextAction (s : State) : Action :=
  match s.dueEvents, s.agenda with
  | i :: _, _ => .event i
  | [], i :: _ => .event i
  | [], [] => s.choice

/-- The state with the schedule moved past a choice that was taken from it. -/
def State.chosen (s : State) : State :=
  match s.dueEvents, s.agenda with
  | _ :: _, _ => s
  | [], _ :: is => { s with agenda := is }
  | [], [] => { s with turns := s.turns.drop 1 }

/-! ## Issue -/

/-- The ages of the strands of a core and its round-robin, after strand `k` issues (12 R317); it and the port issue no more in this cycle
(04 R90). -/
def State.aged (s : State) (before : State) (k : Nat) : State :=
  let core := k / 4
  let next := before.cyclesOf core + 1
  let vector := before.usesVector k
  let others := (before.readyFor core vector).filter (· != k)
  let s := others.foldl (fun s j => s.setStrand j { s.strandAt j with age := min 255 ((s.strandAt j).age + 1) }) s
  let t := s.strandAt k
  let s := if t.kind = .none then s else s.setStrand k { t with age := 0, nextIssue := next }
  let c := s.coreAt core
  let s := s.setCore core (if vector then { c with lastVector := k % 4, nextVector := next }
    else { c with lastScalar := k % 4, nextScalar := next })
  { s with lastTurn := 2 * core + if vector then 1 else 0 }

/-- A stalled strand is tried again: where it would no longer stall it is ready (04 R90), and where it stalls again what the attempt has
sent stands, and its age is 0 (12 R317). -/
def State.retry (s : State) (k : Nat) : State :=
  let ready := s.setStrand k { s.strandAt k with cond := .ready }
  match ready.run k with
  | .next s1 =>
    if (s1.strandAt k).cond = .stalled then { s1.setStrand k { s1.strandAt k with age := 0 } with cur := s.cur } else ready
  | _ => ready

/-- Firmware answers the call of strand `k` (17 R397). -/
def State.firmware (s : State) (k : Nat) : Out :=
  match ((s.strandAt k).readG 14).toNat with
  | 1 => exec (.fwCreatePartition k) s
  | 2 => exec (.fwSetShareWeight k) s
  | 3 => exec (.fwDestroyPartition k) s
  | 4 => exec (.fwSetPowerState k) s
  | 5 => exec (.fwDebugGrant k) s
  | 6 => exec (.fwStartChipletCore k) s
  | _ => .next (s.unknownCall k)

/-! ## Time -/

/-- The clocks of the clusters over one tick (17 R401, R404): the schedule decides how far a sag stretches each. -/
def tickClusters : Tab Cluster → List Bool → Tab Cluster × List Bool
  | [], bs => ([], bs)
  | (n, c) :: cs, bs =>
    let asks := c.sag && !c.gated
    let (rest, left) := tickClusters cs (if asks then bs.drop 1 else bs)
    ((n, c.tick (asks && bs.headD false)) :: rest, left)

/-- A tick of the clocks: of GTIME, which runs in retention too, and of the clusters, which do not; a module that is off has none (01
R20, 17 R401). -/
def State.clockTick (s : State) : State :=
  match s.power with
  | .off => s
  | .retention => { s with gtime := s.gtime + 1, cycles := s.cycles + 1, slept := s.slept + 1 }
  | .active =>
    let (cs, bs) := tickClusters s.clusters s.lags
    { s with clusters := cs, lags := bs, gtime := s.gtime + 1, cycles := s.cycles + 1 }

/-- Time moves on by a number of ticks (01 R20), and the network with it. -/
def State.after (s : State) : Nat → State
  | 0 => s
  | n + 1 => State.after s.clockTick.netTick n

/-- Time moves on after a step: by what the schedule says, or by one tick; and new contenders are noted (12 R318). -/
def State.passTime (s : State) : State := ({ s with ticks := s.ticks.drop 1 }.after (s.ticks.headD 1)).noteContenders

/-- An outcome with its next state changed. -/
def Out.map (f : State → State) : Out → Out
  | .next s => .next (f s)
  | .fault r => .fault r
  | .refused r => .refused r

/-- What an action does. -/
def State.perform (s : State) : Action → Out
  | .event i => exec i s
  | .firmware k => s.firmware k
  | .retry k => .next (s.retry k)
  | .issue k => (s.run k).map fun s1 => s1.aged s k
  | .idle => .next s

/-- The state with a word stored where the strand that issues next fetches it, or the strand that moved last. -/
def State.placeWord (s : State) (w : IWord) : State :=
  let k := match s.nextAction with
    | .issue k => k
    | _ => s.cur
  let s1 := { s with cur := k }
  match (M.translate s1.myAgent .fetch s1.me.pc 0).run.run s1 with
  | (.ok (.mem key _ _ _), _) => s1.writeMem key 4 w.toNat
  | _ => s

end

end Sys2Proof.Machine
end

