-- ==== Sys2Proof/Machine/Step.lean ====
section
/-!
DEFINITION. Machine/Step.lean: one step of the machine, and the placing of an instruction where the next step fetches it.
-/

namespace Sys2Proof.Machine

/-- One step: what moves next does so, and time moves on. -/
noncomputable def step (s : State) : Host.Outcome State Fault Refusal :=
  (s.chosen.perform s.nextAction).map State.passTime

/-- The state with the first `n` bits of a number, at most 32, stored where the next step fetches; a machine that has not booted is
first brought to where the module operating system begins (17 R399, log entry 25). -/
noncomputable def State.withFetchWord (s : State) (nbits w : Nat) : State :=
  (if s.booted then s else s.osStart).placeWord (BitVec.ofNat 32 (w % 2 ^ nbits))

end Sys2Proof.Machine
end

