-- ==== Sys2Proof/Certificates/Slice0/Obligations.lean ====
section
/-!
DEFINITION. Certificates/Slice0/Obligations.lean: the statements for the provers, and the words that they are stated in.
-/

section

open Sys2Proof
open Sys2Proof.Machine

namespace Sys2Proof.Claims

/-! ## Words of the statements -/

/-- A longer meaning runs from `s` to its end with the value `a`, and leaves the state `t`. -/
def Yields {α : Type} (m : M α) (s : State) (a : α) (t : State) : Prop := m.run.run s = (.ok a, t)

/-- A longer meaning, run from `s`, raises `e` and leaves the state `t`. -/
def Traps {α : Type} (m : M α) (s : State) (e : Exc) (t : State) : Prop := m.run.run s = (.error (.trap e), t)

/-- The g registers that an instruction reads carry no mark, and those that it writes no pending mark (R92, R93). -/
def Clear (s : State) (reads writes : List Reg) : Prop :=
  (∀ r ∈ reads, s.me.mark r = .clear) ∧ (∀ r ∈ writes, (s.me.mark r).isPending = false)

/-- The strand is on a compute core, no v register of these awaits a landing, and the g registers are clear (R17, R92, R190). -/
def VClear (s : State) (reads writes vs : List Reg) : Prop :=
  isChiplet s.myCoreNo = false ∧ (∀ r ∈ vs, s.me.vpend.getLsbD r.toNat = false) ∧ Clear s reads writes

/-- The instruction completes: its strand becomes `t` at the next instruction, and nothing else of the state changes. -/
def Ends (s : State) (t : Strand) : Out := .next (s.setMe t.advance)

/-- The strand that moves becomes `t` with its pc at a target, and nothing else of the state changes. -/
def Goes (s : State) (t : Strand) (pc : Word) : Out := .next (s.setMe { t with pc := pc, cond := .ready, slotTie := none })

/-- The instruction is complete in the state `t`: its strand stands at the next instruction. -/
def Done (t : State) : Out := .next (t.setMe t.me.advance)

/-- The state in which a vector memory form or a string form does its work: its timer runs, from its first attempt, and this attempt
has asked for nothing yet (R212). -/
def begun (s : State) : State :=
  s.setMe { s.me with timer := some (s.me.timer.getD { since := s.cyclesOf s.myCoreNo }), awaits := { s.me.awaits with seen := 0 } }

/-- The part of such a form that does element `j`. -/
def atElem {α : Type} (j : Nat) (m : M α) : M α := do
  M.modifyMe fun t => { t with awaits := { t.awaits with elem := j } }
  m

/-! ## Integer forms -/

/-- ALU forms with two sources, and what they write (R96). -/
def aluForms : List ((Reg → Reg → Reg → Instr) × (Word → Word → Word)) :=
  [(.add, fun a b => a + b), (.sub, fun a b => a - b), (.and, fun a b => a &&& b), (.or, fun a b => a ||| b),
   (.xor, fun a b => a ^^^ b),
   (.shl, fun a b => BitVec.ofNat 64 (a.toNat * 2 ^ (b.toNat % 64))),
   (.shr, fun a b => BitVec.ofNat 64 (a.toNat / 2 ^ (b.toNat % 64))),
   (.sar, fun a b => BitVec.ofInt 64 (a.toInt / 2 ^ (b.toNat % 64))),
   (.mul, fun a b => BitVec.ofNat 64 (a.toNat * b.toNat)),
   (.mulh, fun a b => (a.signExtend 128 * b.signExtend 128).extractLsb' 64 64),
   (.mulhz, fun a b => (a.setWidth 128 * b.setWidth 128).extractLsb' 64 64),
   (.min, fun a b => if a.toInt ≤ b.toInt then a else b),
   (.max, fun a b => if b.toInt ≤ a.toInt then a else b),
   (.slt, fun a b => if a.toInt < b.toInt then 1 else 0),
   (.sltz, fun a b => if a.toNat < b.toNat then 1 else 0),
   (.addw, fun a b => ((a + b).setWidth 32).signExtend 64)] ++
  (List.range 8).map fun n => (fun d a b => .lea d a b (BitVec.ofNat 3 n), fun a b => a + BitVec.ofNat 64 (b.toNat * 2 ^ n))

/-- ALU forms with one source, and what they write (R96). -/
def aluUnaryForms : List ((Reg → Reg → Instr) × (Word → Word)) :=
  [(.clz, fun a => BitVec.ofNat 64 (if a = 0 then 64 else 63 - a.toNat.log2)),
   (.ctz, fun a => BitVec.ofNat 64 (((List.range 64).find? fun i => a.getLsbD i).getD 64)),
   (.popc, fun a => BitVec.ofNat 64 ((List.range 64).countP fun i => a.getLsbD i)),
   (fun d a => .sext d a .w8, fun a => (a.setWidth 8).signExtend 64),
   (fun d a => .sext d a .w16, fun a => (a.setWidth 16).signExtend 64),
   (fun d a => .sext d a .w32, fun a => (a.setWidth 32).signExtend 64),
   (fun d a => .zext d a .w8, fun a => (a.setWidth 8).setWidth 64),
   (fun d a => .zext d a .w16, fun a => (a.setWidth 16).setWidth 64),
   (fun d a => .zext d a .w32, fun a => (a.setWidth 32).setWidth 64)]

/-- Immediate forms, and what they write (R99). -/
def immForms : List ((Reg → Reg → BitVec 16 → Instr) × (Word → BitVec 16 → Word)) :=
  [(.addi, fun a i => a + BitVec.ofInt 64 i.toInt), (.andi, fun a i => a &&& BitVec.ofNat 64 i.toNat),
   (.ori, fun a i => a ||| BitVec.ofNat 64 i.toNat), (.xori, fun a i => a ^^^ BitVec.ofNat 64 i.toNat),
   (.slti, fun a i => if a.toInt < i.toInt then 1 else 0)]

/-- Shifts by an immediate (R100). -/
def shiftForms : List ((Reg → Reg → BitVec 6 → Instr) × (Word → Nat → Word)) :=
  [(.shli, fun a n => BitVec.ofNat 64 (a.toNat * 2 ^ n)), (.shri, fun a n => BitVec.ofNat 64 (a.toNat / 2 ^ n)),
   (.sari, fun a n => BitVec.ofInt 64 (a.toInt / 2 ^ n))]

/-- Divisions, and their results (R97). -/
def divForms : List ((Reg → Reg → Reg → Instr) × (Word → Word → Word)) :=
  [(.div, fun a b => if b = 0 then BitVec.allOnes 64 else a.sdiv b),
   (.divz, fun a b => if b = 0 then BitVec.allOnes 64 else a / b),
   (.rem, fun a b => if b = 0 then a else a.srem b),
   (.remz, fun a b => if b = 0 then a else a % b)]

/-- Conditional branches, and when they are taken (R102). -/
def branchForms : List ((Reg → Reg → BitVec 16 → Instr) × (Word → Word → Prop)) :=
  [(.beq, fun a b => a = b), (.bne, fun a b => a ≠ b),
   (.blt, fun a b => a.toInt < b.toInt), (.bge, fun a b => b.toInt ≤ a.toInt),
   (.blo, fun a b => a.toNat < b.toNat), (.bhs, fun a b => b.toNat ≤ a.toNat)]

/-- Branches on the bits 0 to n - 1 of a mask, and when they are taken (R103). -/
def maskBranchForms : List ((MaskReg → BitVec 16 → Instr) × ((Nat → Bool) → Nat → Prop)) :=
  [(.bmany, fun p n => ∃ e < n, p e = true), (.bmall, fun p n => ∀ e < n, p e = true),
   (.bmnone, fun p n => ∀ e < n, p e = false)]

/-- The position of the field that g[b] describes (R98). -/
def fieldPos (b : Word) : Nat := (b.extractLsb' 0 6).toNat

/-- The effective length of the field that g[b] describes (R98). -/
def fieldLen (b : Word) : Nat := min (b.extractLsb' 8 7).toNat (64 - fieldPos b)

/-! ## Scalar memory -/

/-- The loads into g registers: their bytes, and whether they extend the sign (R105). -/
def loadForms : List ((Reg → Reg → BitVec 16 → Instr) × Nat × Bool) :=
  [(.lb, 1, true), (.lh, 2, true), (.lw, 4, true), (.ld, 8, false), (.lbz, 1, false), (.lhz, 2, false), (.lwz, 4, false)]

/-- The loads into f registers: their bytes, and the bits that lie above them (R105). -/
def floatLoadForms : List ((Reg → Reg → BitVec 16 → Instr) × Nat × Nat) := [(.flw, 4, 0xFFFFFFFF00000000), (.fld, 8, 0)]

/-- The stores: their bytes, the g registers they read, and the value they store (R105). -/
def storeForms : List ((Reg → Reg → BitVec 16 → Instr) × Nat × (Reg → Reg → List Reg) × (Strand → Reg → Word)) :=
  [(.sb, 1, fun d a => [a, d], fun t d => t.readG d), (.sh, 2, fun d a => [a, d], fun t d => t.readG d),
   (.sw, 4, fun d a => [a, d], fun t d => t.readG d), (.sd, 8, fun d a => [a, d], fun t d => t.readG d),
   (.fsw, 4, fun _ a => [a], fun t d => t.readF d), (.fsd, 8, fun _ a => [a], fun t d => t.readF d)]

/-- The value of `n` bytes as a load extends it. -/
def extended (n : Nat) (signed : Bool) (x : Nat) : Word :=
  if signed then BitVec.ofInt 64 (if x < 2 ^ (8 * n - 1) then (x : Int) else (x : Int) - 2 ^ (8 * n)) else BitVec.ofNat 64 x

/-- The effective address of a scalar access (R105). -/
def ea (s : State) (a : Reg) (i : BitVec 16) : Word := s.me.readG a + BitVec.ofInt 64 i.toInt

/-- The place is not in the scratchpad of another core. -/
def notFar (s : State) (p : Place) : Prop := ∀ c o, p = .carve c o → c = s.myCoreNo

/-- An aligned access of `n` bytes at `va` lies in the strand's own scratchpad, within its carve, and no message of the core to
its own scratchpad is on its way (R199 to R201). -/
def OwnCarve (s : State) (va : Word) (n : Nat) : Prop :=
  va.toNat % n = 0 ∧ spaceOf va = .scratch ∧ localCore va = s.myCoreNo ∧
    localOff va + n ≤ s.carveFor s.myAgent (localCore va) ∧
    s.net.all (fun m => m.sender.core != s.myCoreNo && m.source != s.myCoreNo) = true

/-- The location of an L-space address. -/
def keyOf (va : Word) : Nat := scratchKey (localCore va) (localOff va)

/-- The bytes of memory after the `n` low bytes of `v` were stored from location `k`. -/
def Stored (s t : State) (k n v : Nat) : Prop :=
  ∀ a, t.byteAt a = if k ≤ a ∧ a < k + n then BitVec.ofNat 8 (v / 256 ^ (a - k)) else s.byteAt a

end Sys2Proof.Claims

open Sys2Proof.Claims

/-- R94: g0 reads zero and writes of it are discarded; any other register reads what was last written to it, and writing it
changes no other register. -/
def Obligations.RegisterFile : Prop :=
  ∀ (t : Strand) (r q : Reg) (x : Word),
    t.readG 0 = 0 ∧ t.writeG 0 x = t ∧ (r ≠ 0 → (t.writeG r x).readG r = x) ∧
    (q ≠ r → (t.writeG r x).readG q = t.readG q) ∧ (q ≠ r → (t.writeG r x).mark q = t.mark q) ∧
    (t.writeG r x).mark r = .clear ∧
    ({ t.writeG r x with g := t.g, marks := t.marks } : Strand) = t

/-- R95, R96: every ALU form with one or two sources, and CSEL, completes and writes g[d] as the table says, whatever register
d is; nothing else of the machine changes but the pc. -/
def Sys2Proof.Claims.AluResults : Prop :=
  ∀ (s : State) (d a b : Reg),
    (∀ p ∈ aluForms, Clear s [a, b] [d] →
      exec (p.1 d a b) s = Ends s (s.me.writeG d (p.2 (s.me.readG a) (s.me.readG b)))) ∧
    (∀ p ∈ aluUnaryForms, Clear s [a] [d] → exec (p.1 d a) s = Ends s (s.me.writeG d (p.2 (s.me.readG a)))) ∧
    (Clear s [a, b, d] [d] →
      exec (.csel d a b) s = Ends s (s.me.writeG d (if s.me.readG a ≠ 0 then s.me.readG b else s.me.readG d)))

/-- R92, R97: a division is issued with its result on the way, and the event LONG_LATENCY_RESULT writes it to g[d]. -/
def Sys2Proof.Claims.DivisionResults : Prop :=
  (∀ p ∈ divForms, ∀ (s : State) (d a b : Reg), Clear s [a, b] [d] →
    exec (p.1 d a b) s =
      Ends s (s.me.setMark d (.landing .longLatency (p.2 (s.me.readG a) (s.me.readG b)) none))) ∧
  (∀ (s : State) (k : Nat) (d : Reg) (x : Word), (s.strandAt k).mark d = .landing .longLatency x none →
    exec (.longLatencyResult k d) s = .next (s.setStrand k ((s.strandAt k).writeG d x)))

/-- R97: the quotient truncates towards zero, the remainder has the sign of the dividend, and the two fixed cases. -/
def Obligations.DivisionRule : Prop :=
  ∀ (a b : Word),
    (b = 0 → divSigned a b = BitVec.allOnes 64 ∧ remSigned a b = a ∧ divUnsigned a b = BitVec.allOnes 64 ∧
      remUnsigned a b = a) ∧
    (a = BitVec.intMin 64 → b = BitVec.allOnes 64 → divSigned a b = BitVec.intMin 64 ∧ remSigned a b = 0) ∧
    (b ≠ 0 → ¬(a = BitVec.intMin 64 ∧ b = BitVec.allOnes 64) →
      a.toInt = b.toInt * (divSigned a b).toInt + (remSigned a b).toInt ∧
      (remSigned a b).toInt.natAbs < b.toInt.natAbs ∧ 0 ≤ (remSigned a b).toInt * a.toInt) ∧
    (b ≠ 0 → a.toNat = b.toNat * (divUnsigned a b).toNat + (remUnsigned a b).toNat ∧
      (remUnsigned a b).toNat < b.toNat)

/-- R98: BFX and BFI complete, and what they write, bit by bit. -/
def Obligations.BitFields : Prop :=
  ∀ (s : State) (d a b : Reg),
    let p := fieldPos (s.me.readG b)
    let k := fieldLen (s.me.readG b)
    (Clear s [a, b] [d] → ∃ x : Word, exec (.bfx d a b) s = Ends s (s.me.writeG d x) ∧
      ∀ i < 64, x.getLsbD i =
        if i < k then (s.me.readG a).getLsbD (p + i)
        else decide (0 < k) && (s.me.readG b).getLsbD 16 && (s.me.readG a).getLsbD (p + k - 1)) ∧
    (Clear s [a, b, d] [d] → ∃ x : Word, exec (.bfi d a b) s = Ends s (s.me.writeG d x) ∧
      ∀ i < 64, x.getLsbD i =
        if p ≤ i ∧ i < p + k then (s.me.readG a).getLsbD (i - p) else (s.me.readG d).getLsbD i)

/-- R99 to R101, R202: every immediate form and both forms of LADDR; LADDR.near raises LOCAL_RANGE where the named core is not
on the die, and on a chiplet core. -/
def Sys2Proof.Claims.ImmediateResults : Prop :=
  ∀ (s : State) (d a : Reg) (i : BitVec 16) (n : BitVec 6) (die : BitVec 2) (row col : BitVec 4),
    (Clear s [a] [d] →
      (∀ p ∈ immForms, exec (p.1 d a i) s = Ends s (s.me.writeG d (p.2 (s.me.readG a) i))) ∧
      (∀ p ∈ shiftForms, exec (p.1 d a n) s = Ends s (s.me.writeG d (p.2 (s.me.readG a) n.toNat))) ∧
      exec (.laddr d a die row col) s = Ends s (s.me.writeG d
        (BitVec.allOnes 34 ++ die ++ row ++ col ++ (s.me.readG a).setWidth 20)) ∧
      (let y : Int := (s.myCoreNo / 16 % 16 : Nat) + row.toInt
       let x : Int := (s.myCoreNo % 16 : Nat) + col.toInt
       exec (.laddrNear d a row col) s =
         if s.myCoreNo < 1024 ∧ 0 ≤ y ∧ y ≤ 15 ∧ 0 ≤ x ∧ x ≤ 15 then
           Ends s (s.me.writeG d (BitVec.allOnes 34 ++ BitVec.ofNat 2 (s.myCoreNo / 256) ++ BitVec.ofInt 4 y ++
             BitVec.ofInt 4 x ++ (s.me.readG a).setWidth 20))
         else .next (s.take
           { code := 0x07, addr := s.me.readG a, info := (1#1 ++ 0#7 ++ row ++ col).setWidth 64 } s.me.pc))) ∧
    (Clear s [] [d] →
      exec (.ldhi d i) s = Ends s (s.me.writeG d (BitVec.ofInt 64 (i.toInt * 65536))) ∧
      exec (.adpc d i) s = Ends s (s.me.writeG d (s.me.pc + BitVec.ofInt 64 (i.toInt * 65536))))

/-- R92, R95 to R97, R99 to R101, R202: the integer forms with two sources or one, the immediate forms and both forms of LADDR, and the
divisions with the event that brings their results. -/
def Obligations.IntegerResults : Prop := AluResults ∧ ImmediateResults ∧ DivisionResults

/-- R102 to R104: where every branch and jump goes, and JALR's refusal of a target that is not a multiple of 4. -/
def Obligations.BranchTargets : Prop :=
  ∀ (s : State) (d a b : Reg) (m : MaskReg) (o : BitVec 16) (j : BitVec 21),
    (∀ p ∈ branchForms, Clear s [a, b] [] →
      (p.2 (s.me.readG a) (s.me.readG b) → exec (p.1 a b o) s = Goes s s.me (s.me.pc + BitVec.ofInt 64 (4 * o.toInt))) ∧
      (¬p.2 (s.me.readG a) (s.me.readG b) → exec (p.1 a b o) s = Goes s s.me (s.me.pc + 4))) ∧
    (∀ p ∈ maskBranchForms,
      (p.2 (fun e => (s.me.readM m).getLsbD e) s.me.vl →
        exec (p.1 m o) s = Goes s s.me (s.me.pc + BitVec.ofInt 64 (4 * o.toInt))) ∧
      (¬p.2 (fun e => (s.me.readM m).getLsbD e) s.me.vl → exec (p.1 m o) s = Goes s s.me (s.me.pc + 4))) ∧
    (Clear s [] [d] → exec (.jal d j) s =
      Goes s (s.me.writeG d (s.me.pc + 4)) (s.me.pc + BitVec.ofInt 64 (4 * j.toInt))) ∧
    (Clear s [a] [d] →
      ((ea s a o).toNat % 4 = 0 → exec (.jalr d a o) s = Goes s (s.me.writeG d (s.me.pc + 4)) (ea s a o)) ∧
      ((ea s a o).toNat % 4 ≠ 0 → exec (.jalr d a o) s = .next (s.take { code := 0x02, addr := ea s a o } s.me.pc)))

/-- R92, R93, R105: a load that passes its checks completes with its data on the way to g[d], or its poison; the data of another
core's scratchpad is asked for by a message; LOAD_DATA_RETURN writes the value, with a poison mark where the data is poisoned.  A load into an f
register completes with its data, and raises POISON where it is poisoned. -/
def Obligations.Loads : Prop :=
  (∀ f ∈ loadForms, ∀ (s s1 : State) (d a : Reg) (i : BitVec 16) (p : Place), Clear s [a] [d] →
    Yields (M.check s.myAgent .load (ea s a i) f.2.1 false 0) s p s1 →
    (∀ x bad s2, notFar s p → Yields (M.read p f.2.1) s1 (x, bad) s2 →
      exec (f.1 d a i) s = Done (s2.setMe (s2.me.setMark d
        (.landing .load (extended f.2.1 f.2.2 x) (if bad then some (ea s a i) else none))))) ∧
    (∀ c o s2, p = .carve c o → c ≠ s.myCoreNo →
      Yields (M.send (some c) c (.load (scratchKey c o) f.2.1 f.2.2 d false) false) s1 () s2 →
      exec (f.1 d a i) s = Done (s2.setMe (s2.me.setMark d (.waiting .load))))) ∧
  (∀ f ∈ floatLoadForms, ∀ (s s1 s2 : State) (d a : Reg) (i : BitVec 16) (p : Place) (x : Nat) (bad : Bool),
    Clear s [a] [] → Yields (M.check s.myAgent .load (ea s a i) f.2.1 false 0) s p s1 → notFar s p →
    Yields (M.read p f.2.1) s1 (x, bad) s2 →
    exec (f.1 d a i) s = if bad then .next (s2.take { code := 0x15, addr := ea s a i } s2.me.pc)
      else Done (s2.setMe (s2.me.writeF d (BitVec.ofNat 64 (f.2.2 + x))))) ∧
  (∀ (s : State) (k : Nat) (d : Reg) (x : Word) (p : Option Word), (s.strandAt k).mark d = .landing .load x p →
    exec (.loadDataReturn k d) s = .next (s.setStrand k (match p with
      | none => (s.strandAt k).writeG d x
      | some a => ((s.strandAt k).writeG d x).setMark d (.poison a))))

/-- R105, R106: a store into the strand's own scratchpad completes with exactly its bytes written there. -/
def Sys2Proof.Claims.OwnStores : Prop :=
  ∀ f ∈ storeForms, ∀ (s : State) (d a : Reg) (i : BitVec 16), Clear s (f.2.2.1 d a) [] → OwnCarve s (ea s a i) f.2.1 →
    ∃ t, exec (f.1 d a i) s = Done t ∧
      Stored s t (keyOf (ea s a i)) f.2.1 (f.2.2.2 s.me d).toNat ∧
      t = { s with mem := t.mem, poisoned := t.poisoned, l1 := t.l1, rdc := t.rdc, slices := t.slices }

/-- R105, R203: a store that passes its checks completes: it is performed in the core's own slice, or sent as a message that is
counted in USC, where USC has room. -/
def Sys2Proof.Claims.Stores : Prop :=
  ∀ f ∈ storeForms, ∀ (s s1 : State) (d a : Reg) (i : BitVec 16) (p : Place), Clear s (f.2.2.1 d a) [] →
    Yields (M.check s.myAgent .store (ea s a i) f.2.1 false 0) s p s1 → (∀ o, p ≠ .window o) →
    let v := (f.2.2.2 s.me d).toNat % 2 ^ (8 * f.2.1)
    (∀ how cells s2, s1.route p f.2.1 v = .here how cells → Yields (M.clearOf cells) s1 () s1 →
      Yields (M.takeLines cells) s1 () s2 →
      exec (f.1 d a i) s = Done (if cells.all fun c => decide (c.1 < 2 ^ 40) then s2.storeOwn s2.myCoreNo how cells
        else s2.writeCells cells)) ∧
    (∀ home dest how cells s2, s1.route p f.2.1 v = .away home dest how cells → s1.me.usc < 1024 →
      (home.isSome && s1.slottedNow) = false →
      Yields (M.send home dest (.store cells) true (tag := s1.tagOfCells how)) s1 () s2 →
      exec (f.1 d a i) s = Done s2)

namespace Sys2Proof.Claims

/-- Remote L-space writes of the strand that moves are slotted: it is a user-mode strand of a context whose SLOTPER.EN is 1 (R367). -/
def WritesSlotted (s : State) : Prop :=
  s.me.mode = .user ∧ s.me.kind.ofNoPartition = false ∧ isChiplet s.myCoreNo = false ∧
    (s.myCore.slotsAt s.gtime).slotper.getLsbD 16 = true

/-- The slot of the present tick (R366). -/
def slotNow (s : State) : Nat := s.gtime / 2 ^ ((s.myCore.slotsAt s.gtime).slotper.toNat % 16 - 6) % 64

/-- A slotted write of the strand that moves is refused: STRICT is 1, the tick's slot is not the core's, and the write follows no
SLOTWAIT, as at whose tick it is checked (R368, 19 R411). -/
def OutOfSlot (s : State) : Prop :=
  WritesSlotted s ∧ (s.myCore.slotsAt s.gtime).slotstrict.getLsbD 0 = true ∧ s.me.slotTie = none ∧
    (s.myCore.slotsAt s.gtime).slotmap.getLsbD (slotNow s) = false

/-- SLOT_VIOLATION (R368): the first address, the slot at issue, and GTIME. -/
def slotViolation (s : State) (addr : Word) : Exc :=
  { code := 0x0E, addr, info := BitVec.ofNat 64 (slotNow s + s.gtime % 2 ^ 32 * 2 ^ 32) }

/-- The state in which the strand that moves waits for slots with one message to another core (R367). -/
def AwaitsSlot (s : State) (va : Word) (c : Nat) (body : MsgBody) (release : Bool) : State :=
  let m : Msg :=
    { sender := s.senderOf s.cur, home := some c, dest := c, body, counted := true, slotted := true, release, user := true,
      bulk := true, prio := s.me.prio, fence := s.me.fenced }
  let t := s.setMyCore { s.myCore with slotPend := s.myCore.slotPend ++ [{ slot := s.mySlotNo, msg := m, elems := [(0, va)] }] }
  t.setMe { t.me with cond := .slotted }

/-- The reductions at memory (R303). -/
def redForms : List ((Reg → Reg → Scope → Bool → AmoWidth → Instr) × MemOp) :=
  [(.redadd, .add), (.redmin, .min), (.redmax, .max), (.redfadd, .fadd), (.redfmax, .fmax)]

end Sys2Proof.Claims

/-- R366 to R368: a slotted store or RED to another core outside the core's slots, under STRICT, raises SLOT_VIOLATION, and nothing is
sent; otherwise its message waits for a slot, and the strand with it. -/
def Sys2Proof.Claims.SlottedStores : Prop :=
  (∀ f ∈ storeForms, ∀ (s s1 : State) (d a : Reg) (i : BitVec 16) (c o : Nat), Clear s (f.2.2.1 d a) [] →
    Yields (M.check s.myAgent .store (ea s a i) f.2.1 false 0) s (.carve c o) s1 → c ≠ s1.myCoreNo → s1.me.usc < 1024 →
    let v := (f.2.2.2 s.me d).toNat % 2 ^ (8 * f.2.1)
    (OutOfSlot s1 → exec (f.1 d a i) s = .next (s1.take (slotViolation s1 (ea s a i)) s1.me.pc)) ∧
    (WritesSlotted s1 → ¬OutOfSlot s1 →
      exec (f.1 d a i) s = .next (AwaitsSlot s1 (ea s a i) c (.store (cellsOf (scratchKey c o) f.2.1 v)) false))) ∧
  (∀ f ∈ redForms, ∀ (s s1 : State) (a b : Reg) (sc : Scope) (r : Bool) (w : AmoWidth) (c o : Nat), Clear s [a, b] [] →
    let va := s.me.readG a
    let v : Word := BitVec.ofNat 64 ((s.me.readG b).toNat % 2 ^ (8 * amoSize w))
    Yields (M.check s.myAgent .red va (amoSize w) false 0) s (.carve c o) s1 → c ≠ s1.myCoreNo → s1.me.usc < 1024 →
    (OutOfSlot s1 → exec (f.1 a b sc r w) s = .next (s1.take (slotViolation s1 va) s1.me.pc)) ∧
    (WritesSlotted s1 → ¬OutOfSlot s1 →
      exec (f.1 a b sc r w) s = .next (AwaitsSlot s1 va c (.red f.2 w (scratchKey c o) v) r)))

/-- R105, R106, R203, R366 to R368: a scalar store that passes its checks completes: with exactly its bytes written in the strand's own
scratchpad, in its core's slice, or as a message that USC counts; one that is slotted waits for its slot, or is refused. -/
def Obligations.StoreForms : Prop := OwnStores ∧ Stores ∧ SlottedStores

/-- R106, R107, R199 to R201, R215, R225: the checks of an access in their order: alignment first; then, in L-space, the carve; an
access to L-space that passes both changes nothing; an address of no class has no translation, and one of G-space none where PTBASE is
not enabled. -/
def Sys2Proof.Claims.Checks : Prop :=
  ∀ (s : State) (a : Agent) (k : Acc) (va : Word) (n extra : Nat) (v : Bool),
    (va.toNat % n ≠ 0 → Traps (M.check a k va n v extra) s { code := 0x02, addr := va, info := BitVec.ofNat 64 extra } s) ∧
    (va.toNat % n = 0 → spaceOf va = .scratch →
      (s.carveFor a (localCore va) < localOff va + n →
        Traps (M.check a k va n v extra) s { code := 0x07, addr := va, info := BitVec.ofNat 64 extra } s) ∧
      (localOff va + n ≤ s.carveFor a (localCore va) →
        Yields (M.check a k va n v extra) s (.carve (localCore va) (localOff va)) s)) ∧
    (va.toNat % n = 0 → spaceOf va = .absent →
      Traps (M.check a k va n v extra) s (xlateExc a k va false 0 extra) s) ∧
    (va.toNat % n = 0 → spaceOf va = .sync → k = .fetch →
      Traps (M.check a k va n v extra) s (xlateExc a k va false 0 extra) s) ∧
    (va.toNat % n = 0 → spaceOf va = .global → bitAt a.ptbase 0 = false →
      Traps (M.check a k va n v extra) s (xlateExc a k va false 0 extra) s)

namespace Sys2Proof.Claims

/-! ## Translation -/

/-- The table entry at a location. -/
def entryAt (s : State) (key : Nat) : Word := BitVec.ofNat 64 (s.readMem key 8)

/-- The address of the entry of level `l` in a table (R226). -/
def entryPa (va : Word) (l table : Nat) : Nat := table + va.toNat % 2 ^ 48 / 2 ^ (39 - 9 * l) % 512 * 8

/-- The table that the walk of an address reads at a level: ROOT, or the one that a valid non-leaf entry of the level above names, whose
reserved fields are zero (R226, R227). -/
def TableAt (s : State) (ptbase va : Word) : Nat → Nat → Prop
  | 0, table => table = bitsNat ptbase 51 12 * 4096
  | l + 1, table => ∃ up key, TableAt s ptbase va l up ∧ locateHbm 0 (entryPa va l up) = some key ∧
      let e := entryAt s key
      pteValid e = true ∧ bitsNat e 3 1 = 0 ∧ bitsNat e 63 52 = 0 ∧ bitsNat e 11 4 = 0 ∧ table = ptePa e

/-- The walk does not come to a 64 KiB range that carries CONT and is no 64 KiB page (R227). -/
def OnePage (s : State) (a : Agent) (va : Word) : Prop :=
  spaceOf va = .sync ∨ ∀ key, (s.walkKeys a.ptbase va)[3]? = some key →
    contUniform (s.contGroup key) = true ∨ ∀ e ∈ s.contGroup key, ¬(pteValid e = true ∧ pteCont e = true)

/-- The walker's requests are on their way, and rim banks have been used; nothing else has changed but what the walk writes. -/
def Walked (s t : State) : Prop :=
  (∀ c, t.coreAt c = { s.coreAt c with portFree := (t.coreAt c).portFree, buckets := (t.coreAt c).buckets }) ∧
  t = { s with mem := t.mem, poisoned := t.poisoned, l1 := t.l1, rdc := t.rdc, slices := t.slices, tlb := t.tlb, cores := t.cores,
               sent := t.sent, fresh := t.fresh, traffic := t.traffic, rim := t.rim, rimUses := t.rimUses }

/-- The walk of an access has failed: no byte and no cached translation has changed. -/
def WalkedOnly (s t : State) : Prop := Walked s t ∧ t.mem = s.mem ∧ t.poisoned = s.poisoned ∧ t.tlb = s.tlb

/-- The walk of an access has ended at a leaf whose permissions allow it: A is set in the entry, and D for a write, no other byte has
changed, and the translation is cached. -/
def Admitted (s t : State) (a : Agent) (k : Acc) (va : Word) (key : Nat) : Prop :=
  Walked s t ∧ t.readMem key 8 = (s.readMem key 8 ||| (if k.isWrite then 0xC0 else 0x40)) ∧
  (∀ b, b < key ∨ key + 8 ≤ b → t.byteAt b = s.byteAt b) ∧ t.tlb.any (·.hits a va.toNat) = true

end Sys2Proof.Claims

/-- R225 to R227: the walk, level by level.  It ends at the table that is no local HBM, at an entry that is not valid, at a non-leaf entry
with a reserved field, and at a leaf: one at level 0, a large one in S-space, a misaligned one, and one with a reserved LOSSY or HOME
code fail.  That an address outside local HBM ignores HOME is R217. -/
def Sys2Proof.Claims.Walks : Prop :=
  ∀ (s : State) (ptbase va : Word) (l table : Nat), bitAt ptbase 0 = true → l ≤ 3 → TableAt s ptbase va l table →
    let w := s.walk ptbase va
    (locateHbm 0 (entryPa va l table) = none → w = .invalid l) ∧
    (∀ key, locateHbm 0 (entryPa va l table) = some key →
      let e := entryAt s key
      (pteValid e = false → w = .invalid l) ∧
      (pteValid e = true → l < 3 → bitsNat e 3 1 = 0 → bitsNat e 63 52 ≠ 0 ∨ bitsNat e 11 4 ≠ 0 → w = .invalid l) ∧
      (pteValid e = true → l = 3 ∨ bitsNat e 3 1 ≠ 0 →
        let size := 2 ^ (12 + 9 * (3 - l))
        w = if l = 0 ∨ spaceOf va = .sync ∧ l ≠ 3 ∨ ptePa e % size ≠ 0 ∨ pteLossy e = 3 ∨
            ptePa e < 0xC000000000 ∧ (pteHome e = 2 ∨ pteHome e = 3) then .invalid l
          else .leaf l size e key))

/-- R107, R215, R216, R220, R227, R228, R374, R375: an access to G-space or S-space that no TLB entry answers.  A walk that fails raises
its fault at its level; a leaf whose U, R, W or X bit does not allow the access raises ACCESS; otherwise A and D are set, and the access
goes to a window which accepts it, or to the byte of memory that the page, or its weight region's slot, names there, and raises ACCESS
where there is none and where a lossy page refuses it. -/
def Sys2Proof.Claims.Translations : Prop :=
  ∀ (s : State) (a : Agent) (k : Acc) (va : Word) (n extra : Nat) (v : Bool),
    va.toNat % n = 0 → s.tlb = [] → bitAt a.ptbase 0 = true → OnePage s a va →
    spaceOf va = .global ∨ spaceOf va = .sync ∧ k ≠ .fetch →
    let m := M.check a k va n v extra
    match s.walk a.ptbase va with
    | .invalid level => ∃ t, WalkedOnly s t ∧ Traps m s (xlateExc a k va false level extra) t
    | .leaf level size e key =>
      if (a.mode = .user → pteUser e = true) ∧ ∀ i ∈ k.needs, bitAt e i = true then
        ∃ t, Admitted s t a k va key ∧
          let pa := ptePa e / size * size + va.toNat % size
          let refused := k = .store ∧ pteLossy e ≠ 0 ∧ n < lossySize (pteLossy e) ∨ (k = .amo ∨ k = .red) ∧ pteLossy e ≠ 0
          let memory := fun (pa : Nat) (slot : Option (Nat × Nat)) =>
            match t.locate (pteHome e) pa with
            | none => Traps m s (xlateExc a k va true level extra) t
            | some loc => if refused then Traps m s (accessExc va extra) t
              else ∃ how : Caching, how.nc = pteNc e ∧ Yields m s (.mem loc (pteLossy e) how slot) t
          if spaceOf va = .sync then
            if 2 ^ 49 ≤ pa ∧ pa < 2 ^ 49 + windowsEnd then
              if v = false ∧ windowAccepts a.mode k (pa - 2 ^ 49) n = true then Yields m s (.window (pa - 2 ^ 49)) t
              else Traps m s (accessExc va extra) t
            else Traps m s (xlateExc a k va true level extra) t
          else match pteRegion e with
            | none => memory pa none
            | some r => match t.resolve a k r with
              | .error code => Traps m s (accessExc va (extra + r * 2 ^ 32 + code * 2 ^ 44)) t
              | .ok i => memory (pa + i * t.regionStride (a.part.getD 0) r) (some (r, i))
      else ∃ t, WalkedOnly s t ∧ Traps m s (xlateExc a k va true level extra) t

/-- R106, R107, R199 to R201, R215, R216, R220, R225 to R228: the checks of an access in their order, the walk of its address, its
permissions, A and D, and the place that it reaches. -/
def Obligations.AccessChecks : Prop := Checks ∧ Walks ∧ Translations

namespace Sys2Proof.Claims

/-! ## Floating point -/

/-- The exact number of a finite value. -/
def exactly (neg : Bool) (m : Nat) (e : Int) : Rat := (if neg then -1 else 1) * (m : Rat) * (2 : Rat) ^ e

/-- The FPU forms that round, and the result they round, from the values of f[a], f[b] and f[d] (R109). -/
def fpuForms : List ((Reg → Reg → Reg → Rnd → Prec → Instr) × (FpMode → FpVal → FpVal → FpVal → FpRaw)) :=
  [(.fadd, fun m a b _ => fpAdd m a b), (.fsub, fun m a b _ => fpAdd m a b.negate), (.fmul, fun _ a b _ => fpMul a b),
   (.fdiv, fun _ a b _ => fpDiv a b), (fun d a _ r p => .fsqrt d a r p, fun _ a _ _ => fpSqrt a),
   (.fma, fun m a b d => fpFma m a b d)]

/-- The FPU forms that choose one of their operands (R110). -/
def pickForms : List ((Reg → Reg → Reg → Prec → Instr) × (FpVal → FpVal → FpRaw)) := [(.fmin, fpMin), (.fmax, fpMax)]

/-- The FPU compares: whether they are quiet, and their relation (R111). -/
def compareForms : List ((Reg → Reg → Reg → Prec → Instr) × Bool × (FpVal → FpVal → Bool)) :=
  [(.feq, true, fpEqual), (.flt, false, fpLess), (.fle, false, fun a b => fpLess a b || fpEqual a b)]

/-- The rounding mode that a form's code selects: FSTAT's, or its own (R40, R108). -/
def roundingOf (s : State) (r : Rnd) : FpMode :=
  match r with
  | .dyn => s.me.rm
  | .rne => .rne
  | .rtz => .rtz
  | .rdn => .rdn
  | .rup => .rup

/-- How a floating-point form ends: FP_TRAP at an element where it would set an enabled flag, and otherwise with its results
written, its flags set and `n` random values drawn where it rounds by RSR (R66, R70). -/
def FpEnds (s : State) (fl : Flags) (elem : Nat) (mode : FpMode) (n : Nat) (t : Strand) : Out :=
  if s.me.trapEnables &&& fl ≠ 0 then
    .next (s.take { code := 0x14, info := BitVec.ofNat 64 (fl.toNat + elem % 1024 * 2 ^ 32) } s.me.pc)
  else Ends s { t with fstat := t.fstat ||| (fl.setWidth 64 <<< 8),
                       rngctr := t.rngctr + if mode = .rsr then BitVec.ofNat 64 n else 0 }

end Sys2Proof.Claims

/-- R108 to R111, R70: the FPU forms that round, choose or compare complete with their result, their flags and their draws, or
raise FP_TRAP. -/
def Sys2Proof.Claims.FpuResults : Prop :=
  ∀ (s : State) (d a b : Reg) (r : Rnd) (p : Prec),
    let f := formatOf p
    let x := s.me.fval f a
    let y := s.me.fval f b
    let m := roundingOf s r
    (∀ q ∈ fpuForms, exec (q.1 d a b r p) s =
      let res := fpDeliver f m (s.me.random 0).toNat (q.2 m x y (s.me.fval f d))
      FpEnds s res.2 0 m 1 (s.me.writeF d (box f res.1))) ∧
    (∀ q ∈ pickForms, exec (q.1 d a b p) s =
      let res := fpDeliver f .rne 0 (q.2 x y)
      FpEnds s res.2 0 .rne 1 (s.me.writeF d (box f res.1))) ∧
    (∀ q ∈ compareForms, Clear s [] [d] → exec (q.1 d a b p) s =
      if x.isNaN ∨ y.isNaN then
        FpEnds s (if q.2.1 then snanFlag [x, y] else flagNV) 0 .rne 1 (s.me.writeG d 0)
      else FpEnds s 0 0 .rne 1 (s.me.writeG d (if q.2.2 x y then 1 else 0)))

/-- R112 to R114, R80 to R82: sign forms, FCLASS, moves and conversions. -/
def Sys2Proof.Claims.FpuMoves : Prop :=
  ∀ (s : State) (d a b : Reg) (r : Rnd) (p : Prec) (m : SgnMode) (src dst : FType) (wide z : Bool),
    let f := formatOf p
    let bits := if wide then 64 else 32
    let lo : Int := if z then 0 else -2 ^ (bits - 1)
    let hi : Int := if z then 2 ^ bits - 1 else 2 ^ (bits - 1) - 1
    exec (.fsgn d a b m p) s = Ends s (s.me.writeF d (box f (signCode f m (unbox f (s.me.readF a)) (unbox f (s.me.readF b))))) ∧
    (Clear s [] [d] →
      exec (.fclass d a p) s = Ends s (s.me.writeG d (fclassWord p (s.me.readF a))) ∧
      exec (.fmvfg d a p) s = Ends s (s.me.writeG d (match p with
        | .f32 => ((s.me.readF a).setWidth 32).signExtend 64
        | .f64 => s.me.readF a)) ∧
      exec (.fcvti d a wide z r p) s =
        let res := fpToInt (roundingOf s r) (s.me.random 0).toNat lo hi (s.me.fval f a)
        FpEnds s res.2 0 (roundingOf s r) 1 (s.me.writeG d (BitVec.ofInt 64 res.1))) ∧
    (Clear s [a] [] →
      exec (.fmvgf d a p) s = Ends s (s.me.writeF d (match p with
        | .f32 => BitVec.allOnes 32 ++ (s.me.readG a).setWidth 32
        | .f64 => s.me.readG a)) ∧
      exec (.fcvtf d a wide z r p) s =
        let x := s.me.readG a
        let i : Int := if wide then (if z then x.toNat else x.toInt)
          else if z then (x.setWidth 32).toNat else (x.setWidth 32).toInt
        let res := fpDeliver f (roundingOf s r) (s.me.random 0).toNat (.exact ⟨decide (i < 0), i.natAbs, 0, false⟩ 0)
        FpEnds s res.2 0 (roundingOf s r) 1 (s.me.writeF d (box f res.1))) ∧
    exec (.fcvt d a dst src r) s =
      let res := fpDeliver (ftypeFormat dst) (roundingOf s r) (s.me.random 0).toNat (s.me.fval (ftypeFormat src) a).raw
      FpEnds s res.2 0 (roundingOf s r) 1 (s.me.writeF d (box (ftypeFormat dst) res.1))

/-- R70, R80 to R82, R108 to R114: every FPU form completes with its result, its flags and its draws. -/
def Obligations.FpuForms : Prop := FpuResults ∧ FpuMoves

/-- R109: the exact results that are rounded: a finite sum, product and fused product are exact; a quotient and a root are cut off
below their last bit, and marked where that changed them; a result is a NaN with NV for an invalid operation. -/
def Obligations.ExactArithmetic : Prop :=
  ∀ (mode : FpMode) (na nb nd : Bool) (ma mb md : Nat) (ea eb ed : Int),
    (∃ x, fpAdd mode (.fin na ma ea) (.fin nb mb eb) = .exact x 0 ∧ x.sticky = false ∧
      exactly x.neg x.m x.e = exactly na ma ea + exactly nb mb eb) ∧
    (∃ x, fpMul (.fin na ma ea) (.fin nb mb eb) = .exact x 0 ∧ x.sticky = false ∧
      exactly x.neg x.m x.e = exactly na ma ea * exactly nb mb eb) ∧
    (∃ x, fpFma mode (.fin na ma ea) (.fin nb mb eb) (.fin nd md ed) = .exact x 0 ∧ x.sticky = false ∧
      exactly x.neg x.m x.e = exactly na ma ea * exactly nb mb eb + exactly nd md ed) ∧
    (mb ≠ 0 → ∃ x, fpDiv (.fin na ma ea) (.fin nb mb eb) = .exact x 0 ∧ x.neg = (na != nb) ∧
      exactly false x.m x.e ≤ exactly false ma ea / exactly false mb eb ∧
      exactly false ma ea / exactly false mb eb < exactly false (x.m + 1) x.e ∧
      (x.sticky = false ↔ exactly false x.m x.e = exactly false ma ea / exactly false mb eb)) ∧
    (ma ≠ 0 → ma < 2 ^ 200 → ∃ x, fpSqrt (.fin false ma ea) = .exact x 0 ∧ x.neg = false ∧
      exactly false x.m x.e ^ 2 ≤ exactly false ma ea ∧ exactly false ma ea < exactly false (x.m + 1) x.e ^ 2 ∧
      (x.sticky = false ↔ exactly false x.m x.e ^ 2 = exactly false ma ea)) ∧
    fpMul (.inf na) (.fin nb 0 eb) = .nan flagNV ∧ fpAdd mode (.inf na) (.inf (!na)) = .nan flagNV ∧
    fpDiv (.fin na 0 ea) (.fin nb 0 eb) = .nan flagNV ∧ fpDiv (.inf na) (.inf nb) = .nan flagNV ∧
    (ma ≠ 0 → fpDiv (.fin na ma ea) (.fin nb 0 eb) = .inf (na != nb) flagDZ ∧ fpSqrt (.fin true ma ea) = .nan flagNV)

/-- R64, R65: a magnitude m * 2^e rounded to a multiple of 2^q: RNE takes the nearest, and of two as near the even one; RTZ cuts
off; RDN and RUP go down and up; RSR goes up where the random word lies below the fraction cut off. -/
def Sys2Proof.Claims.RoundingModes : Prop :=
  ∀ (r m sh : Nat) (neg : Bool) (e : Int),
    let n := fun mode => roundedMultiple (roundAt mode r false ⟨neg, m, e, false⟩ (e + sh))
    (2 * (n .rne * 2 ^ sh) ≤ 2 * m + 2 ^ sh ∧ 2 * m ≤ 2 * (n .rne * 2 ^ sh) + 2 ^ sh ∧
      (2 * (n .rne * 2 ^ sh) = 2 * m + 2 ^ sh ∨ 2 * m = 2 * (n .rne * 2 ^ sh) + 2 ^ sh → n .rne % 2 = 0)) ∧
    n .rtz = m / 2 ^ sh ∧
    n .rdn = (if neg then (m + 2 ^ sh - 1) / 2 ^ sh else m / 2 ^ sh) ∧
    n .rup = (if neg then m / 2 ^ sh else (m + 2 ^ sh - 1) / 2 ^ sh) ∧
    n .rsr = m / 2 ^ sh + (if r % 2 ^ 32 < m % 2 ^ sh * 2 ^ 32 / 2 ^ sh then 1 else 0) ∧
    ((roundAt .rne r false ⟨neg, m, e, false⟩ (e + sh)).2.2 = true ↔ m % 2 ^ sh ≠ 0)

/-- R56, R64: a finite value or infinity that one of the four fixed formats represents is delivered into it as its own code, in
every rounding mode and without a flag. -/
def Sys2Proof.Claims.RepresentableUnchanged : Prop :=
  ∀ f ∈ [fp64, fp32, fp16, bf16], ∀ (mode : FpMode) (r code : Nat), code < 2 ^ f.width →
    (f.value code).isNaN = false → fpDeliver f mode r (f.value code).raw = (code, 0)

/-- R56, R64, R65: the four rounding modes, and that a value which its format represents is delivered as it is. -/
def Obligations.Rounding : Prop := RoundingModes ∧ RepresentableUnchanged

/-- R57, R58: a NaN operand gives the default NaN, with NV where some operand is a signalling NaN; a register whose upper bits are
not all ones reads as the default NaN in a narrower format, and a boxed code reads back as itself. -/
def Obligations.NansAndBoxes : Prop :=
  (∀ f ∈ [fp64, fp32, fp16, bf16], ∀ (mode : FpMode) (r : Nat) (x y : FpVal), x.isNaN ∨ y.isNaN →
    ∀ op ∈ [fpAdd mode, fpMul, fpDiv], fpDeliver f mode r (op x y) =
      (f.nanCode.getD 0, if x = .nan true ∨ y = .nan true then flagNV else 0)) ∧
  (∀ f ∈ [fp32, fp16, bf16], ∀ (w : Word) (code : Nat),
    (w.toNat / 2 ^ f.width ≠ 2 ^ (64 - f.width) - 1 → unbox f w = f.nanCode.getD 0) ∧
    (code < 2 ^ f.width → unbox f (box f code) = code))

namespace Sys2Proof.Claims

/-! ## Vectors -/

/-- Bit `e` of mask register `r`; m0 is all ones (R125). -/
def maskBit (t : Strand) (r : MaskReg) (e : Nat) : Bool := r == 0 || (t.m[r.toNat]).getLsbD e

/-- Element `e` is active: below VL and VLMAX, and its bit of the mask register is one (R5, R126). -/
abbrev Active (t : Strand) (vlmax : Nat) (k : MaskReg) (e : Nat) : Prop := e < t.vl ∧ e < vlmax ∧ maskBit t k e = true

/-- The register `v` holds `f e` in each active element of `w` bits, and what `old` holds in every other (R129). -/
def Elementwise (t : Strand) (w vlmax : Nat) (k : MaskReg) (old v : VWord) (f : Nat → Nat) : Prop :=
  ∀ e < 8192 / w, (Active t vlmax k e → velem w v e = f e) ∧ (¬Active t vlmax k e → velem w v e = velem w old e)

/-- Element `e` of v[r] read as signed. -/
def selem (t : Strand) (w : Nat) (r : Reg) (e : Nat) : Int := (BitVec.ofNat w (velem w (t.readV r) e)).toInt

/-- An integer modulo 2^w. -/
def modulo (w : Nat) (x : Int) : Nat := (x % 2 ^ w).toNat

/-- The result of an integer element form, from the width, the unsigned elements of d, a and b, and the signed elements of a and
b. -/
abbrev IntOp := Nat → Nat → Nat → Nat → Int → Int → Nat

/-- The integer forms in their vector and scalar spellings, and their element results (R132). -/
def vintForms : List ((Reg → Reg → Reg → MaskReg → Et → Instr) × (Reg → Reg → Reg → MaskReg → Et → Instr) × IntOp) :=
  [(.vadd, .vaddScalar, fun w _ a b _ _ => (a + b) % 2 ^ w),
   (.vsub, .vsubScalar, fun w _ a b _ _ => modulo w ((a : Int) - b)),
   (.vmul, .vmulScalar, fun w _ a b _ _ => a * b % 2 ^ w),
   (.vmulh, .vmulhScalar, fun w _ _ _ a b => modulo w (a * b / 2 ^ w)),
   (.vmulhz, .vmulhzScalar, fun w _ a b _ _ => a * b / 2 ^ w),
   (.vmin, .vminScalar, fun _ _ x y a b => if a ≤ b then x else y),
   (.vmax, .vmaxScalar, fun _ _ x y a b => if b ≤ a then x else y),
   (.vminz, .vminzScalar, fun _ _ a b _ _ => min a b),
   (.vmaxz, .vmaxzScalar, fun _ _ a b _ _ => max a b),
   (.vand, .vandScalar, fun _ _ a b _ _ => a &&& b), (.vor, .vorScalar, fun _ _ a b _ _ => a ||| b),
   (.vxor, .vxorScalar, fun _ _ a b _ _ => a ^^^ b),
   (.vshl, .vshlScalar, fun w _ a b _ _ => a * 2 ^ (b % w) % 2 ^ w),
   (.vshr, .vshrScalar, fun w _ a b _ _ => a / 2 ^ (b % w)),
   (.vsar, .vsarScalar, fun w _ _ y a _ => modulo w (a / 2 ^ (y % w))),
   (.vmacc, .vmaccScalar, fun w d a b _ _ => (d + a * b) % 2 ^ w)]

/-- The saturating forms, and their exact results (R133). -/
def vsatForms : List ((Reg → Reg → Reg → MaskReg → Et → Instr) × (Reg → Reg → Reg → MaskReg → Et → Instr) × (Int → Int → Int)) :=
  [(.vsadd, .vsaddScalar, (· + ·)), (.vssub, .vssubScalar, (· - ·))]

/-- The integer element types. -/
def intEts : List Et := [.b8, .b16, .b32, .b64]

end Sys2Proof.Claims

/-- R126, R129, R131, R132: every integer element form, with a vector or a scalar operand, writes each active element with its
result, keeps every other element, and changes nothing else. -/
def Sys2Proof.Claims.VectorIntegers : Prop :=
  ∀ p ∈ vintForms, ∀ e ∈ intEts, ∀ (s : State) (d a b : Reg) (k : MaskReg),
    let w := 8 * e.bytes
    let res := fun (y : Nat → Nat) (j : Nat) => p.2.2 w (velem w (s.me.readV d) j) (velem w (s.me.readV a) j) (y j)
      (selem s.me w a j) (BitVec.ofNat w (y j)).toInt
    (VClear s [] [] [d, a, b] → ∃ v, exec (p.1 d a b k e) s = Ends s (s.me.writeV d v) ∧
      Elementwise s.me w (1024 / e.bytes) k (s.me.readV d) v (res fun j => velem w (s.me.readV b) j)) ∧
    (VClear s [b] [] [d, a] → ∃ v, exec (p.2.1 d a b k e) s = Ends s (s.me.writeV d v) ∧
      Elementwise s.me w (1024 / e.bytes) k (s.me.readV d) v (res fun _ => (s.me.readG b).toNat % 2 ^ w))

/-- R133, R134: the saturating forms clamp the exact result to the signed range and set SAT where that changes some active
element; VDOT4 adds the products of four signed bytes to each 32-bit element. -/
def Sys2Proof.Claims.VectorSaturation : Prop :=
  ∀ (s : State) (d a b : Reg) (k : MaskReg),
    (∀ p ∈ vsatForms, ∀ e ∈ intEts,
      let w := 8 * e.bytes
      let lo : Int := -2 ^ (w - 1)
      let hi : Int := 2 ^ (w - 1) - 1
      let body := fun (i : Instr) (y : Nat → Int) => ∃ v sat, exec i s =
          Ends s ((s.me.writeV d v).addFlags (if sat then flagSAT else 0)) ∧
        Elementwise s.me w (1024 / e.bytes) k (s.me.readV d) v (fun j =>
          modulo w (max lo (min hi (p.2.2 (selem s.me w a j) (y j))))) ∧
        (sat = true ↔ ∃ j, Active s.me (1024 / e.bytes) k j ∧
          (p.2.2 (selem s.me w a j) (y j) < lo ∨ hi < p.2.2 (selem s.me w a j) (y j)))
      (VClear s [] [] [d, a, b] → body (p.1 d a b k e) (selem s.me w b)) ∧
      (VClear s [b] [] [d, a] → body (p.2.1 d a b k e) fun _ => ((s.me.readG b).setWidth w).toInt)) ∧
    (let byte := fun (x i : Nat) => (BitVec.ofNat 8 (x / 2 ^ (8 * i))).toInt
     let body := fun (i : Instr) (y : Nat → Nat) => ∃ v, exec i s = Ends s (s.me.writeV d v) ∧
        Elementwise s.me 32 256 k (s.me.readV d) v fun j =>
          let x := velem 32 (s.me.readV a) j
          modulo 32 (selem s.me 32 d j + byte x 0 * byte (y j) 0 + byte x 1 * byte (y j) 1 + byte x 2 * byte (y j) 2 +
            byte x 3 * byte (y j) 3)
     (VClear s [] [] [d, a, b] → body (.vdot4 d a b k) (velem 32 (s.me.readV b))) ∧
     (VClear s [b] [] [d, a] → body (.vdot4Scalar d a b k) fun _ => (s.me.readG b).toNat % 2 ^ 32))

/-- R135: VWIDEN extends each element of half the width; VNARROW clamps or cuts each element of twice the width. -/
def Sys2Proof.Claims.VectorWidths : Prop :=
  ∀ (s : State) (d a : Reg) (k : MaskReg), VClear s [] [] [d, a] →
    (∀ e ∈ [Et.b16, .b32, .b64], ∀ z : Bool,
      let w := 8 * e.bytes
      ∃ v, exec (.vwiden d a z k e) s = Ends s (s.me.writeV d v) ∧
        Elementwise s.me w (1024 / e.bytes) k (s.me.readV d) v fun j =>
          if z then velem (w / 2) (s.me.readV a) j else modulo w (selem s.me (w / 2) a j)) ∧
    (∀ e ∈ [Et.b8, .b16, .b32], ∀ m : BitVec 2,
      let w := 8 * e.bytes
      let x := fun j => velem (2 * w) (s.me.readV a) j
      let y := fun j => selem s.me (2 * w) a j
      let cut := fun j => match m.toNat with
        | 0 => ((x j % 2 ^ w : Nat) : Int)
        | 1 => max (-2 ^ (w - 1)) (min (2 ^ (w - 1) - 1) (y j))
        | 2 => min (2 ^ w - 1) (x j : Int)
        | _ => max 0 (min (2 ^ w - 1) (y j))
      ∃ v sat, exec (.vnarrow d a m k e) s = Ends s ((s.me.writeV d v).addFlags (if sat then flagSAT else 0)) ∧
        Elementwise s.me w (512 / e.bytes) k (s.me.readV d) v (fun j => modulo w (cut j)) ∧
        (sat = true ↔ ∃ j, Active s.me (512 / e.bytes) k j ∧
          (m.toNat = 1 ∧ cut j ≠ y j ∨ m.toNat = 2 ∧ cut j ≠ x j ∨ m.toNat = 3 ∧ cut j ≠ y j)))

/-- R126, R129, R131 to R135: the integer element forms, the saturating ones and those that change the width. -/
def Obligations.VectorIntegerForms : Prop := VectorIntegers ∧ VectorSaturation ∧ VectorWidths

/-- R128: SETVL and SETVLI grant the lesser of the request and VLMAX, in VL and in g[d]. -/
def Obligations.VectorLength : Prop :=
  ∀ (s : State) (d a : Reg) (u : BitVec 11) (e : Et),
    (VClear s [a] [d] [] →
      let n := min (s.me.readG a).toNat (1024 / e.bytes)
      exec (.setvl d a e) s = Ends s { s.me.writeG d (BitVec.ofNat 64 n) with vl := n }) ∧
    (VClear s [] [d] [] →
      let n := min u.toNat (1024 / e.bytes)
      exec (.setvli d u e) s = Ends s { s.me.writeG d (BitVec.ofNat 64 n) with vl := n })

namespace Sys2Proof.Claims

/-- A floating-point vector form ends: with the results' codes in the active elements of v[d], their flags, and a draw for each
position, or with FP_TRAP at the lowest element that raised an enabled flag, and no element written (R130, R70). -/
def FloatVector (s : State) (i : Instr) (d : Reg) (w vlmax : Nat) (k : MaskReg) (mode : FpMode) (res : Nat → Nat × Flags) : Prop :=
  ∃ v fl at_, exec i s = FpEnds s fl at_ mode (min s.me.vl vlmax) (s.me.writeV d v) ∧
    Elementwise s.me w vlmax k (s.me.readV d) v (fun j => (res j).1) ∧
    (∀ b < 8, fl.getLsbD b = true ↔ ∃ j, Active s.me vlmax k j ∧ (res j).2.getLsbD b = true) ∧
    (s.me.trapEnables &&& fl ≠ 0 → Active s.me vlmax k at_ ∧ s.me.trapEnables &&& (res at_).2 ≠ 0 ∧
      ∀ j < at_, Active s.me vlmax k j → s.me.trapEnables &&& (res j).2 = 0)

/-- The floating-point element types. -/
def floatEts : List Et := [.b64, .f16, .bf16, .f32]

/-- The value of element `j` of v[r]. -/
def fpElem (t : Strand) (e : Et) (r : Reg) (j : Nat) : FpVal := (t.etFormat e).value (velem (8 * e.bytes) (t.readV r) j)

/-- The forms that round, in their vector and scalar spellings, and their results from the values of d, a and b (R136). -/
def vfltForms : List ((Reg → Reg → Reg → MaskReg → Et → Instr) × (Reg → Reg → Reg → MaskReg → Et → Instr) ×
    (FpMode → FpVal → FpVal → FpVal → FpRaw)) :=
  [(.vfadd, .vfaddScalar, fun m _ a b => fpAdd m a b), (.vfsub, .vfsubScalar, fun m _ a b => fpAdd m a b.negate),
   (.vfmul, .vfmulScalar, fun _ _ a b => fpMul a b), (.vfdiv, .vfdivScalar, fun _ _ a b => fpDiv a b),
   (.vfma, .vfmaScalar, fun m d a b => fpFma m a b d), (.vfms, .vfmsScalar, fun m d a b => fpFma m a b d.negate),
   (.vfnma, .vfnmaScalar, fun m d a b => fpFma m a.negate b d)]

/-- The forms that choose an operand (R136). -/
def vpickForms : List ((Reg → Reg → Reg → MaskReg → Et → Instr) × (Reg → Reg → Reg → MaskReg → Et → Instr) ×
    (FpVal → FpVal → FpRaw)) := [(.vfmin, .vfminScalar, fpMin), (.vfmax, .vfmaxScalar, fpMax)]

end Sys2Proof.Claims

/-- R130, R131, R136, R138: the floating-point element forms, with a vector or a scalar operand. -/
def Sys2Proof.Claims.VectorFloats : Prop :=
  ∀ e ∈ floatEts, ∀ (s : State) (d a b : Reg) (k : MaskReg),
    let f := s.me.etFormat e
    let w := 8 * e.bytes
    let n := 1024 / e.bytes
    let r := fun j => (s.me.random j).toNat
    let x := fpElem s.me e a
    let y := fpElem s.me e b
    let z := s.me.fval f b
    let sign := fun (p q : Nat) => p % 2 ^ (w - 1) + (if p / 2 ^ (w - 1) % 2 ≠ q / 2 ^ (w - 1) % 2 then 2 ^ (w - 1) else 0)
    (VClear s [] [] [d, a, b] →
      (∀ p ∈ vfltForms, FloatVector s (p.1 d a b k e) d w n k s.me.rm fun j =>
        fpDeliver f s.me.rm (r j) (p.2.2 s.me.rm (fpElem s.me e d j) (x j) (y j))) ∧
      (∀ p ∈ vpickForms, FloatVector s (p.1 d a b k e) d w n k .rne fun j => fpDeliver f .rne 0 (p.2.2 (x j) (y j))) ∧
      FloatVector s (.vfsgn d a b k e) d w n k .rne (fun j => (sign (velem w (s.me.readV a) j) (velem w (s.me.readV b) j), 0))) ∧
    (VClear s [] [] [d, a] →
      (∀ p ∈ vfltForms, FloatVector s (p.2.1 d a b k e) d w n k s.me.rm fun j =>
        fpDeliver f s.me.rm (r j) (p.2.2 s.me.rm (fpElem s.me e d j) (x j) z)) ∧
      (∀ p ∈ vpickForms, FloatVector s (p.2.1 d a b k e) d w n k .rne fun j => fpDeliver f .rne 0 (p.2.2 (x j) z)) ∧
      FloatVector s (.vfsgnScalar d a b k e) d w n k .rne
        (fun j => (sign (velem w (s.me.readV a) j) (unbox f (s.me.readF b)), 0)) ∧
      FloatVector s (.vfsqrt d a k e) d w n k s.me.rm (fun j => fpDeliver f s.me.rm (r j) (fpSqrt (x j))))

/-- R137: the estimates.  A result that is neither subnormal nor an overflow is 1 / |a|, or 1 / sqrt(a), cut off to at most 9
significant bits. -/
def Sys2Proof.Claims.Estimates : Prop :=
  (∀ e ∈ floatEts, ∀ (s : State) (d a : Reg) (k : MaskReg), VClear s [] [] [d, a] →
    FloatVector s (.vfrcpe d a k e) d (8 * e.bytes) (1024 / e.bytes) k .rne
      (fun j => reciprocal (s.me.etFormat e) (fpElem s.me e a j)) ∧
    FloatVector s (.vfrsqe d a k e) d (8 * e.bytes) (1024 / e.bytes) k .rne
      (fun j => reciprocalRoot (s.me.etFormat e) (fpElem s.me e a j))) ∧
  (∀ f ∈ [fp64, fp32, fp16, bf16], ∀ (neg : Bool) (m : Nat) (e : Int), m ≠ 0 → m < 2 ^ (f.man + 1) →
    let p := min 9 (f.man + 1)
    let top := topExp m e
    (f.minExp ≤ -top - 1 → -top < f.bias → ∃ t i, t < 2 ^ p ∧ 2 ^ (p - 1) ≤ t ∧
      ∃ code, reciprocal f (.fin neg m e) = (code, 0) ∧
        (∃ m' e', f.value code = .fin neg m' e' ∧ exactly false m' e' = exactly false t i) ∧
        exactly false t i ≤ 1 / exactly false m e ∧ 1 / exactly false m e < exactly false (t + 1) i) ∧
    (2 * f.minExp ≤ -top - 2 → -top < 2 * f.bias - 2 → ∃ t i, t < 2 ^ p ∧ 2 ^ (p - 1) ≤ t ∧
      ∃ code, reciprocalRoot f (.fin false m e) = (code, 0) ∧
        (∃ m' e', f.value code = .fin false m' e' ∧ exactly false m' e' = exactly false t i) ∧
        exactly false t i ^ 2 ≤ 1 / exactly false m e ∧ 1 / exactly false m e < exactly false (t + 1) i ^ 2))

/-- R130, R131, R136 to R138: the floating-point element forms and the estimates. -/
def Obligations.VectorFloatForms : Prop := VectorFloats ∧ Estimates

namespace Sys2Proof.Claims

/-- The exponent of a finite value, floor(log2 |x|). -/
def expOf : FpVal → Int
  | .fin _ m e => e + m.log2
  | _ => 0

/-- The rounding mode that a vector conversion's code selects (R79). -/
def vroundingOf (s : State) (q : VRnd) : FpMode :=
  match q with
  | .dyn => s.me.rm
  | .rne => .rne
  | .rtz => .rtz
  | .rsr => .rsr

end Sys2Proof.Claims

/-- R81 to R85: the vector conversions, the scaling, and the quantisation into an MX block with its scale bytes. -/
def Sys2Proof.Claims.VectorConversions : Prop :=
  ∀ (s : State) (d a b : Reg) (k : MaskReg) (q : VRnd),
    let mode := vroundingOf s q
    let r := fun j => (s.me.random j).toNat
    (VClear s [] [] [d, a] →
      (∀ e ∈ floatEts, ∀ src ∈ floatEts ++ [.nf], (src = .nf → nfmtValid (s.me.nfmtAt 0) = true) →
        FloatVector s (.vfcvt d a q src k e) d (8 * e.bytes) (1024 / max src.bytes e.bytes) k mode fun j =>
          fpDeliver (s.me.etFormat e) mode (r j) (fpElem s.me src a j).raw) ∧
      (∀ src ∈ floatEts, nfmtValid (s.me.nfmtAt 0) = true →
        FloatVector s (.vfcvt d a q src k .nf) d 8 (1024 / src.bytes) k mode fun j =>
          fpDeliver (nfmtFormat (s.me.nfmtAt 0)) mode (r j) (fpElem s.me src a j).raw) ∧
      (∀ e ∈ floatEts, ∀ (z : Bool) (w : IntW),
        let bits := 8 * w.bytes
        let lo : Int := if z then 0 else -2 ^ (bits - 1)
        let hi : Int := if z then 2 ^ bits - 1 else 2 ^ (bits - 1) - 1
        FloatVector s (.vfcvti d a q z w k e) d bits (1024 / max e.bytes w.bytes) k mode (fun j =>
          let p := fpToInt mode (r j) lo hi (fpElem s.me e a j)
          (modulo bits p.1, p.2)) ∧
        FloatVector s (.vfcvtf d a q z w k e) d (8 * e.bytes) (1024 / max e.bytes w.bytes) k mode (fun j =>
          let x : Int := if z then velem bits (s.me.readV a) j else selem s.me bits a j
          fpDeliver (s.me.etFormat e) mode (r j) (.exact ⟨decide (x < 0), x.natAbs, 0, false⟩ 0))) ∧
      (∀ e ∈ floatEts, FloatVector s (.vfscaleScalar d a b k e) d (8 * e.bytes) (1024 / e.bytes) k s.me.rm fun j =>
        fpDeliver (s.me.etFormat e) s.me.rm (r j) (scaleBy (fpElem s.me e a j) (((s.me.readF b).setWidth 32).toInt)))) ∧
    (VClear s [] [] [d, a, b] → ∀ e ∈ floatEts,
      FloatVector s (.vfscale d a b k e) d (8 * e.bytes) (1024 / e.bytes) k s.me.rm fun j =>
        fpDeliver (s.me.etFormat e) s.me.rm (r j) (scaleBy (fpElem s.me e a j) (selem s.me (8 * e.bytes) b j)))

/-- R85, R70: VFMXQ writes the code of every active element, scaled by its block's power of two, and the scale byte of every block that
has an active element; a block with a NaN or an infinity has the scale byte 0xFF and sets NV, which counts as raised by each of its
active elements (log entry 26).  A format that is not valid raises ILLEGAL with reason code 3. -/
def Sys2Proof.Claims.BlockQuantisation : Prop :=
  ∀ e ∈ floatEts, ∀ (s : State) (d a : Reg) (k : MaskReg) (n : BitVec 2) (q : VRnd), VClear s [] [] [d, a] →
    (nfmtValid (s.me.nfmtAt n.toNat) = false → ∀ w, encode (.vfmxq d a q n k e) = some w →
      exec (.vfmxq d a q n k e) s =
        .next (s.take { code := 0x01, info := BitVec.ofNat 64 (3 * 2 ^ 32 + w.toNat) } s.me.pc)) ∧
    (nfmtValid (s.me.nfmtAt n.toNat) = true →
    let mode := vroundingOf s q
    let f := nfmtFormat (s.me.nfmtAt n.toNat)
    let blk := if s.me.mxblk = 1 then 16 else if s.me.mxblk = 2 then 64 else 32
    let act := Active s.me (1024 / e.bytes) k
    let x := fpElem s.me e a
    let special := fun (i : Nat) => ∃ j, act j ∧ j / blk = i ∧ (x j).notFinite = true
    let top := fun (i : Nat) (t : Int) => (∃ j, act j ∧ j / blk = i ∧ (x j).isZero = false ∧ expOf (x j) = t) ∧
      ∀ j, act j → j / blk = i → (x j).isZero = false → expOf (x j) ≤ t
    let emax := expOf (f.magnitude false f.maxCode)
    ∃ (v : VWord) (fl : Flags) (at_ : Nat) (res : Nat → Nat × Flags),
      exec (.vfmxq d a q n k e) s = FpEnds s fl at_ mode (min s.me.vl (1024 / e.bytes)) (s.me.writeV d v) ∧
      (∀ b < 8, fl.getLsbD b = true ↔ ∃ j, act j ∧ (res j).2.getLsbD b = true) ∧
      (s.me.trapEnables &&& fl ≠ 0 → act at_ ∧ s.me.trapEnables &&& (res at_).2 ≠ 0 ∧
        ∀ j < at_, act j → s.me.trapEnables &&& (res j).2 = 0) ∧
      (∀ i < 32, (∀ j, act j → j / blk ≠ i) → velem 8 v (992 + i) = velem 8 (s.me.readV d) (992 + i)) ∧
      ∀ j < 992,
        (¬act j → velem 8 v j = velem 8 (s.me.readV d) j) ∧
        (act j → velem 8 v j = (res j).1 % 256) ∧
        (act j → special (j / blk) → res j = (f.nanCode.getD 0, flagNV) ∧ velem 8 v (992 + j / blk) = 255) ∧
        (act j → ¬special (j / blk) → ∃ sc : Int, velem 8 v (992 + j / blk) = (sc + 127).toNat ∧
          res j = mxElem f mode (s.me.random j).toNat (x j) sc ∧
          ((∀ i, act i → i / blk = j / blk → (x i).isZero = true) → sc = 0) ∧
          (∀ t, top (j / blk) t → sc = max (-127) (min 127 (t - emax)))))

/-- R85, R67, R71: one finite element of a block: a zero keeps its sign; a value that the format's sign bit cannot hold becomes zero, with NV
and NX; one that rounds above the greatest code takes that code, with SAT and NX; and no other sets SAT. -/
def Sys2Proof.Claims.BlockElements : Prop :=
  ∀ (f : FpFormat) (mode : FpMode) (r : Nat) (neg : Bool) (m : Nat) (e sc : Int),
    let x := mxElem f mode r (.fin neg m e) sc
    let p := fpRound { f.unbounded with signed := false } mode r ⟨neg, m, e - sc, false⟩
    (m = 0 → x = (f.withSign neg 0, 0)) ∧
    (m ≠ 0 → f.signed = false → neg = true → x = (0, flagNV ||| flagNX)) ∧
    (m ≠ 0 → (neg = true → f.signed = true) →
      x = if f.maxCode < p.1 then (f.withSign neg f.maxCode, flagSAT ||| flagNX) else (f.withSign neg p.1, p.2))

/-- R60, R81 to R85: the vector conversions, the scaling, and the quantisation into MX blocks; a conversion to or from a narrow format
that is not valid raises ILLEGAL with reason code 3. -/
def Obligations.VectorConversionForms : Prop :=
  VectorConversions ∧ BlockQuantisation ∧ BlockElements ∧
  (∀ (s : State) (d a : Reg) (q : VRnd) (src e : Et) (k : MaskReg) (w : IWord), VClear s [] [] [d, a] →
    src = .nf ∨ e = .nf → nfmtValid (s.me.nfmtAt 0) = false → encode (.vfcvt d a q src k e) = some w →
    exec (.vfcvt d a q src k e) s =
      .next (s.take { code := 0x01, info := BitVec.ofNat 64 (3 * 2 ^ 32 + w.toNat) } s.me.pc))

namespace Sys2Proof.Claims

/-- The mask `x` holds `f e` for each active element, and what m[d] held in every other bit (R139). -/
def Maskwise (t : Strand) (vlmax : Nat) (k d : MaskReg) (x : MWord) (f : Nat → Prop) : Prop :=
  ∀ e < 1024, (Active t vlmax k e → (x.getLsbD e = true ↔ f e)) ∧ (¬Active t vlmax k e → x.getLsbD e = maskBit t d e)

/-- The integer compares, from the width and the elements (R139). -/
def vcmpForms : List ((MaskReg → Reg → Reg → MaskReg → Et → Instr) × (Nat → Nat → Int → Int → Prop)) :=
  [(.vcmpeq, fun a b _ _ => a = b), (.vcmpne, fun a b _ _ => a ≠ b), (.vcmplt, fun _ _ a b => a < b),
   (.vcmple, fun _ _ a b => a ≤ b), (.vcmplo, fun a b _ _ => a < b), (.vcmpls, fun a b _ _ => a ≤ b)]

/-- The floating-point compares: whether they are quiet, and their relation (R139). -/
def vfcmpForms : List ((MaskReg → Reg → Reg → MaskReg → Et → Instr) × Bool × (FpVal → FpVal → Bool)) :=
  [(.vfcmpeq, true, fpEqual), (.vfcmplt, false, fpLess), (.vfcmple, false, fun a b => fpLess a b || fpEqual a b)]

/-- The forms on two masks (R140). -/
def maskForms : List ((MaskReg → MaskReg → MaskReg → MaskReg → Et → Instr) × (Bool → Bool → Bool)) :=
  [(.mand, fun a b => a && b), (.mor, fun a b => a || b), (.mxor, fun a b => a ^^ b), (.mandn, fun a b => a && !b)]

end Sys2Proof.Claims

/-- R139: the compares write the active bits of m[d], and keep every other bit. -/
def Sys2Proof.Claims.Compares : Prop :=
  ∀ (s : State) (d : MaskReg) (a b : Reg) (k : MaskReg), d ≠ 0 → VClear s [] [] [a, b] →
    (∀ p ∈ vcmpForms, ∀ e ∈ intEts, ∃ x, exec (p.1 d a b k e) s = Ends s (s.me.writeM d x) ∧
      Maskwise s.me (1024 / e.bytes) k d x fun j =>
        p.2 (velem (8 * e.bytes) (s.me.readV a) j) (velem (8 * e.bytes) (s.me.readV b) j) (selem s.me (8 * e.bytes) a j)
          (selem s.me (8 * e.bytes) b j)) ∧
    (∀ p ∈ vfcmpForms, ∀ e ∈ floatEts,
      let nan := fun j => (fpElem s.me e a j).isNaN = true ∨ (fpElem s.me e b j).isNaN = true
      let loud := fun j => if p.2.1 then fpElem s.me e a j = .nan true ∨ fpElem s.me e b j = .nan true else nan j
      ∃ x nv at_, exec (p.1 d a b k e) s = FpEnds s (if nv then flagNV else 0) at_ .rne 0 (s.me.writeM d x) ∧
        (nv = true ↔ ∃ j, Active s.me (1024 / e.bytes) k j ∧ loud j) ∧
        (s.me.trapEnables.getLsbD 0 = true → nv = true → Active s.me (1024 / e.bytes) k at_ ∧ loud at_ ∧
          ∀ j < at_, Active s.me (1024 / e.bytes) k j → ¬loud j) ∧
        Maskwise s.me (1024 / e.bytes) k d x fun j => ¬nan j ∧ p.2.2 (fpElem s.me e a j) (fpElem s.me e b j) = true)

/-- R140 to R142: the forms on masks, their counts and first bits, and the moves of 64 bits. -/
def Sys2Proof.Claims.Masks : Prop :=
  ∀ (s : State) (d a b k : MaskReg) (g h : Reg) (e : Et),
    let vlmax := 1024 / e.bytes
    let set := fun j => Active s.me vlmax k j ∧ maskBit s.me a j = true
    (d ≠ 0 → VClear s [] [] [] →
      (∀ p ∈ maskForms, ∃ x, exec (p.1 d a b k e) s = Ends s (s.me.writeM d x) ∧
        Maskwise s.me vlmax k d x fun j => p.2 (maskBit s.me a j) (maskBit s.me b j) = true) ∧
      (∃ x, exec (.mtofirst d a k e) s = Ends s (s.me.writeM d x) ∧
        Maskwise s.me vlmax k d x fun j => ∀ i < j, ¬set i) ∧
      (∃ x, exec (.mbefore d a k e) s = Ends s (s.me.writeM d x) ∧
        Maskwise s.me vlmax k d x fun j => ∀ i ≤ j, ¬set i)) ∧
    (VClear s [] [g] [] →
      (∃ n, exec (.mpopc g a k e) s = Ends s (s.me.writeG g (BitVec.ofNat 64 n)) ∧
        n = (List.range 1024).countP fun j =>
          decide (j < s.me.vl) && decide (j < vlmax) && maskBit s.me k j && maskBit s.me a j) ∧
      (∀ j, set j → (∀ i < j, ¬set i) → exec (.mfirst g a k e) s = Ends s (s.me.writeG g (BitVec.ofNat 64 j))) ∧
      ((∀ j, ¬set j) → exec (.mfirst g a k e) s = Ends s (s.me.writeG g (BitVec.allOnes 64)))) ∧
    (d ≠ 0 → VClear s [g, h] [] [] →
      exec (.mfromg d g h) s = Ends s (s.me.writeM d (
        let i := (s.me.readG h).toNat % 16
        ((s.me.readM d) &&& ~~~((BitVec.allOnes 64).setWidth 1024 <<< (64 * i))) |||
          ((s.me.readG g).setWidth 1024 <<< (64 * i))))) ∧
    (VClear s [h] [g] [] →
      exec (.mtog g a h) s = Ends s (s.me.writeG g ((s.me.readM a).extractLsb' (64 * ((s.me.readG h).toNat % 16)) 64)))

/-- R139 to R142: the compares, and the forms on masks. -/
def Obligations.MaskForms : Prop := Compares ∧ Masks

namespace Sys2Proof.Claims

/-- How many active elements lie below `i`. -/
def activeBelow (t : Strand) (vlmax : Nat) (k : MaskReg) (i : Nat) : Nat := (List.range i).countP fun j => Active t vlmax k j

/-- Element `i` of v[r], or zero where it is not below VLMAX. -/
def elemBelow (t : Strand) (w : Nat) (r : Reg) (i : Nat) : Nat := if i < 8192 / w then velem w (t.readV r) i else 0

/-- The node at a height of the fixed tree over the elements: the nodes at twice its place and the one after combine; one that is
absent leaves the other (R77).  The flags are those of all the operations below. -/
def treeNode (op : Nat → Nat → Nat × Flags) (leaf : Nat → Option Nat) : Nat → Nat → Option (Nat × Flags)
  | 0, i => (leaf i).map (·, 0)
  | h + 1, i =>
    match treeNode op leaf h (2 * i), treeNode op leaf h (2 * i + 1) with
    | some x, some y => some ((op x.1 y.1).1, x.2 ||| y.2 ||| (op x.1 y.1).2)
    | some x, none => some x
    | none, y => y

/-- The lowest present leaf of a node. -/
def lowLeaf (leaf : Nat → Option Nat) (h i : Nat) : Option Nat :=
  ((List.range (2 ^ h)).map (i * 2 ^ h + ·)).find? fun j => (leaf j).isSome

/-- An enabled flag of a reduction counts as raised by a leaf: it is raised at a node whose lowest present leaf that is, or at the join
with the start value, and that leaf is the lowest of all (R70). -/
def RaisedAt (s : State) (op : Nat → Nat → Nat × Flags) (leaf : Nat → Option Nat) (start x : Nat) : Prop :=
  (∃ h i u v, h < 10 ∧ treeNode op leaf h (2 * i) = some u ∧ treeNode op leaf h (2 * i + 1) = some v ∧
    s.me.trapEnables &&& (op u.1 v.1).2 ≠ 0 ∧ lowLeaf leaf (h + 1) i = some x) ∨
  (∃ r, treeNode op leaf 10 0 = some r ∧ s.me.trapEnables &&& (op start r.1).2 ≠ 0 ∧ lowLeaf leaf 10 0 = some x)

/-- The nf code of a value keeps its format's low bits (R62). -/
def splatValue (s : State) (e : Et) (b : Reg) : Nat :=
  match e with
  | .f16 | .bf16 | .f32 => unbox (s.me.etFormat e) (s.me.readF b)
  | .nf => (s.me.readG b).toNat % 2 ^ (nfmtFormat (s.me.nfmtAt 0)).width
  | _ => (s.me.readG b).toNat % 2 ^ (8 * e.bytes)

/-- The element types whose elements are read from f registers. -/
def boxedEts : List Et := [.f16, .bf16, .f32]

end Sys2Proof.Claims

/-- R143: the movement forms. -/
def Sys2Proof.Claims.Movements : Prop :=
  ∀ (s : State) (d a b : Reg) (k : MaskReg) (e : Et),
    let w := 8 * e.bytes
    let n := 1024 / e.bytes
    let x := velem w (s.me.readV a)
    let y := velem w (s.me.readV b)
    let off := (s.me.readG b).toNat
    let moves := fun (i : Instr) (f : Nat → Nat) => ∃ v, exec i s = Ends s (s.me.writeV d v) ∧
      Elementwise s.me w n k (s.me.readV d) v f
    (VClear s [b] [] [d, a] →
      moves (.vslideup d a b k e) (fun j => if off ≤ j then x (j - off) else velem w (s.me.readV d) j) ∧
      moves (.vslidedn d a b k e) (fun j => elemBelow s.me w a (j + off)) ∧
      moves (.vbfly d a b k e) (fun j => x (j ^^^ (off % n)))) ∧
    (VClear s [] [] [d, a, b] →
      moves (.vperm d a b k e) (fun j => elemBelow s.me w a (y j)) ∧
      moves (.vzip d a b k e) (fun j => if j % 2 = 0 then x (j / 2) else y (j / 2)) ∧
      moves (.vunzip d a b k e) (fun j =>
        if 2 * j < min s.me.vl n then x (2 * j) else y (2 * j - min s.me.vl n)))

/-- R144 to R147: compress, expand, the running count, the merge, the splat and the extraction. -/
def Sys2Proof.Claims.Packing : Prop :=
  ∀ (s : State) (d a b : Reg) (m k : MaskReg) (e : Et),
    let w := 8 * e.bytes
    let n := 1024 / e.bytes
    let x := velem w (s.me.readV a)
    let old := velem w (s.me.readV d)
    let len := min s.me.vl n
    (VClear s [] [] [d, a] →
      (∃ v, exec (.vcompress d a k e) s = Ends s (s.me.writeV d v) ∧
        (∀ j, Active s.me n k j → velem w v (activeBelow s.me n k j) = x j) ∧
        ∀ j < n, activeBelow s.me n k len ≤ j → velem w v j = old j) ∧
      (∃ v, exec (.vexpand d a k e) s = Ends s (s.me.writeV d v) ∧
        Elementwise s.me w n k (s.me.readV d) v fun j => x (activeBelow s.me n k j))) ∧
    (VClear s [] [] [d] → ∃ v, exec (.viota d m k e) s = Ends s (s.me.writeV d v) ∧
      Elementwise s.me w n k (s.me.readV d) v fun j =>
        ((List.range j).countP fun i => Active s.me n k i && maskBit s.me m i) % 2 ^ w) ∧
    (VClear s [] [] [d, a, b] → ∃ v, exec (.vmerge d a b k e) s = Ends s (s.me.writeV d v) ∧
      ∀ j < n, velem w v j =
        if j < len then (if maskBit s.me k j then x j else velem w (s.me.readV b) j) else old j) ∧
    (VClear s (if e ∈ boxedEts then [] else [b]) [] [d] → (e = .nf → nfmtValid (s.me.nfmtAt 0) = true) →
      ∃ v, exec (.vsplat d b k e) s = Ends s (s.me.writeV d v) ∧
        Elementwise s.me w n k (s.me.readV d) v fun _ => splatValue s e b) ∧
    (VClear s [b] (if e ∈ boxedEts then [] else [d]) [a] →
      let z := elemBelow s.me w a (s.me.readG b).toNat
      exec (.vextr d a b e) s = Ends s (if e ∈ boxedEts then s.me.writeF d (box (s.me.etFormat e) z)
        else s.me.writeG d (BitVec.ofInt 64 (BitVec.ofNat w z).toInt)))

/-- R148 to R150, R70, R77: the reductions with their start, the element that a trap of one names, and the running sum. -/
def Sys2Proof.Claims.Reductions : Prop :=
  ∀ (s : State) (d a b : Reg) (k : MaskReg),
    (∀ e ∈ intEts,
      let w := 8 * e.bytes
      let n := 1024 / e.bytes
      let act := Active s.me n k
      let sum := fun i => (((List.range i).filter fun j => act j).map (velem w (s.me.readV a))).sum
      let bounds := fun (i : Instr) (le : Int → Int → Prop) => ∃ x, exec i s = Ends s (s.me.writeG d x) ∧
        le (s.me.readG b).toInt x.toInt ∧ (∀ j, act j → le (selem s.me w a j) x.toInt) ∧
        (x = s.me.readG b ∨ ∃ j, act j ∧ x.toInt = selem s.me w a j)
      (VClear s [b] [d] [a] →
        exec (.vredsum d a b k e) s =
          Ends s (s.me.writeG d (s.me.readG b + BitVec.ofInt 64 (BitVec.ofNat w (sum (min s.me.vl n))).toInt)) ∧
        bounds (.vredmax d a b k e) (· ≤ ·) ∧ bounds (.vredmin d a b k e) (· ≥ ·)) ∧
      (VClear s [b] [] [d, a] → ∃ v, exec (.vscan d a b k e) s = Ends s (s.me.writeV d v) ∧
        Elementwise s.me w n k (s.me.readV d) v fun j => ((s.me.readG b).toNat + sum (j + 1)) % 2 ^ w)) ∧
    (VClear s [] [] [a] → ∀ e ∈ floatEts, ∀ p ∈ ([(.vfredsum, fpAdd), (.vfredmax, fun _ => fpMax)] :
        List ((Reg → Reg → Reg → MaskReg → Et → Instr) × (FpMode → FpVal → FpVal → FpRaw))),
      let f := s.me.etFormat e
      let mode := if s.me.rm = .rsr then .rne else s.me.rm
      let op := fun x y => fpDeliver f mode 0 (p.2 mode (f.value x) (f.value y))
      let start := unbox f (s.me.readF b)
      let leaf := fun j => if Active s.me (1024 / e.bytes) k j then some (velem (8 * e.bytes) (s.me.readV a) j) else none
      ∃ at_, (exec (p.1 d a b k e) s =
        match treeNode op leaf 10 0 with
        | none => Ends s (s.me.writeF d (box f start))
        | some r => FpEnds s (r.2 ||| (op start r.1).2) at_ .rne 0 (s.me.writeF d (box f (op start r.1).1))) ∧
        (∀ r, treeNode op leaf 10 0 = some r → s.me.trapEnables &&& (r.2 ||| (op start r.1).2) ≠ 0 →
          RaisedAt s op leaf start at_ ∧ ∀ j < at_, ¬RaisedAt s op leaf start j))

/-- R77, R143 to R150: the movement and packing forms, the reductions and the running sum. -/
def Obligations.MovementForms : Prop := Movements ∧ Packing ∧ Reductions

/-- R152 to R155, R161: hashing, partitioning, conflicts, byte matches and random elements. -/
def Sys2Proof.Claims.DatabaseForms : Prop :=
  ∀ (s : State) (d a b : Reg) (m k : MaskReg) (e : Et),
    let w := 8 * e.bytes
    let n := 1024 / e.bytes
    let x := velem w (s.me.readV a)
    let writes := fun (i : Instr) (f : Nat → Nat) => ∃ v, exec i s = Ends s (s.me.writeV d v) ∧
      Elementwise s.me w n k (s.me.readV d) v f
    (VClear s [] [] [d, a, b] → writes (.vhash d a b k e) fun j =>
      (mix (BitVec.ofNat 64 (x j) ^^^ BitVec.ofNat 64 (velem w (s.me.readV b) j))).toNat % 2 ^ w) ∧
    (VClear s [b] [] [d, a] → writes (.vpart d a b k e) fun j =>
      ((BitVec.ofNat w (x j)).extractLsb' ((s.me.readG b).extractLsb' 0 6).toNat ((s.me.readG b).extractLsb' 8 4).toNat).toNat) ∧
    (VClear s [] [] [d, a] → writes (.vconflict d a k e) fun j =>
      ((List.range j).countP fun i => Active s.me n k i && x i == x j) % 2 ^ w) ∧
    (m ≠ 0 → VClear s [b] [] [a] → ∃ y, exec (.vmatchb m a b k) s = Ends s (s.me.writeM m y) ∧
      Maskwise s.me 1024 k m y fun j => ∃ i < 8, velem 8 (s.me.readV a) j = ((s.me.readG b).extractLsb' (8 * i) 8).toNat) ∧
    (VClear s [] [] [d] → ∃ v, exec (.vrand d k e) s =
        Ends s { s.me.writeV d v with rngctr := s.me.rngctr + BitVec.ofNat 64 (min s.me.vl n) } ∧
      Elementwise s.me w n k (s.me.readV d) v fun j => (s.me.random j).toNat % 2 ^ w)

namespace Sys2Proof.Claims

/-- Stub `i` of a string form takes part: both its elements lie below VL, its mask bit is one, and FMASK does not leave it out
(R156, R159). -/
def StubActive (t : Strand) (k : MaskReg) (i : Nat) : Prop :=
  i < min t.vl 128 / 2 ∧ maskBit t k (2 * i) = true ∧ (t.fmask = 0 ∨ t.fmask.getLsbD (2 * i) = true)

/-- The stubs that take part. -/
def stubTodo (t : Strand) (k : MaskReg) : List Nat :=
  (List.range (min t.vl 128 / 2)).filter fun i => maskBit t k (2 * i) && (t.fmask == 0 || t.fmask.getLsbD (2 * i))

/-- Byte `j` that `read` reads is `z j`, below `n`, in every state of a kind that reading leaves of that kind. -/
def KeptReads (P : State → Prop) (read : Nat → M Nat) (n : Nat) (z : Nat → Nat) : Prop :=
  ∀ j < n, z j < 256 ∧ ∀ t, P t → ∃ u, Yields (read j) t (z j) u ∧ P u

/-- Chunk `c` of a string of length `n`, its bytes little-endian (R157). -/
def chunkOf (bytes : Nat → Nat) (n c : Nat) : Nat :=
  ((List.range (min (n - 8 * c) 8)).map fun i => bytes (8 * c + i) * 256 ^ i).sum

/-- The string forms: their g and v registers, and what they do with stub `i` (R157). -/
def stringForms (t : Strand) (d a b : Reg) (k : MaskReg) : List (Instr × List Reg × (Nat → M (Nat × Nat))) :=
  let x := stubAt (t.readV a)
  [(.vstrcmp d a b k, [d, a, b], fun i => M.stubCompare (x i) (stubAt (t.readV b) i) (2 * i)),
   (.vstrhash d a k, [d, a], fun i => do
     return ((← M.stubHash (x i) (2 * i) (((x i).len + 7) / 8) 0 (BitVec.ofNat 64 (x i).len)).toNat, 0)),
   (.vstrld d a k, [d, a], fun i => do
     return (← M.textBytes (x i).text (2 * i) (min (x i).len 8) 0, velem 64 (t.readV a) (2 * i + 1)))]

end Sys2Proof.Claims

/-- R156, R157, R159: a string form attempts every stub that takes part.  Those that succeed write two elements of v[d], every other
element is undisturbed, and bit 2i of FMASK names each stub i that fails; it completes where none does, and otherwise raises the exception
of the least of them. -/
def Sys2Proof.Claims.StringForms : Prop :=
  ∀ (s s1 : State) (d a b : Reg) (k : MaskReg) (rs : List (Except Exc (Nat × Nat))),
    ∀ q ∈ stringForms s.me d a b k, VClear s [] [] q.2.1 →
    let todo := stubTodo s.me k
    Yields (todo.mapM fun i => M.attemptElem false (2 * i) (stubAt (s.me.readV a) i).text (q.2.2 i)) (begun s) rs s1 →
    (∀ err : Exc, Except.error err ∈ rs → err.code ≠ 0x09) →
    ∃ (v : VWord) (mask : MWord),
      let t := { s1.me.writeV d v with fmask := mask, timer := none }
      (∀ (p i : Nat) (r : Nat × Nat), todo[p]? = some i → rs[p]? = some (Except.ok r) →
        velem 64 v (2 * i) = r.1 % 2 ^ 64 ∧ velem 64 v (2 * i + 1) = r.2 % 2 ^ 64) ∧
      (∀ e < 128, (∀ p : Nat, todo[p]? = some (e / 2) → ∃ err : Exc, rs[p]? = some (Except.error err)) →
        velem 64 v e = velem 64 (s1.me.readV d) e) ∧
      (∀ j < 1024, mask.getLsbD j = true ↔
        ∃ (p i : Nat) (err : Exc), j = 2 * i ∧ todo[p]? = some i ∧ rs[p]? = some (Except.error err)) ∧
      ((∀ err : Exc, Except.error err ∉ rs) → exec q.1 s = Done (s1.setMe t)) ∧
      (∀ (p : Nat) (err : Exc), rs[p]? = some (Except.error err) → (∀ q : Nat, q < p → ∀ er : Exc, rs[q]? ≠ some (Except.error er)) →
        exec q.1 s = .next ((s1.setMe t).take err t.pc))

/-- R156, R157: what the string forms do with a stub, where the bytes that they need can be read: the comparison in the order of bytes,
the hash over chunks of eight bytes, and the reloading of the first eight. -/
def Sys2Proof.Claims.Stubs : Prop :=
  ∀ (P : State → Prop) (t : State) (x y : Stub) (elem : Nat) (zx zy : Nat → Nat), P t →
    let n := min x.len y.len
    (KeptReads P (M.stubByte x · elem) n zx → KeptReads P (M.stubByte y · elem) n zy →
      ∃ u r, Yields (M.stubCompare x y elem) t r u ∧ P u ∧
        (∀ j < n, (∀ l < j, zx l = zy l) → zx j ≠ zy j → r = (if zx j < zy j then 2 ^ 64 - 1 else 1, j)) ∧
        ((∀ j < n, zx j = zy j) →
          r = (if x.len = y.len then 0 else if x.len < y.len then 2 ^ 64 - 1 else 1, n))) ∧
    (KeptReads P (M.stubByte x · elem) x.len zx →
      ∃ u, Yields (M.stubHash x elem ((x.len + 7) / 8) 0 (BitVec.ofNat 64 x.len)) t
        ((List.range ((x.len + 7) / 8)).foldl (fun h c => mix (h ^^^ BitVec.ofNat 64 (chunkOf zx x.len c))) (BitVec.ofNat 64 x.len))
        u ∧ P u) ∧
    (KeptReads P (M.textByte x.text · elem) (min x.len 8) zx →
      ∃ u, Yields (M.textBytes x.text elem (min x.len 8) 0) t (chunkOf zx x.len 0) u ∧ P u)

/-- R152 to R157, R161: the database forms, random elements, and the string forms. -/
def Obligations.DataForms : Prop := DatabaseForms ∧ StringForms ∧ Stubs

namespace Sys2Proof.Claims

/-! ## Vector memory -/

/-- An ordered load: the instruction, the g registers it reads, the v registers it writes, and the addresses of the fields of
element `j`, one for each register (R206). -/
structure OrderedLoad where
  instr : Instr
  reads : List Reg
  regs  : List Reg
  addrs : Nat → List Word

/-- The ordered loads on given operands. -/
def orderedLoads (s : State) (d a x : Reg) (f : BitVec 3) (k : MaskReg) (e : Et) : List OrderedLoad :=
  let sz := e.bytes
  let base := s.me.readG a
  [⟨.vld d a k e, [a], [d], fun j => [base + BitVec.ofNat 64 (j * sz)]⟩,
   ⟨.vldff d a k e, [a], [d], fun j => [base + BitVec.ofNat 64 (j * sz)]⟩,
   ⟨.vlds d a x k e, [a, x], [d], fun j => [base + s.me.readG x * BitVec.ofNat 64 j]⟩,
   ⟨.vldseg d a f k e, [a], (List.range (f.toNat + 1)).map fun i => d + BitVec.ofNat 5 i,
     fun j => (List.range (f.toNat + 1)).map fun i => base + BitVec.ofNat 64 ((j * (f.toNat + 1) + i) * sz)⟩]

/-- The elements that an ordered form has still to do: active, and not below ESTART (R208). -/
def orderedTodo (t : Strand) (n : Nat) (k : MaskReg) : List Nat :=
  (List.range n).filter fun j => Active t n k j && decide (t.estart ≤ j)

/-- The registers `regs` hold, in the elements `els`, the fields that were read, and every other element of every v register is as
it was. -/
def Loaded (t u : Strand) (w : Nat) (regs : List Reg) (els : List Nat) (xs : List (List Nat)) : Prop :=
  (∀ c < regs.length, ∀ p < els.length,
    velem w (u.readV (regs.getD c 0)) (els.getD p 0) = (xs.getD p []).getD c 0 % 2 ^ w) ∧
  ∀ r, ∀ j < 8192 / w, r ∉ regs ∨ j ∉ els → velem w (u.readV r) j = velem w (t.readV r) j

/-- An ordered store: the instruction, the registers it reads, and the addresses and values of the fields of element `j`. -/
structure OrderedStore where
  instr  : Instr
  reads  : List Reg
  regs   : List Reg
  fields : Nat → List (Word × Nat)

/-- The ordered stores on given operands (R206). -/
def orderedStores (s : State) (d a x : Reg) (f : BitVec 3) (k : MaskReg) (e : Et) : List OrderedStore :=
  let sz := e.bytes
  let base := s.me.readG a
  let elem := fun r j => velem (8 * sz) (s.me.readV r) j
  [⟨.vst d a k e, [a], [d], fun j => [(base + BitVec.ofNat 64 (j * sz), elem d j)]⟩,
   ⟨.vsts d a x k e, [a, x], [d], fun j => [(base + s.me.readG x * BitVec.ofNat 64 j, elem d j)]⟩,
   ⟨.vstseg d a f k e, [a], (List.range (f.toNat + 1)).map fun i => d + BitVec.ofNat 5 i,
     fun j => (List.range (f.toNat + 1)).map fun i =>
       (base + BitVec.ofNat 64 ((j * (f.toNat + 1) + i) * sz), elem (d + BitVec.ofNat 5 i) j)⟩]

/-- The elements that an indexed form has still to do: active, and of FMASK where that is not zero (R209). -/
def indexedTodo (t : Strand) (n : Nat) (k : MaskReg) : List Nat :=
  (List.range n).filter fun j => Active t n k j && (t.fmask == 0 || t.fmask.getLsbD j)

/-- The address of element `j` of an indexed form with indices of v[x]. -/
def indexAddr (t : Strand) (a x : Reg) (sz j : Nat) : Word :=
  t.readG a + BitVec.ofNat 64 (velem (8 * sz) (t.readV x) j * sz)

/-- The elements that an indexed form attempts, of those that it has still to do, and the length to which it cuts VL: the least element
out of L-space range that is not the first cuts the others off (R209). -/
def RangeCut (s : State) (addr : Nat → Word) (sz : Nat) (todo set : List Nat) (vl : Option Nat) : Prop :=
  (vl = none ∧ set = todo ∧ ∀ j ∈ todo, s.outOfRange (addr j) sz = false) ∨
  ∃ p c, 0 < p ∧ todo[p]? = some c ∧ s.outOfRange (addr c) sz = true ∧
    (∀ j ∈ todo.take p, s.outOfRange (addr j) sz = false) ∧ set = todo.take p ∧ vl = some c

/-- The elements that succeeded, with their results. -/
def succeeded {α : Type} (set : List Nat) (rs : List (Except Exc α)) : List (Nat × α) :=
  (set.zip rs).filterMap fun x => match x.2 with
    | .ok v => some (x.1, v)
    | .error _ => none

/-- An indexed form ends in a strand: FMASK names the elements that failed, and VL is cut where it was to be; it completes where none
failed, and otherwise raises the exception of the least of them (R209). -/
def IndexedEnds {α : Type} (s t : State) (i : Instr) (u : Strand) (set : List Nat) (vl : Option Nat) (rs : List (Except Exc α)) : Prop :=
  (∀ j < 1024, u.fmask.getLsbD j = true ↔ ∃ (p : Nat) (err : Exc), set[p]? = some j ∧ rs[p]? = some (Except.error err)) ∧
  u.vl = vl.getD t.me.vl ∧
  ((∀ err : Exc, Except.error err ∉ rs) → exec i s = Done (t.setMe u)) ∧
  (∀ (p : Nat) (err : Exc), rs[p]? = some (Except.error err) → (∀ q : Nat, q < p → ∀ er : Exc, rs[q]? ≠ some (Except.error er)) →
    exec i s = .next ((t.setMe u).take err u.pc))

/-- The cells of a write. -/
def cellsIn : Route → List (Nat × Byte)
  | .here _ cells | .away _ _ _ cells => cells

/-- The messages and writes of a store, from what its elements write. -/
def batchesOf (els : List Nat) (rss : List (List Route)) : List Batch :=
  groupStreams (els.zip (rss.map fun rs => { streams := [rs] }))

/-- How many of them are messages. -/
def awayIn (bs : List Batch) : Nat := (bs.filter (·.route.isAway)).length

/-- The element sizes of the vector memory forms. -/
def memEts : List Et := [.b8, .b16, .b32, .b64]

end Sys2Proof.Claims

/-- R205, R206, R208: an ordered load all of whose elements can be read completes: each active element from ESTART on is written
with what was read there, no other, and ESTART becomes 0. -/
def Sys2Proof.Claims.OrderedLoads : Prop :=
  ∀ e ∈ memEts, ∀ (s s1 : State) (d a x : Reg) (f : BitVec 3) (k : MaskReg) (xs : List (List Nat)),
    ∀ q ∈ orderedLoads s d a x f k e, VClear s q.reads [] q.regs → (s.me.readG x).toNat % e.bytes = 0 →
      let todo := orderedTodo s.me (min s.me.vl (1024 / e.bytes)) k
      Yields (todo.mapM fun j => atElem j (M.fieldsRead e.bytes j (q.addrs j))) (begun s) xs s1 →
      ∃ t : Strand, exec q.instr s = Done (s1.setMe t) ∧ t = { s1.me with v := t.v, estart := 0, timer := none } ∧
        Loaded s1.me t (8 * e.bytes) q.regs todo xs

/-- R208: an ordered load whose element j fails keeps the elements before it.  Out of L-space range, and for VLDFF on any fault, an
element that is not the first trims VL to j and the load completes; otherwise ESTART becomes j and the exception is raised. -/
def Sys2Proof.Claims.OrderedFaults : Prop :=
  ∀ e ∈ memEts, ∀ (s s1 s2 : State) (d a x : Reg) (f : BitVec 3) (k : MaskReg) (xs : List (List Nat)) (p : Nat) (err : Exc),
    ∀ q ∈ orderedLoads s d a x f k e, VClear s q.reads [] q.regs → (s.me.readG x).toNat % e.bytes = 0 →
      let todo := orderedTodo s.me (min s.me.vl (1024 / e.bytes)) k
      let j := todo.getD p 0
      p < todo.length → err.code ≠ 0x09 →
      Yields ((todo.take p).mapM fun j => atElem j (M.fieldsRead e.bytes j (q.addrs j))) (begun s) xs s1 →
      Traps (atElem j (M.fieldsRead e.bytes j (q.addrs j))) s1 err s2 →
      let first : Prop := q.instr = .vldff d a k e
      ∃ t : Strand, Loaded s2.me t (8 * e.bytes) q.regs (todo.take p) xs ∧
        (p ≠ 0 ∧ (first ∨ err.code = 0x07) → t = { s2.me with v := t.v, vl := j, estart := 0, timer := none } ∧
          exec q.instr s = Done (s2.setMe t)) ∧
        (p = 0 ∨ ¬first ∧ err.code ≠ 0x07 → t = { s2.me with v := t.v, estart := j } ∧
          exec q.instr s = .next ((s2.setMe t).take err t.pc))

/-- R209: a gather attempts every element of its set; those that succeed are written, FMASK names those that fail, and the
exception of the least of them is raised; where none fails the gather completes and FMASK is zero.  The least element out of range cuts
the set and VL, and where it is the first of all it raises LOCAL_RANGE with no effect. -/
def Sys2Proof.Claims.Gathers : Prop :=
  ∀ e ∈ memEts, ∀ (s s1 : State) (d a x : Reg) (k : MaskReg) (set : List Nat) (vl : Option Nat) (rs : List (Except Exc Nat)),
    VClear s [a] [] [d, x] →
    let todo := indexedTodo s.me (min s.me.vl (1024 / e.bytes)) k
    let addr := indexAddr s.me a x e.bytes
    (∀ j, todo.head? = some j → s.outOfRange (addr j) e.bytes = true →
      exec (.vldx d a x k e) s = .next (s.take { code := 0x07, addr := addr j, info := BitVec.ofNat 64 j } s.me.pc)) ∧
    (RangeCut s addr e.bytes todo set vl →
      Yields (set.mapM fun j => M.attemptElem false j (addr j) (M.elemRead (addr j) e.bytes j)) (begun s) rs s1 →
      (∀ err : Exc, Except.error err ∈ rs → err.code ≠ 0x09) →
      ∃ t : Strand, t = { s1.me with v := t.v, fmask := t.fmask, vl := t.vl, timer := none } ∧
        (∀ p < set.length, ∀ y, rs[p]? = some (Except.ok y) →
          velem (8 * e.bytes) (t.readV d) (set.getD p 0) = y % 2 ^ (8 * e.bytes)) ∧
        (∀ r, ∀ j < 1024 / e.bytes, (r ≠ d ∨ ∀ p : Nat, set[p]? = some j → ∃ err : Exc, rs[p]? = some (Except.error err)) →
          velem (8 * e.bytes) (t.readV r) j = velem (8 * e.bytes) (s1.me.readV r) j) ∧
        IndexedEnds s s1 (.vldx d a x k e) t set vl rs)

/-- R206: a stride that is not a multiple of the element size raises MISALIGN with no effect. -/
def Sys2Proof.Claims.Strides : Prop :=
  ∀ e ∈ memEts, ∀ (s : State) (d a x : Reg) (k : MaskReg), VClear s [a, x] [] [d] → (s.me.readG x).toNat % e.bytes ≠ 0 →
    ∀ i ∈ [Instr.vlds d a x k e, .vsts d a x k e],
      exec i s = .next (s.take { code := 0x02, addr := s.me.readG a } s.me.pc)

/-- R205, R206, R208, R209: the ordered loads, where they fail, the gathers, and the strided forms' strides. -/
def Obligations.VectorLoads : Prop := OrderedLoads ∧ OrderedFaults ∧ Gathers ∧ Strides

namespace Sys2Proof.Claims

/-- An ordered store: the instruction, the registers it reads, and the address of element `j` and what checking it gives (R206,
R382). -/
structure CheckedStore where
  instr : Instr
  reads : List Reg
  regs  : List Reg
  addr  : Nat → Word
  act   : Nat → M StoreElem

/-- The ordered stores on given operands, and the twin store. -/
def checkedStores (s : State) (d a x : Reg) (f : BitVec 3) (k : MaskReg) (e : Et) : List CheckedStore :=
  (orderedStores s d a x f k e).map (fun q =>
    { instr := q.instr, reads := q.reads, regs := q.regs, addr := fun j => ((q.fields j).headD (0, 0)).1,
      act := fun j => do return { streams := [← M.fieldsRoute e.bytes j (q.fields j)] } }) ++
  [{ instr := .vpst d a k e, reads := [a], regs := [d], addr := fun j => s.me.readG a + BitVec.ofNat 64 (j * e.bytes),
     act := fun j => M.twinElem d a e.bytes s.me j }]

/-- The elements of an ordered store have been checked from `s` to `t`: all of them, or those before the one at place `p`, which fails; of
an element whose later field fails the earlier ones are written (R208, R382). -/
def StoreChecked (q : CheckedStore) (todo : List Nat) (s t : State) (xs : List (Nat × StoreElem)) : Option (Nat × Exc) → Prop
  | none => ∃ es, Yields (todo.mapM fun j => atElem j (q.act j)) s es t ∧ (∀ x ∈ es, x.fault = none) ∧ xs = todo.zip es
  | some (p, err) => p < todo.length ∧ err.code ≠ 0x09 ∧ ∃ es s1,
      Yields ((todo.take p).mapM fun j => atElem j (q.act j)) s es s1 ∧ (∀ x ∈ es, x.fault = none) ∧
      let j := todo.getD p 0
      (Traps (atElem j (q.act j)) s1 err t ∧ xs = (todo.take p).zip es ∨
        ∃ x, Yields (atElem j (q.act j)) s1 x t ∧ x.fault = some err ∧ xs = (todo.take (p + 1)).zip (es ++ [x]))

end Sys2Proof.Claims

/-- R203, R206 to R208, R382: a vector store, or a twin store, writes what passed its checks, where that goes out without a wait for
slots.  It completes with ESTART 0 where every element passes; an element that fails out of L-space range and is not the first trims VL to
it; and otherwise ESTART becomes the failing element and its exception is raised. -/
def Sys2Proof.Claims.OrderedStores : Prop :=
  ∀ e ∈ memEts, ∀ (s s1 s2 : State) (d a x : Reg) (f : BitVec 3) (k : MaskReg) (xs : List (Nat × StoreElem)) (note : SlotNote)
    (fault : Option (Nat × Exc)),
    let todo := orderedTodo s.me (min s.me.vl (1024 / e.bytes)) k
    let bs := groupStreams xs
    ∀ q ∈ checkedStores s d a x f k e, VClear s q.reads [] q.regs → (s.me.readG x).toNat % e.bytes = 0 →
      StoreChecked q todo (begun s) s1 xs fault → awayIn bs ≤ 1024 →
      Yields (atElem (todo.headD 0) (M.storeBatches (q.addr (todo.headD 0)) note bs)) s1 false s2 →
      match fault with
      | none => exec q.instr s = Done (s2.setMe { s2.me with estart := 0, timer := none })
      | some (p, err) =>
        let j := todo.getD p 0
        if err.code = 0x07 ∧ p ≠ 0 then exec q.instr s = Done (s2.setMe { s2.me with vl := j, estart := 0, timer := none })
        else exec q.instr s = .next ((s2.setMe { s2.me with estart := j }).take err s2.me.pc)

/-- R209, R304: a scatter, and a VREDM, write what passed its checks, where that goes out without a wait for slots; FMASK names the
elements that failed, and the exception of the least of them is raised; where none fails the form completes and FMASK is zero.  A VREDM
leaves out every index that is all ones. -/
def Sys2Proof.Claims.IndexedStores : Prop :=
  (∀ e ∈ memEts, ∀ (s s1 s2 : State) (d a x : Reg) (k : MaskReg) (set : List Nat) (vl : Option Nat)
    (rs : List (Except Exc (List Route))) (note : SlotNote), VClear s [a] [] [d, x] →
    let sz := e.bytes
    let todo := indexedTodo s.me (min s.me.vl (1024 / sz)) k
    let addr := indexAddr s.me a x sz
    (∀ j, todo.head? = some j → s.outOfRange (addr j) sz = true →
      exec (.vstx d a x k e) s = .next (s.take { code := 0x07, addr := addr j, info := BitVec.ofNat 64 j } s.me.pc)) ∧
    (RangeCut s addr sz todo set vl →
      Yields (set.mapM fun j => M.attemptElem false j (addr j)
        (M.fieldsRoute sz j [(addr j, velem (8 * sz) (s.me.readV d) j)])) (begun s) rs s1 →
      (∀ err : Exc, Except.error err ∈ rs → err.code ≠ 0x09) →
      let xs := succeeded set rs
      Yields (atElem (set.headD 0)
        (M.storeBatches (addr (set.headD 0)) note (batchesOf (xs.map (·.1)) (xs.map (·.2))))) s1 false s2 →
      ∃ t : Strand, t = { s2.me with fmask := t.fmask, vl := t.vl, timer := none } ∧
        IndexedEnds s s2 (.vstx d a x k e) t set vl rs)) ∧
  (∀ (s s1 s2 : State) (d a b : Reg) (sc : Scope) (r : Bool) (ty : RedType) (set : List Nat) (vl : Option Nat)
    (rs : List (Except Exc RedElem)) (note : SlotNote), VClear s [a] [] [d, b] →
    let w := (redTypeOf ty).1
    let op := (redTypeOf ty).2
    let sz := amoSize w
    let todo := (List.range (min s.me.vl (1024 / sz))).filter fun j =>
      velem (8 * sz) (s.me.readV b) j != 2 ^ (8 * sz) - 1 && (s.me.fmask == 0 || s.me.fmask.getLsbD j)
    let addr := indexAddr s.me a b sz
    (∀ j, todo.head? = some j → s.outOfRange (addr j) sz = true →
      exec (.vredm d a b sc r ty) s = .next (s.take { code := 0x07, addr := addr j, info := BitVec.ofNat 64 j } s.me.pc)) ∧
    (RangeCut s addr sz todo set vl →
      Yields (set.mapM fun j => M.attemptElem false j (addr j) (M.redElem w addr d s.me j)) (begun s) rs s1 →
      (∀ err : Exc, Except.error err ∈ rs → err.code ≠ 0x09) →
      Yields (atElem (set.headD 0) (M.sendReds op w r (addr (set.headD 0)) note (groupReds sz (succeeded set rs)))) s1 false s2 →
      ∃ t : Strand, t = { s2.me with fmask := t.fmask, vl := t.vl, timer := none } ∧
        IndexedEnds s s2 (.vredm d a b sc r ty) t set vl rs))

/-- R375, R382: an element of a twin store, once its page has been found: code 7 on a page of no region; code 5 where the region is not
TWIN, the offset is past LEN or the element has another size; and otherwise it is written at its place and at its place in the transposed
layout, where one that fails leaves the plain one written. -/
def Sys2Proof.Claims.TwinElements : Prop :=
  ∀ (s s1 : State) (v a : Reg) (sz j : Nat) (x : Word × Nat × Nat),
    let va := s.me.readG a + BitVec.ofNat 64 (j * sz)
    let value := velem (8 * sz) (s.me.readV v) j
    va.toNat % sz = 0 → spaceOf va = .global → Yields (M.page s.myAgent .store va j) s x s1 →
    (pteRegion x.1 = none → Traps (M.twinElem v a sz s.me j) s (accessExc va (j + 7 * 2 ^ 44)) s1) ∧
    (∀ r p, pteRegion x.1 = some r → s.myPart = some p →
      let field := fun off n => s1.verField p (0x100 + 64 * r + off) n
      let o := (va - BitVec.ofNat 64 (field 0 8)).toNat
      if field 32 1 / 2 % 2 = 0 ∨ field 8 8 ≤ o ∨ 2 ^ (field 32 1 / 4 % 8) ≠ sz then
        Traps (M.twinElem v a sz s.me j) s (accessExc va (j + r * 2 ^ 32 + 5 * 2 ^ 44)) s1
      else
        let other := BitVec.ofNat 64 (field 0 8 + field 8 8 +
          (o / sz % field 28 4 * field 24 4 + o / (field 28 4 * sz)) * sz)
        ∀ (p1 p2 : Place), Yields (M.pagePlace s.myAgent .store va j x) s1 p1 s1 →
          Yields (M.placeCheck s.myAgent .store va sz true j p1) s1 p2 s1 →
          (∀ q s2, Yields (M.elemRoute other sz j value) s1 q s2 →
            Yields (M.twinElem v a sz s.me j) s { streams := [[s1.route p2 sz value], [q]] } s2) ∧
          (∀ err s2, Traps (M.elemRoute other sz j value) s1 err s2 →
            Yields (M.twinElem v a sz s.me j) s { streams := [[s1.route p2 sz value], []], fault := some err } s2))

/-- R203, R204, R221: the writes of a store that has passed its checks: what is homed here is written, byte by byte, in the scratchpad or
the slice cache; the rest goes out in messages of one home and at most 2 KiB each, where USC has room for them; and the fields of an
element that go to one home go in one message. -/
def Sys2Proof.Claims.StoreMessages : Prop :=
  (∀ (s s1 s2 : State) (first : Word) (note : SlotNote) (bs : List Batch),
    let here := (bs.map (·.route.hereCells)).flatten
    (s.slottedNow && bs.any (·.route.isLocal)) = false → Yields (M.clearOf here) s () s → Yields (M.takeLines here) s () s1 →
    s.me.usc + awayIn bs ≤ 1024 → Yields (bs.forM M.sendBatch) s1 () s2 → Yields (M.storeBatches first note bs) s false s2) ∧
  (∀ (s : State) (how : Caching) (cells : List (Nat × Byte)) (els : List Nat),
    Yields (M.sendBatch { route := .here how cells, elems := els }) s ()
      (if ∀ c ∈ cells, c.1 < 2 ^ 40 then s.storeOwn s.myCoreNo how cells else s.writeCells cells)) ∧
  (∀ (xs : List (Nat × List Route)) (h : Option Nat) (dest : Nat) (w : Caching) (cs : List (Nat × Byte)),
    let bs := groupRoutes xs
    ((∀ x ∈ xs, ∀ r ∈ x.2, (cellsIn r).length ≤ 2048) → ∀ b ∈ bs, b.route = .away h dest w cs → cs.length ≤ 2048) ∧
    (bs.map fun b => cellsIn b.route).flatten = (xs.map fun x => (x.2.map cellsIn).flatten).flatten ∧
    (∀ x ∈ xs, ∀ r, joinRuns x.2 = [r] → ∃ b ∈ bs, ∃ before after, cellsIn b.route = before ++ cellsIn r ++ after) ∧
    ∀ rs : List Route, rs ≠ [] → (∀ r ∈ rs, ∃ y ys, r = .away h dest y ys) → ((rs.map cellsIn).flatten).length ≤ 2048 →
      ∃ r, joinRuns rs = [r])

/-- R367, R368: the writes of a vector store that has passed its checks, some of which are slotted: outside the core's slots, under STRICT,
SLOT_VIOLATION is raised with the first element's address, and nothing is sent or trimmed; otherwise what is homed here is written, each
message to another core waits for a slot, and the strand with them; what ESTART, FMASK and VL hold afterwards, and the exception, are
noted with the messages.  VREDM is refused in the same way. -/
def Sys2Proof.Claims.SlottedVectors : Prop :=
  (∀ e ∈ memEts, ∀ (s s1 s2 : State) (d a x : Reg) (f : BitVec 3) (k : MaskReg) (xs : List (Nat × StoreElem))
    (fault : Option (Nat × Exc)),
    let todo := orderedTodo s.me (min s.me.vl (1024 / e.bytes)) k
    let bs := groupStreams xs
    ∀ q ∈ checkedStores s d a x f k e, VClear s q.reads [] q.regs → (s.me.readG x).toNat % e.bytes = 0 →
      StoreChecked q todo (begun s) s1 xs fault → awayIn bs ≤ 1024 → (∃ b ∈ bs, b.route.isLocal = true) →
      let first := todo.headD 0
      let trims := ∃ p err, fault = some (p, err) ∧ err.code = 0x07 ∧ p ≠ 0
      (OutOfSlot s1 → exec q.instr s = .next (s1.take (slotViolation s1 (q.addr first)) s1.me.pc)) ∧
      (∀ note : SlotNote, note.addr = q.addr → note.indexed = false →
        (fault = none → note.settled = some (0, s.me.fmask) ∧ note.trim = some s.me.vl ∧ note.fault = none) →
        (∀ p err, fault = some (p, err) → trims →
          note.settled = some (0, s.me.fmask) ∧ note.trim = some (todo.getD p 0) ∧ note.fault = none) →
        (∀ p err, fault = some (p, err) → ¬trims →
          note.settled = some (todo.getD p 0, s.me.fmask) ∧ note.trim = some s.me.vl ∧ note.fault = some err) →
        Yields (atElem first (M.storeBatches (q.addr first) note bs)) s1 true s2 → s2.me.cond = .slotted →
        exec q.instr s = .next s2)) ∧
  (∀ (s s1 s2 : State) (first : Word) (note : SlotNote) (bs : List Batch),
    let here := (bs.map (·.route.hereCells)).flatten
    WritesSlotted s → (∃ b ∈ bs, b.route.isLocal = true) →
    (OutOfSlot s → Traps (M.storeBatches first note bs) s (slotViolation s first) s) ∧
    (¬OutOfSlot s → Yields (M.clearOf here) s () s → Yields (M.takeLines here) s () s1 → s.me.usc + awayIn bs ≤ 1024 →
      Yields (bs.forM (M.slotBatch note)) s1 () s2 → Yields (M.storeBatches first note bs) s true s2)) ∧
  (∀ (s : State) (note : SlotNote) (c dest : Nat) (how : Caching) (cells : List (Nat × Byte)) (els : List Nat),
    ∃ t x, Yields (M.slotBatch note { route := .away (some c) dest how cells, elems := els }) s () t ∧
      t = (s.setMyCore { s.myCore with slotPend := s.myCore.slotPend ++ [x] }).setMe { s.me with cond := .slotted } ∧
      x.slot = s.mySlotNo ∧ x.serial = none ∧ x.elems = els.map (fun j => (j, note.addr j)) ∧ x.settled = note.settled ∧
      x.trim = note.trim ∧ x.msg.home = some c ∧ x.msg.body = .store cells ∧ x.msg.slotted = true) ∧
  (∀ (s : State) (op : MemOp) (w : AmoWidth) (r : Bool) (first : Word) (note : SlotNote) (bs : List RedBatch),
    OutOfSlot s → (∃ b ∈ bs, ∃ c, b.home = some c ∧ c ≠ s.myCoreNo) →
    Traps (M.sendReds op w r first note bs) s (slotViolation s first) s)

/-- R203, R204, R206 to R209, R304, R367, R368, R375, R382: the vector stores and VREDM, where they fail, the elements of the twin store,
the writes and messages that they make, and the waiting of those that are slotted. -/
def Obligations.VectorStoreForms : Prop :=
  OrderedStores ∧ IndexedStores ∧ TwinElements ∧ StoreMessages ∧ SlottedVectors

namespace Sys2Proof.Claims

/-! ## Atomics -/

/-- The atomic forms (R302). -/
def amoForms : List ((Reg → Reg → Reg → Scope → Bool → Bool → AmoWidth → Instr) × MemOp) :=
  [(.amoswap, .swap), (.amoadd, .add), (.amoand, .and), (.amoor, .or), (.amoxor, .xor), (.amomin, .min), (.amomax, .max),
   (.amocas, .cas), (.amofadd, .fadd)]

/-- The sum of two codes of a format, rounded by RNE (R302). -/
def sumOf (f : FpFormat) (x y : Nat) : Nat := (fpDeliver f .rne 0 (fpAdd .rne (f.value x) (f.value y))).1

/-- No message that a fence of the strand put before its later writes is still in flight (R270). -/
def Fenced (s : State) : Prop :=
  ∀ m ∈ s.net, s.sentBy s.cur m = true → m.body.isVload = false → s.me.fenced ≤ m.serial

/-- The new value of a location, of `n` bits (R302, R303, R110). -/
def NewValue (op : MemOp) (w : AmoWidth) (old y expected new : Nat) : Prop :=
  let n := if w = .w64 then 64 else 32
  let f := if w = .w64 then fp64 else fp32
  match op with
  | .swap => new = y
  | .add => new = (old + y) % 2 ^ n
  | .and => ∀ i, new.testBit i = (old.testBit i && y.testBit i)
  | .or => ∀ i, new.testBit i = (old.testBit i || y.testBit i)
  | .xor => ∀ i, new.testBit i = (old.testBit i ^^ y.testBit i)
  | .min => new = if (BitVec.ofNat n old).toInt ≤ (BitVec.ofNat n y).toInt then old else y
  | .max => new = if (BitVec.ofNat n y).toInt ≤ (BitVec.ofNat n old).toInt then old else y
  | .cas => new = if old = expected then y else old
  | .fadd => new = if w = .pair then sumOf bf16 (old % 2 ^ 16) (y % 2 ^ 16) + 2 ^ 16 * sumOf bf16 (old / 2 ^ 16) (y / 2 ^ 16)
      else sumOf f old y
  | .fmax => new = (fpDeliver f .rne 0 (fpMax (f.value old) (f.value y))).1

end Sys2Proof.Claims

/-- R302, R270, R272: an AMO at memory or at the strand's own scratchpad is performed as it issues, and its old value is on the way to
g[d]; one at another core's scratchpad is sent as a message, and where it acquires the strand waits for its value.  A release first waits
for the strand's earlier accesses, an acquire for its loads and AMOs, and one that is performed as it issues for what a fence put before it
(log entry 9). -/
def Sys2Proof.Claims.Atomics : Prop :=
  ∀ f ∈ amoForms, ∀ (s s1 : State) (d a b : Reg) (sc : Scope) (r q : Bool) (w : AmoWidth) (p : Place),
    let va := s.me.readG a
    let i := f.1 d a b sc r q w
    Clear s (if f.2 = .cas then [a, b, d] else [a, b]) [d] → Yields (M.check s.myAgent .amo va (amoSize w) false 0) s p s1 →
    (r = true → s1.me.usc = 0 ∧ s1.anyBusy s1.cur = false) → (q = true → s1.readBusy s1.cur = false) →
    let here := fun (s2 : State) (key : Nat) =>
      let res := s2.performOp f.2 w key (s.me.readG b) (s.me.readG d)
      exec i s = Done (res.1.setMe (res.1.me.setMark d (.landing .load res.2.1 (if res.2.2 then some va else none))))
    (∀ key l nc g s2, p = .mem key l nc g → s1.inFlight s1.cur key (amoSize w) = false → Fenced s1 →
      Yields (M.exchange key 2 2) s1 () s2 → here (s2.rimUse (key / 64) (some .ordinary)) key) ∧
    (∀ o, p = .carve s1.myCoreNo o → s1.pairBusy s1.myCoreNo s1.myCoreNo = false → Fenced s1 →
      here s1 (scratchKey s1.myCoreNo o)) ∧
    (∀ c o s2, p = .carve c o → c ≠ s1.myCoreNo →
      Yields (M.send (some c) c (.amo f.2 w ((if q then 1 else 0) + if r then 2 else 0) (scratchKey c o) va (s.me.readG b)
        (s.me.readG d) d) false) s1 () s2 →
      exec i s = if q then .next (s2.setMe { s2.me with cond := .acquire d })
        else Done (s2.setMe (s2.me.setMark d (.waiting .load))))

/-- R303, R272: a RED that passes its checks completes as it issues, also one that releases, and travels as a message that USC counts. -/
def Sys2Proof.Claims.MemoryReductions : Prop :=
  ∀ f ∈ redForms, ∀ (s s1 s2 : State) (a b : Reg) (sc : Scope) (r : Bool) (w : AmoWidth) (p : Place),
    let va := s.me.readG a
    let v : Word := BitVec.ofNat 64 ((s.me.readG b).toNat % 2 ^ (8 * amoSize w))
    Clear s [a, b] [] → Yields (M.check s.myAgent .red va (amoSize w) false 0) s p s1 → s1.me.usc < 1024 →
    (∀ key l nc g, p = .mem key l nc g → Yields (M.send none (destOfKey key) (.red f.2 w key v) true r) s1 () s2 →
      exec (f.1 a b sc r w) s = Done s2) ∧
    (∀ c o, p = .carve c o → (c ≠ s1.myCoreNo && s1.slottedNow) = false →
      Yields (M.send (some c) c (.red f.2 w (scratchKey c o) v) true r) s1 () s2 →
      exec (f.1 a b sc r w) s = Done s2)

/-- R302, R303: the AMOs and REDs complete as they issue, or are on their way as messages. -/
def Obligations.AtomicForms : Prop := Atomics ∧ MemoryReductions

/-- R301 to R303: what an operation does at its location: the new value replaces the old one, no other byte changes, and the old
value is returned, a word sign-extended but for AMOFADD; a poisoned location is left alone. -/
def Obligations.MemoryOperations : Prop :=
  ∀ (s : State) (op : MemOp) (w : AmoWidth) (key : Nat) (y x : Word),
    let n := if w = .w64 then 8 else 4
    let res := s.performOp op w key y x
    res.2.1 = (if w = .w32 ∧ op ≠ .fadd then BitVec.ofInt 64 (BitVec.ofNat 32 (s.readMem key n)).toInt
      else BitVec.ofNat 64 (s.readMem key n)) ∧ res.2.2 = s.isPoisoned key n ∧
    (s.isPoisoned key n = true → res.1 = s) ∧
    (s.isPoisoned key n = false → ∃ new, NewValue op w (s.readMem key n) (y.toNat % 2 ^ (8 * n)) (x.toNat % 2 ^ (8 * n)) new ∧
      new < 2 ^ (8 * n) ∧ Stored s res.1 key n new ∧
      res.1 = { s with mem := res.1.mem, poisoned := res.1.poisoned, l1 := res.1.l1, rdc := res.1.rdc, slices := res.1.slices })

namespace Sys2Proof.Claims

/-! ## Barriers and lines -/

/-- The strand is on a compute core, and its g registers are clear (R17, R92). -/
def BarClear (s : State) (reads writes : List Reg) : Prop := isChiplet s.myCoreNo = false ∧ Clear s reads writes

/-- The strand goes to sleep at its instruction in the state `s` (R300). -/
def Sleeps (s : State) (w : Sleep) : Out := .next (s.setMe { s.me with cond := .asleep w })

/-- The number 1 or 0. -/
def bit (b : Bool) : Word := if b then 1 else 0

/-- The barrier of the issuing core that g[a] names (R287). -/
def bidOf (s : State) (a : Reg) : Nat := (s.me.readG a).toNat % 2048

/-- A BINIT word: barrier, target, domain and binding (R288). -/
def binitWord (b target dom : Nat) (bound : Bool) : Word :=
  BitVec.ofNat 64 (b + target * 2 ^ 16 + dom * 2 ^ 32 + if bound then 2 ^ 38 else 0)

/-- The members of a rectangle in their order: rows of columns from the first corner (R285). -/
def rectCores (corner rows cols : Nat) : List Nat :=
  ((List.range rows).map fun y => (List.range cols).map fun x => corner + 16 * y + x).flatten

/-- A word of a mutex line: the next ticket, the ticket served and the owner (R294). -/
def mutexWord (next serve owner : Nat) : Word := BitVec.ofNat 64 (next % 2 ^ 16 * 2 ^ 48 + serve % 2 ^ 16 * 2 ^ 32 + owner % 2 ^ 32)

/-- A WAITV condition on two words (R299). -/
def condHolds (c : WaitCond) (x y : Word) : Prop :=
  match c with
  | .eq => x = y
  | .ne => x ≠ y
  | .geu => y.toNat ≤ x.toNat
  | .ges => y.toInt ≤ x.toInt

/-- The elements that a WAITV waits on (R299). -/
def waitElems (s : State) (k : MaskReg) : List Nat := (List.range (min s.me.vl 64)).filter fun e => maskBit s.me k e

/-- The address that element `e` of v[a] names. -/
def waitAddr (s : State) (a : Reg) (e : Nat) : Word := BitVec.ofNat 64 (velem 64 (s.me.readV a) e)

end Sys2Proof.Claims

/-- R281, R282, R285, R287: when a barrier fires and what it becomes; it fires at its home alone, which is the issuing core unless
it is bound; and every arrival, expectation and subtraction ends with the check. -/
def Sys2Proof.Claims.Firing : Prop :=
  ∀ (s : State) (c b : Nat),
    let x := s.barrierOf c b
    s.barrierHome c b = (if x.bound then (s.domainOf c x.dom).headD c else c) ∧
    (s.barrierHome c b = c ∧ x.target ≤ x.arr ∧ x.count = 0 →
      (s.checkBarrier c b).barrierOf c b = { x with phase := !x.phase, arr := 0, count := 0 }) ∧
    (¬(s.barrierHome c b = c ∧ x.target ≤ x.arr ∧ x.count = 0) → s.checkBarrier c b = s) ∧
    (∀ n, s.arriveAt c b n = (s.setBarrier c b { x with arr := min 65535 (x.arr + n) }).checkBarrier c b) ∧
    (∀ n : Nat, s.subtractAt c b n = (s.setBarrier c b
      (if x.count - n < -(2 ^ 32 - 1) then { x with count := -(2 ^ 32 - 1), err := true }
       else { x with count := x.count - n })).checkBarrier c b) ∧
    (∀ (n : Nat) (arr : Bool),
      (2 ^ 32 - 1 < x.count + n → s.expectAt c b n arr = (s, none)) ∧
      (x.count + n ≤ 2 ^ 32 - 1 →
        let t := (s.setBarrier c b { x with count := x.count + n, arr := if arr then min 65535 (x.arr + 1) else x.arr }).checkBarrier c b
        s.expectAt c b n arr = (t, some (t.barrierOf c b).phase)))

/-- R286 to R292: the barrier and domain instructions. -/
def Sys2Proof.Claims.BarrierForms : Prop :=
  ∀ (s s1 : State) (d a : Reg) (c : BitVec 8) (r : Bool) (j : BitVec 6),
    let b := bidOf s a
    let x := s.barrierOf s.myCoreNo b
    let h := s.barrierHome s.myCoreNo b
    let origin := if h = s.myCoreNo then none else some s.myCoreNo
    (BarClear s [a] [] → ∀ b < 2048, ∀ target < 65536, target ≠ 0 → ∀ dom < 64, ∀ bound : Bool,
      s.me.readG a = binitWord b target dom bound →
      (if bound then s.domainOf s.myCoreNo dom ≠ [] else dom = 0) →
      exec (.binit a) s = Done ((s.setBarrier s.myCoreNo b
        { target := target, phase := (s.barrierOf s.myCoreNo b).phase, bound := bound, dom := dom }).checkBarrier s.myCoreNo b)) ∧
    (BarClear s [a] [d] → s.uncountedBusy s.cur = false → Fenced s →
      Yields (M.send (some h) h (.arrive b (c.toNat + 1)) false (origin := origin)) s () s1 →
      exec (.barr d a c) s = Done (s1.setMe (s1.me.writeG d (bit x.phase)))) ∧
    (BarClear s [d, a] [d] → (r = true → s.uncountedBusy s.cur = false ∧ Fenced s) →
      Yields (M.send (some h) h (.expect b (s.me.readG d).toNat r (some d)) false (origin := origin)) s () s1 →
      exec (.bexp d a r) s = .next (s1.setMe { s1.me with cond := .bexp d a none })) ∧
    (BarClear s [d, a] [d] →
      ((s.me.readG d).getLsbD 0 = x.phase → exec (.bwait d a) s = Sleeps s (.bwait d a)) ∧
      ((s.me.readG d).getLsbD 0 ≠ x.phase → s.readBusy s.cur = false →
        exec (.bwait d a) s = Ends s (s.me.writeG d (bit x.phase)))) ∧
    (BarClear s [a] [d] →
      (s.pairBusy s.myCoreNo h = false → (h = s.myCoreNo ∨ s.isHome h (s.homePart none h) = true) → Yields (M.askUnit h) s () s1 →
        exec (.btestCnt d a) s = Ends s1 (s1.me.writeG d (BitVec.ofNat 64
          ((s.barrierOf h b).target * 2 ^ 48 + (s.barrierOf h b).arr * 2 ^ 32 + (s.barrierOf h b).count.natAbs)))) ∧
      Yields (M.askUnit s.myCoreNo) s () s ∧
      exec (.btestFlg d a) s = Ends s (s.me.writeG d (BitVec.ofNat 64
        ((if x.err then 512 else 0) + (if x.count < 0 then 256 else 0) + x.dom * 4 + (if x.bound then 2 else 0) +
          if x.phase then 1 else 0)))) ∧
    (∀ p, s.myPart = some p → BarClear s [a] [] →
      (∀ corner < 1024, ∀ rows ≤ 16, ∀ cols ≤ 16, 0 < rows → 0 < cols → corner / 16 % 16 + rows ≤ 16 → corner % 16 + cols ≤ 16 →
        s.me.readG a = BitVec.ofNat 64 (corner + (rows - 1) * 2 ^ 16 + (cols - 1) * 2 ^ 20) →
        s.myCoreNo ∈ rectCores corner rows cols →
        (∀ m ∈ rectCores corner rows cols, (s.partAt p).mask.getLsbD (clusterOf m) = true) →
        exec (.bdomRect a j) s = Done (s.setMyCore { s.myCore with
          domains := Tab.set s.myCore.domains j.toNat (rectCores corner rows cols) })) ∧
      (∀ (ms : List Nat) (s2 : State), Yields (M.halfword (s.me.readG a) 0) s ms.length s1 →
        Yields ((List.range ms.length).mapM fun i => M.halfword (s.me.readG a) (i + 1)) s1 ms s2 →
        ms ≠ [] → ms.length ≤ 1024 → (∀ m ∈ ms, m < 1024) → ms.Nodup → s2.myCoreNo ∈ ms →
        s2.myPart = some p → (∀ m ∈ ms, (s2.partAt p).mask.getLsbD (clusterOf m) = true) →
        exec (.bdomList a j) s = Done (s2.setMyCore { s2.myCore with domains := Tab.set s2.myCore.domains j.toNat ms })))

/-- R281, R282, R285 to R292: when a barrier fires, and the barrier and domain instructions. -/
def Obligations.BarrierUnit : Prop := Firing ∧ BarrierForms

/-- R294 to R299: event lines, mutex lines and WAITV, where the line is at hand and the words can be read. -/
def Sys2Proof.Claims.Lines : Prop :=
  ∀ (s s1 : State) (l : Nat) (d a b : Reg) (x : Bool),
    let w := s1.lineWord l
    let ticket := mutexNext w
    (Clear s [d, a] [d] → Yields (M.lineOf false .load (s.me.readG a)) s l s1 → s1.me = s.me →
      (w.toNat / 2 ^ 32 = (s.me.readG d).toNat / 2 ^ 32 → exec (.evwait d a) s = Sleeps s1 (.evwait d a)) ∧
      (w.toNat / 2 ^ 32 ≠ (s.me.readG d).toNat / 2 ^ 32 → s1.readBusy s1.cur = false →
        exec (.evwait d a) s = Ends (s1.lineTraffic l true) (s1.me.writeG d w))) ∧
    (Clear s [d, a] [] → Yields (M.lineOf false .store (s.me.readG a)) s l s1 → s1.uncountedBusy s1.cur = false → s1.me = s.me →
      ∀ s2, Yields (M.send (some (l % 1024)) (l % 1024) (.evsig l (s.me.readG d) x) false) s1 () s2 →
      exec (.evsig d a x) s = Done s2) ∧
    (Clear s [d, a] [d] → Yields (M.lineOf true .amo (s.me.readG a)) s l s1 → s1.me = s.me →
      ((s.me.readG d).getLsbD 63 = false →
        (x = true → mutexNext w ≠ mutexServe w → exec (.evlock d a x) s = Ends s1 (s1.me.writeG d 0)) ∧
        let u := ((s1.lineTraffic l false).setLine l (mutexWord (ticket + 1) (mutexServe w) (mutexOwner w))).setMe
          (s1.me.writeG d (BitVec.ofNat 64 (2 ^ 63 + ticket)))
        (mutexNext w = mutexServe w → u.readBusy u.cur = false → exec (.evlock d a x) s =
          Ends ((u.lineTraffic l true).setLine l (mutexWord (ticket + 1) ticket s1.ownerWord)) (u.me.writeG d 1)) ∧
        (x = false → mutexNext w ≠ mutexServe w → exec (.evlock d a x) s = Sleeps u (.evlock d a ticket))) ∧
      ((s.me.readG d).getLsbD 63 = true → ∀ t, t = (s.me.readG d).toNat % 2 ^ 16 →
        (mutexServe w = t → s1.readBusy s1.cur = false → exec (.evlock d a x) s =
          Ends ((s1.lineTraffic l true).setLine l (mutexWord (mutexNext w) t s1.ownerWord)) (s1.me.writeG d 1)) ∧
        (mutexServe w ≠ t → exec (.evlock d a x) s = Sleeps s1 (.evlock d a t)))) ∧
    (Clear s [a] [] → Yields (M.lineOf true .amo (s.me.readG a)) s l s1 → s1.uncountedBusy s1.cur = false →
      exec (.evunlock a) s = if mutexOwner w = s1.ownerWord then
          Done ((s1.lineTraffic l false).setLine l (mutexWord (mutexNext w) (mutexServe w + 1) 0))
        else .next (s1.take { code := 0x06, addr := s.me.readG a, info := 1 } s1.me.pc)) ∧
    (∀ (s2 : State) (k : MaskReg) (all : Bool) (c : WaitCond) (ps : List Place) (xs : List (Nat × Bool)), VClear s [] [d] [a, b] →
      let els := waitElems s k
      Yields (els.mapM fun e => M.waitPlace (waitAddr s a e) e) s ps s1 → Yields (ps.mapM fun p => M.read p 8) s1 xs s2 →
      ∃ met : List Nat, met.Sublist els ∧
        (∀ i < els.length, els.getD i 0 ∈ met ↔
          condHolds c (BitVec.ofNat 64 (xs.getD i (0, false)).1) (waitAddr s b (els.getD i 0))) ∧
        let ended := (all = false ∧ (met ≠ [] ∨ els = [])) ∨ (all = true ∧ met = els)
        (ended → s2.readBusy s2.cur = false → exec (.waitv d a b k all c) s =
          Ends s2 (s2.me.writeG d (BitVec.ofNat 64 ((met.map fun e => 2 ^ e).sum)))) ∧
        (¬ended → exec (.waitv d a b k all c) s = Sleeps s2 (.waitv d a b k all c)))

/-- R269 to R271, R280: a fence ends once what it waits for has been performed: ACQ waits for the values of loads and AMOs, SA for every
remote write and for the strand's other writes in flight, and scope .sy for its TLBINVs.  REL waits for nothing: it marks the messages that
the strand has sent (log entry 9), and a write that is performed as it issues, or an arrival, waits while one of them is in flight.  FENCEI
is a fence of all kinds, which also discards the instruction words that the strand has fetched. -/
def Sys2Proof.Claims.Fences : Prop :=
  ∀ (s : State) (sa rel acq : Bool) (c : Scope),
    let invalid := s.tlbinv.any fun x => x.core == s.myCoreNo && x.slot == s.mySlotNo
    let marked := { s.me with fenced := if rel then s.sent else s.me.fenced }
    let clear := (acq = true → s.readBusy s.cur = false) ∧ (sa = true → s.me.usc = 0 ∧ s.writeBusy s.cur = false)
    (clear → (c = .system → invalid = false) → exec (.fence sa rel acq c) s = Ends s marked) ∧
    (s.readBusy s.cur = false → s.writeBusy s.cur = false → s.me.usc = 0 → (c = .system → invalid = false) →
      exec (.fencei c) s = Ends s { s.me with fenced := s.sent, fetched := [] }) ∧
    ((acq = true ∧ s.readBusy s.cur = true) ∨ (sa = true ∧ (s.me.usc ≠ 0 ∨ s.writeBusy s.cur = true)) →
      exec (.fence sa rel acq c) s = stall s) ∧
    (clear → c = .system → invalid = true → exec (.fence sa rel acq c) s = stall (s.setMe marked)) ∧
    (Fenced s → Yields M.fencePast s () s) ∧ (¬Fenced s → M.fencePast.run.run s = (.error .wait, s))

/-- R269 to R271, R280, R294 to R299: event and mutex lines, WAITV, and the fences. -/
def Obligations.OrderingForms : Prop := Lines ∧ Fences

namespace Sys2Proof.Claims

/-! ## Tiles -/

/-- No command of the strand that is still to run stands in the way of an access to tile `i` (R168). -/
def tileFree (s : State) (i : Nat) (write : Bool) : Bool :=
  !s.myCore.q3.any fun c => c.slot == s.mySlotNo && c.part.isNone == (s.me.kind == .supervisor) &&
    (c.op.writes i || (write && c.op.reads i))

/-- The state with tile `i` of the strand's core written: it is present and dirty (R165). -/
def withTile (s : State) (i : Nat) (x : TWord) : State :=
  let t := s.myCore.tiles
  s.setMyCore { s.myCore with tiles := { t with absent := t.absent &&& ~~~(BitVec.ofNat 8 (2 ^ i)),
                                                dirty := t.dirty ||| BitVec.ofNat 8 (2 ^ i), tiles := Tab.set t.tiles i x } }

/-- An element of TOPA: the exact sum of a product and the element below it, rounded once (R172). -/
def outer (s : State) (a b : Reg) (old : TWord) (i j : Nat) : Nat × Flags :=
  fpDeliver fp32 .rne 0 (fpFma .rne (bf16.value (velem 16 (s.me.readV a) i)) (bf16.value (velem 16 (s.me.readV b) j))
    (fp32.value (velem 32 (tileRow old i) j)))

/-- The parts 0 to `n - 1` of an instruction have run in turn, from `s` to `t`, with these results, or one of them raised an exception
after those before it had run. -/
def Rows {α : Type} (part : Nat → M α) (n : Nat) (s t : State) (xs : List α) : Option Exc → Prop
  | none => Yields ((List.range n).mapM part) s xs t
  | some e => xs.length < n ∧ ∃ u, Yields ((List.range xs.length).mapM part) s xs u ∧ Traps (part xs.length) u e t

/-- The instruction ends in the state `t`: it completes, or raises an exception at its own address. -/
def Outcome (t : State) : Option Exc → Out
  | none => Done t
  | some e => .next (t.take e t.me.pc)

end Sys2Proof.Claims

/-- R170, R172: the moves between tiles and registers, TZERO, and the outer product, which raises FP_TRAP for its first element, in the
order of the rows, whose flags trap. -/
def Sys2Proof.Claims.Tiles : Prop :=
  ∀ (s s1 : State) (x : TWord) (i : TileReg) (v a b : Reg) (z : Bool),
    (VClear s [] [] [] → tileFree s i.toNat true = true → Yields M.claim s () s1 →
      exec (.tzero i) s = Done (withTile s1 i.toNat 0)) ∧
    (VClear s [b] [] [a] → tileFree s i.toNat true = true → Yields (M.readTile i.toNat) s x s1 →
      ∃ y, exec (.tmovvt i a b) s = Done (withTile s1 i.toNat y) ∧
        ∀ r < 16, tileRow y r = if r = (s1.me.readG b).toNat % 16 then s1.me.readV a else tileRow x r) ∧
    (VClear s [b] [] [v] → tileFree s i.toNat false = true → Yields (M.readTile i.toNat) s x s1 →
      exec (.tmovtv v i b) s = Ends s1 (s1.me.writeV v (tileRow x ((s1.me.readG b).toNat % 16)))) ∧
    (VClear s [] [] [a, b] → tileFree s i.toNat true = true →
      (if z then x = 0 ∧ Yields M.claim s () s1
       else ∃ s0, Yields M.claim s () s0 ∧ Yields (M.readTile i.toNat) s0 x s1) →
      ∃ fl : Flags, (∀ n < 8, fl.getLsbD n = true ↔ ∃ r < 16, ∃ j < 256, (outer s1 a b x r j).2.getLsbD n = true) ∧
        ((∀ r < 16, ∀ j < 256, s1.me.trapEnables &&& (outer s1 a b x r j).2 = 0) →
          ∃ y, exec (.topa i a b z) s = Ends (withTile s1 i.toNat y) (s1.me.addFlags fl) ∧
            ∀ r < 16, ∀ j < 256, velem 32 (tileRow y r) j = (outer s1 a b x r j).1) ∧
        ∀ r < 16, ∀ j < 256, s1.me.trapEnables &&& (outer s1 a b x r j).2 ≠ 0 →
          (∀ q k, (q < r ∧ k < 256) ∨ (q = r ∧ k < j) → s1.me.trapEnables &&& (outer s1 a b x q k).2 = 0) →
          exec (.topa i a b z) s = .next (s1.take
            { code := 0x14, info := BitVec.ofNat 64 (fl.toNat + j * 2 ^ 32 + r * 2 ^ 44) } s1.me.pc))

/-- R162, R165, R166, R168, R171, R173, R368: loads and stores of rows of a tile, which keep the rows before one that fails, and the saving
and restoring of the file, which fails as a whole. -/
def Sys2Proof.Claims.TileMemory : Prop :=
  ∀ (s s1 s2 s3 s4 : State) (i : TileReg) (a b : Reg) (n : BitVec 4),
    let base := s.me.readG a
    let stride := s.me.readG b
    (VClear s [a, b] [] [] → base.toNat % 64 = 0 → stride.toNat % 64 = 0 →
      (∀ (rows : List VWord) (old : TWord) (fault : Option Exc), tileFree s i.toNat true = true → Yields M.claim s () s1 →
        Rows (M.rowLoad base stride) (n.toNat + 1) s1 s2 rows fault →
        (if rows.length = 16 then old = 0 ∧ s3 = s2 else Yields (M.readTile i.toNat) s2 old s3) →
        ∃ y, (∀ r < 16, tileRow y r = if r < rows.length then rows.getD r 0 else tileRow old r) ∧
          exec (.tld i a b n) s = Outcome (if rows = [] then s3 else withTile s3 i.toNat y) fault) ∧
      (∀ (x : TWord) (rows : List (List (Place × Nat × Nat))) (fault : Option Exc), tileFree s i.toNat false = true →
        Rows (M.rowPlaces base stride) (n.toNat + 1) s s1 rows fault →
        let far := rows.any fun ps => ps.any fun p => p.1.isRemote s1.myCoreNo
        (∀ e, far = true → Traps (M.slotCheck base) s1 e s2 → exec (.tst i a b n) s = .next (s2.take e s2.me.pc)) ∧
        ((if far then Yields (M.slotCheck base) s1 () s2 else s2 = s1) → Yields (M.readTile i.toNat) s2 x s3 →
          let note : SlotNote := { addr := rowAddr base stride, settled := none, indexed := false, fault := fault }
          Yields (M.storeBatches base note (groupRoutes (rows.zipIdx.map fun r => (r.2, s3.rowRoutes x r.2 r.1)))) s3 false s4 →
          exec (.tst i a b n) s = Outcome s4 fault))) ∧
    (VClear s [a, b] [] [] → (base.toNat % 64 ≠ 0 ∨ stride.toNat % 64 ≠ 0) →
      exec (.tld i a b n) s = .next (s.take { code := 0x02, addr := base } s.me.pc) ∧
      exec (.tst i a b n) s = .next (s.take { code := 0x02, addr := base } s.me.pc)) ∧
    (∀ r : Bool, VClear s [] [] [] →
      (s.ownsFile s.myCoreNo s.mySlotNo = false → exec (.tsave r) s = Ends s s.me) ∧
      (s.ownsFile s.myCoreNo s.mySlotNo = true → (∀ i < 8, tileFree s i false = true) →
        Yields (M.spill s.myCoreNo (List.range 8)) s () s1 → s1.myCoreNo = s.myCoreNo →
        exec (.tsave r) s = Done (if r then
          s1.setMyCore { s1.myCore with tiles := { s1.myCore.tiles with valid := false } } else s1))) ∧
    (∀ (xs : List TWord) (fault : Option Exc), VClear s [] [] [] → (∀ i < 8, tileFree s i false = true) →
      Yields M.claim s () s1 → Rows M.readTile 8 s1 s2 xs fault →
      exec .trestore s = Outcome (if fault = none then s2
        else s2.setCore s1.myCoreNo { (s2.coreAt s1.myCoreNo) with tiles := s1.myCore.tiles }) fault)

/-- R165, R166: TILE_SAVE: an area that is not enabled, or does not lie in G-space, cannot be reached; a failure of a spill or fill is
reported with the file's slot, whether it was a fill, the tile and the cause; the instruction whose claim, spill or fill it is raises it. -/
def Sys2Proof.Claims.SaveFaults : Prop :=
  ∀ (s s1 : State) (e : Exc) (i : Nat), i < 8 →
    let report : Nat → Nat → Exc := fun slot kind =>
      { code := 0x0A, addr := e.addr, info := BitVec.ofNat 64 (slot % 4 + kind + i * 8 + e.code * 256) }
    (∀ area : Word, (area.getLsbD 0 = false ∨ spaceOf (area &&& ~~~0xFFF) = .sync ∨ spaceOf (area &&& ~~~0xFFF) = .scratch) →
      Traps (M.areaCheck area i) s { code := 0x06, addr := (area &&& ~~~0xFFF) + BitVec.ofNat 64 (16384 * i) } s) ∧
    (∀ (core : Nat) (is : List Nat), let c := s.coreAt core
      (c.tiles.dirty.getLsbD i = true →
        Traps (M.areaWrite (c.ownerAgent core) c.ownerArea.1 i 0 (tileBytes (c.tiles.tile i))) s e s1 →
        Traps (M.spill core (i :: is)) s (report c.tiles.slot 0) s1) ∧
      (c.tiles.dirty.getLsbD i = false → ∀ t, Yields (M.spill core is) s () t → Yields (M.spill core (i :: is)) s () t)) ∧
    (s.ownsFile s.myCoreNo s.mySlotNo = true → s.myCore.tiles.absent.getLsbD i = true →
      Traps (M.areaRead s.myAgent (s.tsaveaOf s.myAgent.core s.mySlotNo) i 0 16384) s e s1 →
      Traps (M.readTile i) s (report s.mySlotNo 4) s1) ∧
    (s.ownsFile s.myCoreNo s.mySlotNo = false → s.myCore.tiles.valid = true →
      Traps (M.spill s.myCoreNo (List.range 8)) s e s1 → Traps M.claim s e s1) ∧
    ∀ (d : TileReg) (v b : Reg) (r : Bool),
      (VClear s [] [] [] → tileFree s d.toNat true = true → Traps M.claim s e s1 →
        exec (.tzero d) s = .next (s1.take e s1.me.pc)) ∧
      (VClear s [b] [] [v] → tileFree s d.toNat false = true → Traps (M.readTile d.toNat) s e s1 →
        exec (.tmovtv v d b) s = .next (s1.take e s1.me.pc)) ∧
      (VClear s [] [] [] → s.ownsFile s.myCoreNo s.mySlotNo = true → (∀ i < 8, tileFree s i false = true) →
        Traps (M.spill s.myCoreNo (List.range 8)) s e s1 → exec (.tsave r) s = .next (s1.take e s1.me.pc))

/-- R162, R165, R166, R170 to R173: the tile instructions, and how they fail. -/
def Obligations.TileForms : Prop := Tiles ∧ TileMemory ∧ SaveFaults

namespace Sys2Proof.Claims

/-! ## The mill -/

/-- A request word of MLEASE: trays, shape, regions, budget and its unit (R176). -/
def leaseRequest (trays shape regions budget : Nat) (cycles : Bool) : Word :=
  BitVec.ofNat 64 (trays + shape * 2 ^ 8 + regions * 2 ^ 16 + budget * 2 ^ 24 + if cycles then 2 ^ 32 else 0)

/-- The limits of a request (R176). -/
def GoodRequest (trays shape regions budget : Nat) (cycles : Bool) : Prop :=
  1 ≤ trays ∧ trays ≤ 40 ∧ shape ∈ [1, 2, 4, 5, 8, 10, 20, 40] ∧ trays % shape = 0 ∧ 1 ≤ regions ∧ regions ≤ 8 ∧ budget < 256 ∧
    (cycles = true → budget ≤ 20)

/-- The strand that moves is a supervisor strand. -/
def isSup (s : State) : Bool := s.me.kind == .supervisor

/-- A lease that the strand that moves holds and has not released (R175, R180). -/
def mine (s : State) (l : Lease) : Bool :=
  l.isHeld && (l.slot == s.mySlotNo && l.part.isNone == isSup s) && !l.released

/-- The strand holds the lease `l` of its core, which it has not released, and the mill's queue has room (R180, R181, R193). -/
def Under (s : State) (l : Lease) : Prop := s.myCore.q3.length < 16 ∧ s.myCore.leases.find? (mine s) = some l

/-- The strand holds a lease of its core, which it has not released. -/
def leased (s : State) : Bool := s.myCore.leases.any (mine s)

/-- The state with a command of the strand at the tail of its core's mill queue, which notes the version slots that the strand reads
(R193, R374). -/
def queued (s : State) (op : MillOp) (memory : Bool) : State :=
  let c := s.myCore
  let x : MillCmd := { op, slot := s.mySlotNo, seq := c.qseq[3], mode := s.me.mode, part := s.myPart, adopted := s.me.adopted,
                       slots := s.noteSlots s.myAgent, after := if memory then s.outstanding s.cur else [] }
  s.setMyCore { c with q3 := c.q3 ++ [x], qseq := c.qseq.set 3 ((c.qseq[3] + 1) % 65536) }

/-- The state with the strand's lease changed. -/
def withLease (s : State) (f : Lease → Lease) : State :=
  s.setMyCore { s.myCore with leases := mapFirst (mine s) f s.myCore.leases }

/-- The strand's register `d` awaits a token (R92). -/
def awaiting (s : State) (d : Reg) : State := s.setMe (s.me.setMark d (.waiting .token))

/-- LEASE with a code and the command's function (R181). -/
def refusal (code fn : Nat) : Exc := { code := 0x1A, info := BitVec.ofNat 64 (code + fn * 256) }

/-- The addresses of the rows of a command are multiples of `n` (R187, R189). -/
def rowsAt (base pitch : Word) (rows n : Nat) : Prop := ∀ i < rows, (base + pitch * BitVec.ofNat 64 i).toNat % n = 0

/-- The signed product of two cells' magnitudes. -/
def signedProduct (na nb : Bool) (x y : Nat) : Int := (if na != nb then -1 else 1) * ((x * y : Nat) : Int)

end Sys2Proof.Claims

/-- R176 to R178, R180: MLEASE answers a bad request, one too large and one of a strand that holds a lease with their statuses; a
request that it accepts waits, or with .try is granted or refused at once.  A request waits outside the arbitration only while a lease
of its core is held or released and not yet ended.  MRELEASE queues the release of the strand's lease. -/
def Obligations.Leases : Prop :=
  ∀ (s s1 : State) (d a b : Reg) (w : Bool) (pages : List Nat),
    (BarClear s [a, b] [d] →
      (reqGood (s.me.readG a) = false → exec (.mlease d a b w) s = Ends s (s.me.writeG d 0x0200000000000000)) ∧
      (∀ trays shape regions budget cycles, GoodRequest trays shape regions budget cycles →
        s.me.readG a = leaseRequest trays shape regions budget cycles →
        let cols := 256 * trays / shape
        let bytes := regions * 64 * cols
        (2097152 < bytes → exec (.mlease d a b w) s = Ends s (s.me.writeG d 0x0300000000000000)) ∧
        (bytes ≤ 2097152 → leased s = true → exec (.mlease d a b w) s = Ends s (s.me.writeG d 0x0400000000000000)) ∧
        (bytes ≤ 2097152 → leased s = false →
          Yields (M.saveArea (s.me.readG b) (4096 + bytes + trays * 65536)) s pages s1 →
          let open_ := s1.myCore.held = none
          let l : Lease := { slot := s1.mySlotNo, part := if isSup s1 then none else some s1.myCore.part,
                             request := s.me.readG a, save := s.me.readG b, pages := pages,
                             prio := s1.me.prio, issued := s1.gtime, joined := s1.cyclesOf s1.myCoreNo,
                             status := if open_ then .contending else .queued }
          let t := s1.setMyCore { s1.myCore with leases := s1.myCore.leases ++ [l] }
          let cl := clusterOf s1.myCoreNo
          let free := open_ ∧ (∀ y ∈ s1.contenders cl, leaseAhead (s1.cyclesOf s1.myCoreNo) (s1.myCoreNo, l) y = true) ∧
            s1.fits cl (s.me.readG a) = true
          let u := t.grantTo s1.myCoreNo l
          s1.me.readG b = s.me.readG b →
          (w = false → exec (.mlease d a b w) s = .next (t.setMe { t.me with cond := .lease d })) ∧
          (w = true → free → exec (.mlease d a b w) s =
            Done (u.setMe (u.me.writeG d (BitVec.ofNat 64 (2 ^ 63 + 256 * shape * 2 ^ 16 + cols))))) ∧
          (w = true → ¬free → exec (.mlease d a b w) s = Ends s1 (s1.me.writeG d 0x0100000000000000))))) ∧
    (BarClear s [] [] →
      (leased s = false → exec .mrelease s = Ends s s.me) ∧
      (leased s = true → s.myCore.q3.length < 16 →
        exec .mrelease s = Done (withLease (queued s .release false) fun l => { l with released := true })) ∧
      (leased s = true → 16 ≤ s.myCore.q3.length → exec .mrelease s = stall s))

/-- R168, R175, R181, R187: what refuses a command: no lease of the strand, where the core's is held by another, released, or none; a
region, a column block or an A row that is out of bounds; a tray that was planted under another group size or sparsity.  A command that
names a tile waits for the strand's commands before it that stand in the way. -/
def Sys2Proof.Claims.MillChecks : Prop :=
  ∀ (s : State) (l : Lease) (fn : Nat) (d : TileReg) (gb : Word) (fits : Bool),
    let n := reqCols l.request / 256
    let c0 := gb.toNat % 64
    let nc := if gb.toNat / 256 % 64 = 0 then n - c0 else gb.toNat / 256 % 64
    let inside := c0 < n ∧ c0 + nc ≤ n
    let alike := ∀ i, c0 * reqShape l.request ≤ i → i < (c0 + nc) * reqShape l.request →
      l.mismatch (s.myCore.issueFmt l) i = false
    (16 ≤ s.myCore.q3.length → (M.lease fn).run.run s = (.error .wait, s)) ∧
    (s.myCore.q3.length < 16 →
      (s.myCore.leases.find? (mine s) = some l → Yields (M.lease fn) s l s) ∧
      (leased s = false →
        (s.myCore.held = none → Traps (M.lease fn) s (refusal 1 fn) s) ∧
        (s.myCore.held = some l → Traps (M.lease fn) s (refusal (if l.released then 1 else 2) fn) s))) ∧
    (¬inside → Traps (M.blocks l gb fn) s (refusal 4 fn) s) ∧ (inside → Yields (M.blocks l gb fn) s (c0, nc) s) ∧
    (reqRegions l.request ≤ d.toNat → Traps (M.mmaChecks l d gb fn fits) s (refusal 3 fn) s) ∧
    (d.toNat < reqRegions l.request →
      (¬inside → Traps (M.mmaChecks l d gb fn fits) s (refusal 4 fn) s) ∧
      (inside → fits = false → Traps (M.mmaChecks l d gb fn fits) s (refusal 5 fn) s) ∧
      (inside → fits = true → ¬alike → Traps (M.mmaChecks l d gb fn fits) s (refusal 6 fn) s) ∧
      (inside → fits = true → alike → Yields (M.mmaChecks l d gb fn fits) s (c0, nc) s)) ∧
    (∀ (i : Nat) (write : Bool),
      (tileFree s i write = true → Yields (M.tileOrder i write) s () s) ∧
      (tileFree s i write = false → (M.tileOrder i write).run.run s = (.error .wait, s)))

/-- R182 to R190, R192: a command that passes its checks joins the mill's queue; MDRAIN and MCHAIN leave their register waiting;
MSTAT reads the queue's state. -/
def Sys2Proof.Claims.MillCommands : Prop :=
  ∀ (s s1 : State) (l : Lease) (d t i : TileReg) (a b v : Reg) (neg za : Bool) (r : BitVec 4) (c0 nc : Nat) (x : TWord),
    let ga := s.me.readG a
    let gb := s.me.readG b
    let fmt := s.myCore.issueFmt l
    let pitch : Word := BitVec.ofNat 64 (gb.toNat / 2 ^ 32)
    (Under s l →
      (BarClear s [a] [] → fmtGood s.me ga = true →
        exec (.mfmt a) s = Done (queued s (.mfmt { word := ga, nfmt := s.me.nfmt }) false)) ∧
      (BarClear s [] [] → d.toNat < reqRegions l.request → exec (.mzero d) s = Done (queued s (.mzero d.toNat) false)) ∧
      (BarClear s [b] [] → Yields (M.mmaChecks l d gb 4 (decide (fmt.rowBytes l.request ≤ 1024))) s (c0, nc) s →
        tileFree s t.toNat false = true → Yields (M.readTile t.toNat) s x s1 →
        Yields (M.versionCheck l (blockTrays l.request c0 nc)) s1 () s1 →
        exec (.mma d t b neg za r) s = Done (queued s1 (.mma d.toNat t.toNat c0 nc (r.toNat + 1) neg za) false)) ∧
      (BarClear s [a, b] [] → Yields (M.mmaChecks l d gb 5 true) s (c0, nc) s →
        Yields (M.versionCheck l (blockTrays l.request c0 nc)) s () s → rowsAt ga pitch (r.toNat + 1) 2 →
        exec (.mmas d a b neg za r) s = Done (queued s (.mmas d.toNat ga pitch c0 nc (r.toNat + 1) neg za) true)) ∧
      (let acc := gb.toNat / 2 ^ 16 % 8
       acc < reqRegions l.request → Yields (M.blocks l gb 7) s (c0, nc) s →
       (BarClear s [a, b] [v] → rowsAt ga pitch (r.toNat + 1) fmt.drain.2 →
         exec (.mdrain v a b r za .address) s =
           Done (awaiting (queued s (.drainAddr ga pitch acc c0 nc (r.toNat + 1) za v) true) v)) ∧
       (BarClear s [b] [v] → nc * 256 * fmt.drain.2 ≤ 1024 → tileFree s (gb.toNat / 2 ^ 32 % 8) true = true → Yields M.claim s () s1 →
         exec (.mdrain v a b r za .tile) s =
           Done (awaiting (queued s1 (.drainTile (gb.toNat / 2 ^ 32 % 8) acc c0 nc (r.toNat + 1) za v) true) v))) ∧
      (BarClear s [b] [] → s.me.vpend.getLsbD v.toNat = false → i.toNat < reqRegions l.request →
        gb.toNat / 256 % 64 < reqCols l.request / 256 →
        let q := queued s (.mchain v i.toNat (gb.toNat % 16) (gb.toNat / 256 % 64) za) false
        exec (.mchain v i b za) s = Done (q.setMe { q.me with vpend := q.me.vpend ||| (1#32 <<< v.toNat) }))) ∧
    (BarClear s [] [v] → ∃ w : Word, exec (.mstat v) s = Ends s (s.me.writeG v w) ∧
      w.getLsbD 63 = s.myCore.halt.isSome ∧ w.getLsbD 62 = leased s ∧
      w.getLsbD 61 = s.myCore.leases.any (·.displaced) ∧
      (w.extractLsb' 56 5).toNat = s.myCore.q3.length % 32 ∧
      (w.extractLsb' 40 16).toNat = (s.myCore.q3.head?.map (·.seq)).getD 0 % 65536 ∧
      (w.extractLsb' 16 16).toNat = (s.myCore.q3.head?.map (·.progress)).getD 0 % 65536 ∧
      (s.myCore.held = none → (w.extractLsb' 0 16).toNat = 0) ∧
      ∀ l, s.myCore.held = some l → (w.extractLsb' 0 16).toNat =
        if l.request.getLsbD 32 then
          min 0xFFFF ((l.since + 2 ^ (l.request.extractLsb' 24 8).toNat - s.cyclesOf s.myCoreNo) / 16)
        else l.left % 65536)

/-- R181, R182, R187 to R190, R192: what refuses a mill command, and that one which passes joins the queue. -/
def Obligations.MillQueue : Prop := MillChecks ∧ MillCommands

/-- R183, R184: PLANT reads its descriptor and, where it keeps its limits, joins the queue; its trays carry the group size, the
sparsity and the tag of this plant from its issue on. -/
def Obligations.Plants : Prop :=
  ∀ (s s1 s2 s3 : State) (l : Lease) (a b : Reg) (tile : Bool) (src pitch dims aux slotNo : Nat) (tag : TrayTag),
    let da := s.me.readG a
    let t0 := (s.me.readG b).toNat % 64
    let nt := (s.me.readG b).toNat / 256 % 64
    let fmt := s1.myCore.issueFmt l
    Under s l → BarClear s [a, b] [] → 0 < nt → t0 + nt ≤ reqTrays l.request → da.toNat % 32 = 0 →
    Yields (do return (← M.descWord da 0, ← M.descWord da 1, ← M.descWord da 2, ← M.descWord da 3)) s (src, pitch, dims, aux) s1 →
    dims % 2 ^ 32 ≤ (if tile then 128 else reqRows l.request) → dims / 2 ^ 32 ≤ reqCols l.request →
    (aux ≠ 0 → fmt.bmx = true ∨ fmt.spn ≠ 0) → (tile = true → pitch = 0 ∧ src < 8) →
    let p :=
      { src := BitVec.ofNat 64 src, pitch := BitVec.ofNat 64 pitch, kv := dims % 2 ^ 32, nv := dims / 2 ^ 32,
        aux := BitVec.ofNat 64 aux, t0 := t0, nt := nt, tile := tile, tag := .none, slotNo := 0, mode := s.me.mode,
        adopted := s.me.adopted : PlantArgs }
    Yields (M.plantTag p l.request (codeBytes fmt.bCode)) s1 (tag, slotNo) s2 →
    (if tile then (∀ i < (dims % 2 ^ 32 + 15) / 16, tileFree s2 ((src + i) % 8) false = true) ∧ Yields M.claim s2 () s3 else s3 = s2) →
    let tray : Tray := { group := fmt.group, spn := fmt.spn, tag := tag }
    exec (.plant a b tile) s = Done (withLease (queued s3 (.plant { p with tag := tag, slotNo := slotNo }) true) fun l =>
      { l with trays := ((List.range nt).map (t0 + ·)).foldl (fun ts i => Tab.set ts i tray) l.trays })

namespace Sys2Proof.Claims

/-- The product at position `k` of two groups is a NaN: an element is a NaN, or an infinity meets a zero (R75). -/
def NanAt (a b : PanelGroup) (k : Nat) : Prop :=
  (a.at k).1 = .nan ∨ (b.at k).1 = .nan ∨ ((∃ n, (a.at k).1 = .inf n) ∧ ∃ n, (b.at k).1 = .num n 0) ∨
    ((∃ n, (a.at k).1 = .num n 0) ∧ ∃ n, (b.at k).1 = .inf n)

/-- The product at position `k` of two groups is an infinity of sign `neg` (R75). -/
def InfAt (a b : PanelGroup) (neg : Bool) (k : Nat) : Prop :=
  ¬NanAt a b k ∧ ((∃ n, (a.at k).1 = .inf n) ∨ ∃ n, (b.at k).1 = .inf n) ∧ ((a.at k).1.neg != (b.at k).1.neg) = neg

/-- A cell holds a magnitude of that sign: `.tiny` is that of a value other than zero whose magnitude rounded to zero. -/
def Holds (c : Cell) (neg : Bool) (x : Nat) : Prop := c = .num neg x ∨ (c = .tiny neg ∧ x = 0)

end Sys2Proof.Claims

/-- R73 to R76: a group's value is the exact sum of its products rounded once, where no cell is an infinity or a NaN.  A NaN, an infinity
that meets a zero, or opposite infinities make it the default NaN, which is flagged but where the NaN stands at a position that a sparse
panel skips (R69); infinities of one sign make it that infinity.  An element is aligned to the nearest multiple of its group's step, a tie
to an even one, and loses bits where it is no multiple; the step is that of the greatest exponent of the group.  An accumulation rounds
the exact sum of two values. -/
def Obligations.AlignedProducts : Prop :=
  (∀ (sparse : Bool) (n w : Nat) (a b : PanelGroup) (na nb : Nat → Bool) (x y : Nat → Nat),
    (∀ k < n, Holds (a.at k).1 (na k) (x k) ∧ Holds (b.at k).1 (nb k) (y k)) →
    let p := ((List.range n).map fun k => signedProduct (na k) (nb k) (x k) (y k)).sum
    groupValue sparse n w a b =
      if p = 0 then (0, 0) else fpRound fp32 .rne 0 ⟨decide (p < 0), p.natAbs, (a.exp - w + 1) + (b.exp - 15), false⟩) ∧
  (∀ (sparse : Bool) (n w : Nat) (a b : PanelGroup),
    let opposite := (∃ k < n, InfAt a b false k) ∧ ∃ k < n, InfAt a b true k
    ((∃ k < n, NanAt a b k) ∨ opposite →
      (groupValue sparse n w a b).1 = 0x7FC00000 ∧
      ((opposite ∨ ∃ k < n, NanAt a b k ∧ (sparse = false ∨ (b.at k).2 = true)) → (groupValue sparse n w a b).2 = flagNV) ∧
      (¬opposite → (∀ k < n, NanAt a b k → sparse = true ∧ (b.at k).2 = false) → (groupValue sparse n w a b).2 = 0)) ∧
    (∀ neg, (∀ k < n, ¬NanAt a b k) → (∃ k < n, InfAt a b neg k) → (∀ k < n, ¬InfAt a b (!neg) k) →
      groupValue sparse n w a b = (if neg then 0xFF800000 else 0x7F800000, 0))) ∧
  (∀ (q : Int) (neg : Bool) (m : Nat) (e : Int), m ≠ 0 →
    ∃ k : Nat, (alignCell q (.fin neg m e)).1 = (if k = 0 then .tiny neg else .num neg k) ∧
      2 * exactly false k q ≤ 2 * exactly false m e + exactly false 1 q ∧
      2 * exactly false m e ≤ 2 * exactly false k q + exactly false 1 q ∧
      (2 * exactly false k q = 2 * exactly false m e + exactly false 1 q ∨
        2 * exactly false m e = 2 * exactly false k q + exactly false 1 q → k % 2 = 0) ∧
      ((alignCell q (.fin neg m e)).2 = true ↔ exactly false k q ≠ exactly false m e)) ∧
  (∀ (q e : Int) (neg pay : Bool), alignCell q (.fin neg 0 e) = (.num neg 0, false) ∧ alignCell q (.inf neg) = (.inf neg, false) ∧
    alignCell q (.nan pay) = (.nan, false)) ∧
  (∀ (w : Nat) (vs : List FpVal),
    let g := alignGroup w (vs.zipIdx.map fun x => (x.2, x.1))
    (∀ k v, vs[k]? = some v → (g.1.at k) = ((alignCell (g.1.exp - w + 1) v).1, true) ∧
      (k ∈ g.2 ↔ (alignCell (g.1.exp - w + 1) v).2 = true)) ∧
    (∀ neg m e, FpVal.fin neg m e ∈ vs → m ≠ 0 → topExp m e ≤ g.1.exp) ∧
    ((∃ neg m e, FpVal.fin neg m e ∈ vs ∧ m ≠ 0) → ∃ neg m e, FpVal.fin neg m e ∈ vs ∧ m ≠ 0 ∧ topExp m e = g.1.exp)) ∧
  (∀ x y, accumulate x y = fpDeliver fp32 .rne 0 (fpAdd .rne (fp32.value x) (fp32.value y)))

namespace Sys2Proof.Claims

/-- The accumulators of a row's column blocks c0 to c0 + nc - 1 have the values `v`, and all others are as they were. -/
def RowSet (y z : Lease) (region row c0 nc : Nat) (v : Nat → Nat) : Prop :=
  ∀ r i j, i < 16 → j < 16384 →
    z.accAt r i j = if r = region ∧ i = row ∧ c0 * 256 ≤ j ∧ j < (c0 + nc) * 256 then v j else y.accAt r i j

/-- An accumulator after a row of A has been multiplied into it: the groups in ascending order, each added with a rounding of its own
(R74, R187). -/
def columnSum (l : Lease) (neg : Bool) (bs : List Byte) (start j : Nat) : Nat :=
  (aGroups l.fmt (l.fmt.depth l.request) neg bs).zipIdx.foldl (fun v g =>
    (accumulate v (groupValue (l.fmt.spn != 0) l.fmt.group l.fmt.width g.1.1 (l.groupAt l.fmt g.2 j)).1).1) start

/-- A row of accumulators as an MDRAIN writes it: converted to DFMT under DRND, little-endian (R189). -/
def drained (l : Lease) (acc row c0 nc : Nat) : List Byte :=
  ((rangeFrom (c0 * 256) (nc * 256)).map fun j =>
    bytesOf l.fmt.drain.2 (fpDeliver l.fmt.drain.1 l.fmt.drnd 0 (fp32.value (l.accAt acc row j)).raw).1).flatten

/-- The commands of a core's mill queue with the one at the head changed. -/
def headed (s : State) (core : Nat) (f : MillCmd → MillCmd) : List MillCmd :=
  ((s.coreAt core).q3.take 1).map f ++ (s.coreAt core).q3.drop 1

end Sys2Proof.Claims

/-- R178, R179, R193, R194: the grant of the request ahead of all others where it fits, while the others of its core wait for its end; the
step of the command at the head, its end, and its halt; the renewal of a spent budget, and the displacement of its lease. -/
def Sys2Proof.Claims.LeaseEvents : Prop :=
  (∀ (s : State) (cl c : Nat) (l : Lease), (c, l) ∈ s.contenders cl →
    (∀ y ∈ s.contenders cl, y = (c, l) ∨ leaseAhead (s.clusterCycles cl) (c, l) y = true) →
    (s.fits cl l.request = true → exec (.leaseGrant cl) s = .next (s.grantTo c l)) ∧
    (s.fits cl l.request = false → exec (.leaseGrant cl) s = .next s)) ∧
  (∀ (s : State) (c : Nat) (l : Lease) (d : Reg),
    ((s.grantTo c l).coreAt c).leases = ((s.coreAt c).leases.map fun x =>
      if x = l then { l with
        left := if l.request.getLsbD 32 then 2 ^ (l.request.extractLsb' 24 8).toNat else (l.request.extractLsb' 24 8).toNat + 1,
        since := s.cyclesOf c, status := .granted, displaced := false, replant := l.displaced }
      else if x.status = .contending then { x with status := .queued } else x) ∧
    ((s.senderStrand (l.owner c)).cond = .lease d → l.displaced = false →
      (s.grantTo c l).senderStrand (l.owner c) = ((s.senderStrand (l.owner c)).writeG d
        (BitVec.ofNat 64 (2 ^ 63 + reqRows l.request * 2 ^ 16 + reqCols l.request))).advance)) ∧
  (∀ (s s1 : State) (core : Nat) (l : Lease) (x : MillCmd) (xs : List MillCmd), (s.coreAt core).held = some l →
    l.status = .granted → (s.coreAt core).halt = none → l.replant = false → (s.coreAt core).q3 = x :: xs →
    (l.spent (s.cyclesOf core) = false ∨ x.progress ≠ 0) → s.allPerformed x.after = true →
    (∀ d ∈ (s.coreAt core).departed, s.drainOver d = none) →
    (Yields (M.asStrand (core * 4 + x.slot) (M.millStep core l x)) s false s1 → exec (.millCommandPerform core) s = .next s1) ∧
    (Yields (M.asStrand (core * 4 + x.slot) (M.millStep core l x)) s true s1 →
      let c := (s1.coreAt core).mapHeld fun l => if l.request.getLsbD 32 then l else { l with left := l.left - 1 }
      exec (.millCommandPerform core) s = .next (s1.setCore core { c with q3 := c.q3.drop 1 })) ∧
    (∀ e, Traps (M.asStrand (core * 4 + x.slot) (M.millStep core l x)) s e s1 →
      let info := BitVec.ofNat 64 (x.op.fn + e.code % 256 * 2 ^ 8 + x.progress % 2 ^ 16 * 2 ^ 16 + x.seq % 2 ^ 16 * 2 ^ 32)
      let record := (e.addr, x.seq % 65536 * 2 ^ 48 + e.code % 256)
      let c := s1.coreAt core
      exec (.millCommandPerform core) s = .next (s1.setCore core (if x.dead then { c with q3 := c.q3.drop 1 } else
        { c with halt := some { slot := x.slot, sup := x.part.isNone, addr := e.addr, info := info },
                 qfaults := Tab.set c.qfaults (faultKey x.slot 3 x.part) record })))) ∧
  (∀ (s : State) (core : Nat) (l : Lease), (s.coreAt core).held = some l → l.status = .granted → l.spent (s.cyclesOf core) = true →
    l.replant = false →
    let busy := (s.coreAt core).halt = none ∧ ∃ x ∈ (s.coreAt core).q3, x.progress ≠ 0
    let me : Nat × Lease := (core, { l with joined := s.cyclesOf core, prio := (s.senderStrand (l.owner core)).prio })
    let wanted := ∃ y ∈ s.contenders (clusterOf core), s.fits (clusterOf core) y.2.request = false ∧ leaseAhead (s.cyclesOf core) y me = true
    (busy → exec (.budgetExpiry core) s = .next s) ∧
    (¬busy → ¬wanted → exec (.budgetExpiry core) s = .next (s.setCore core ((s.coreAt core).mapHeld fun l =>
      { l with left := if l.request.getLsbD 32 then 2 ^ (l.request.extractLsb' 24 8).toNat else (l.request.extractLsb' 24 8).toNat + 1,
               since := s.cyclesOf core }))) ∧
    (¬busy → wanted → ∃ t z, exec (.budgetExpiry core) s = .next t ∧ (t.coreAt core).held = some z ∧ z.status = .contending ∧
      z.displaced = true ∧ z.panel = [] ∧ z.acc = [] ∧ z.request = l.request ∧ z.joined = s.cyclesOf core ∧
      (t.coreAt core).q3 = (s.coreAt core).q3)) ∧
  (∀ (l : Lease) (now : Nat), l.spent now =
    if l.request.getLsbD 32 then decide (l.since + 2 ^ (l.request.extractLsb' 24 8).toNat ≤ now) else l.left == 0)

/-- R180, R182, R187 to R191: a step of the command at the head of the mill's queue, where its core's port is open to what it moves: the
end of a lease; a format context; a row of a product; a region of zeros; a row of an MDRAIN and its token; a slice; a row of an
MCOLL. -/
def Sys2Proof.Claims.CommandSteps : Prop :=
  ∀ (s s1 : State) (core : Nat) (l y : Lease) (x : MillCmd),
    let a := s.cmdAgent core x
    let i := x.progress
    (x.op = .release → Yields (M.millStep core l x) s true (s.setCore core { (s.coreAt core) with
      leases := promote (s.coreAt core).merging (s.cyclesOf core) ((s.coreAt core).leases.eraseP (·.isHeld)) })) ∧
    (∀ f, x.op = .mfmt f → Yields (M.millStep core l x) s true (s.setCore core ((s.coreAt core).mapHeld fun l => { l with fmt := f }))) ∧
    (∀ acc, x.op = .mzero acc → (s.coreAt core).held = some y → ∃ t z, Yields (M.millStep core l x) s true t ∧
      (t.coreAt core).held = some z ∧ (∀ row < 16, ∀ col < 16384, z.accAt acc row col = 0) ∧
      ∀ r, r ≠ acc → ∀ row < 16, ∀ col < 16384, z.accAt r row col = y.accAt r row col) ∧
    (∀ (acc c0 nc rows : Nat) (neg za : Bool) (bs : List Byte), i < 16 → c0 + nc ≤ 64 → s.portOpen a = true →
      (∃ tile, x.op = .mma acc tile c0 nc rows neg za ∧ Yields (M.queueTile a x.slot tile i (l.fmt.rowBytes l.request)) s bs s1) ∨
        (∃ addr pitch, x.op = .mmas acc addr pitch c0 nc rows neg za ∧
          Yields (M.readBytes a false (pagesOf (rowAddr addr pitch i) (l.fmt.rowBytes l.request))) s bs s1) →
      (s1.coreAt core).held = some y → ∃ t z, Yields (M.millStep core l x) s (decide (rows ≤ i + 1)) t ∧
        (t.coreAt core).held = some z ∧
        RowSet y z acc i c0 nc (fun j => columnSum l (neg || l.fmt.word.getLsbD 32) bs
          (if za || l.fmt.word.getLsbD 33 then 0 else l.accAt acc i j) j) ∧
        (t.coreAt core).q3 = headed s1 core fun c => { c with progress := i + 1 }) ∧
    (∀ (acc c0 nc rows : Nat) (clr : Bool) (token : Reg) (sent : List Nat), i < 16 → c0 + nc ≤ 64 → s.portOpen a = true →
      let bs := drained l acc i c0 nc
      let word := BitVec.ofNat 64 (2 ^ 63 + x.seq % 65536 * 2 ^ 40 + rows * nc * 256 * l.fmt.drain.2 % 2 ^ 40)
      ((∃ addr pitch, x.op = .drainAddr addr pitch acc c0 nc rows clr token ∧ (i < rows →
          Yields (M.bulkSend { a with plain := true } (x.sender core a.cid) l.prio (rowAddr addr pitch i) bs) s sent s1)) ∨
        (∃ tile, x.op = .drainTile tile acc c0 nc rows clr token ∧ sent = [] ∧ (i < rows →
          Yields (M.queueTilePut a x.slot tile i bs) s () s1))) →
      (rows ≤ i → Yields (M.millStep core l x) s true (if x.dead then s else s.giveToken core x.slot x.part token word)) ∧
      (i < rows → (s1.coreAt core).held = some y → ∃ t z, Yields (M.millStep core l x) s false t ∧ (t.coreAt core).held = some z ∧
        RowSet y z acc i c0 nc (fun j => if clr then 0 else y.accAt acc i j) ∧
        (t.coreAt core).q3 = headed s1 core fun c => { c with progress := i + 1, after := sent })) ∧
    (∀ (v : Reg) (acc row col : Nat) (clr : Bool), x.op = .mchain v acc row col clr → x.dead = false → row < 16 → col < 64 →
      (s.coreAt core).held = some y → ∃ t z val, Yields (M.millStep core l x) s true t ∧ (t.coreAt core).held = some z ∧
        (t.senderStrand (x.owner core)).vland = (s.senderStrand (x.owner core)).vland ++ [(v, val)] ∧
        (∀ j < 256, velem 32 val j = l.accAt acc row (col * 256 + j) % 2 ^ 32) ∧
        RowSet y z acc row col 1 fun j => if clr then 0 else y.accAt acc row j) ∧
    (∀ (e : QEntry) (acc rows : Nat) (clr : Bool), x.op = .mcoll e acc rows clr →
      let n := reqCols l.request / 256
      (i < rows → i < 16 → n ≤ 64 → (s.coreAt core).held = some y → ∃ t z, Yields (M.millStep core l x) s false t ∧
        (t.coreAt core).held = some z ∧ RowSet y z acc i 0 n (fun j => if clr then 0 else y.accAt acc i j) ∧
        (t.coreAt core).q3 = headed s core fun c =>
          { c with progress := i + 1, op := .mcoll { e with data := some (e.data.getD [] ++ drained l acc i 0 n) } acc rows clr }) ∧
      (rows ≤ i → let c := s.coreAt core
        (16 ≤ (c.queues[2]).length → (M.millStep core l x).run.run s = (.error .wait, s)) ∧
        ((c.queues[2]).length < 16 → Yields (M.millStep core l x) s true (s.setCore core
          { c with queues := c.queues.set 2 (c.queues[2] ++ [{ e with seq := c.qseq[2], dead := x.dead }]),
                   qseq := c.qseq.set 2 ((c.qseq[2] + 1) % 65536) })))) ∧
    (x.op.moves = true → s.portOpen a = false → (M.millStep core l x).run.run s = (.error .wait, s)) ∧
    (∀ (slot : Nat) (part : Option Nat) (reg : Reg) (w : Word),
      let m : Sender := { core := core, slot := slot, part := part, sup := part.isNone }
      (s.senderStrand m).mark reg = .waiting .token →
        (s.giveToken core slot part reg w).senderStrand m = (s.senderStrand m).writeG reg w)

/-- R74, R184 to R186: a step of a plant plants one alignment group of one tray.  In a dense panel its rows are the group's stored rows,
with their scales; in a sparse one each cell stands at the row that its index names, where the index rises from the row before, and SAT
says that some index does not.  The plant is recorded at its end. -/
def Sys2Proof.Claims.PlantSteps : Prop :=
  ∀ (s s1 s2 : State) (core : Nat) (l : Lease) (p : PlantArgs) (fmt : FmtCtx) (a : Agent) (src : PlantFrom) (tray u : Nat),
    (∀ (x : MillCmd) (fl : Flags), x.op = .plant p → s.portOpen (s.cmdAgent core x) = true →
      let n := l.fmt.trayGroups
      Yields (M.plantUnit core l p l.fmt (s.cmdAgent core x) .source (p.t0 + x.progress / n) (x.progress % n)) s fl s1 →
      ∃ t, Yields (M.millStep core l x) s (decide (p.nt * n ≤ x.progress + 1)) t ∧
        (t.coreAt core).q3 = headed s1 core (fun c => { c with progress := x.progress + 1 }) ∧
        ∀ y, (s1.coreAt core).held = some y → ∃ z, (t.coreAt core).held = some z ∧ z.panel = y.panel ∧
          (p.nt * n ≤ x.progress + 1 → z.records = keepRecords (y.records ++ [{ args := p, fmt := l.fmt }]))) ∧
    (∀ (cols : List (PanelGroup × Flags)) (y : Lease), cols.length = 256 →
      Yields (if fmt.spn = 0 then M.denseUnit l p fmt a src tray u else M.sparseUnit l p fmt a src tray u) s cols s1 →
      (s1.coreAt core).held = some y → ∃ t z fl, Yields (M.plantUnit core l p fmt a src tray u) s fl t ∧
        (t.coreAt core).held = some z ∧
        (∀ n < 8, fl.getLsbD n = true ↔ ∃ c ∈ cols, c.2.getLsbD n = true) ∧
        ∀ col < 256, (Tab.get {} z.panel (panelKey tray col u)).cells = (cols.getD col ({}, 0)).1.cells) ∧
    (∀ (rows : List (List Nat)) (scales : List Nat), let first := 256 * (tray % reqShape l.request) + u * fmt.group
      Yields ((rangeFrom first fmt.group).mapM fun row => M.plantRow l p fmt a src tray row fun _ => true) s rows s1 →
      (if fmt.bmx = true ∧ first < p.kv ∧ (plantCols l.request p.nv tray).1 ≠ 0 then
        Yields (M.auxRow l p a tray (first / fmt.group)) s1 scales s2 else scales = [] ∧ s2 = s1) →
      ∃ cols, Yields (M.denseUnit l p fmt a src tray u) s cols s2 ∧ cols.length = 256 ∧ ∀ col < 256,
        let vals := rows.filterMap fun r => (r[col]?).map fun code => scaled (scales[col]?) ((fmt.format fmt.bCode).value code)
        let g := (cols.getD col ({}, 0)).1
        (∀ k v, vals[k]? = some v → (g.at k).1 =
          let c := (alignCell (g.exp - 15) v).1
          if c.isZero then .num false 0 else c) ∧
        ((cols.getD col ({}, 0)).2 = flagAL ↔ ∃ v ∈ vals, (alignCell (g.exp - 15) v).2 = true)) ∧
    (∀ (index rows : List (List Nat)), let first := 256 * (tray % reqShape l.request) + u / fmt.subGroups * fmt.nz
      let sub := u % fmt.subGroups
      let place := fun (col : Nat) => sparsePlaces none (index.filterMap fun r => r[col]?)
      Yields ((rangeFrom first fmt.nz).mapM fun row => if row < p.kv then M.auxRow l p a tray row else pure []) s index s1 →
      Yields ((List.range fmt.nz).mapM fun i => M.plantRow l p fmt a src tray (first + i) fun col =>
        match (place col).getD i none with
        | some (x, good) => good && x / fmt.group == sub
        | none => false) s1 rows s2 →
      ∃ cols, Yields (M.sparseUnit l p fmt a src tray u) s cols s2 ∧ cols.length = 256 ∧ ∀ col < 256,
        let g := (cols.getD col ({}, 0)).1
        (∀ i x code, (place col)[i]? = some (some (x, true)) → x / fmt.group = sub → (rows.getD i [])[col]? = some code →
          (∀ j, i < j → ∀ good, (place col)[j]? ≠ some (some (x, good))) →
          (g.at (x % fmt.group)) = ((alignCell (g.exp - 15) ((fmt.format fmt.bCode).value code)).1, true)) ∧
        ((cols.getD col ({}, 0)).2 &&& flagSAT ≠ 0 ↔ ∃ q ∈ place col, ∀ x, q ≠ some (x, true))) ∧
    (∀ (xs : List Nat) (i : Nat), (sparsePlaces none xs)[i]? = xs[i]?.map fun x =>
      if x ≤ 63 then some (x, decide (i = 0 ∨ xs.getD (i - 1) 0 < x)) else none)

/-- R190: the event MCHAIN_LANDING: the oldest slice on its way to a register lands there. -/
def Sys2Proof.Claims.Landings : Prop :=
  ∀ (s : State) (k : Nat) (v : Reg) (x : VWord) (xs : List (Reg × VWord)), (s.strandAt k).vland = (v, x) :: xs →
    let t := (s.strandAt k).writeV v x
    exec (.mchainLanding k v) s =
      .next (s.setStrand k { t with vpend := t.vpend &&& ~~~(1#32 <<< v.toNat), vland := xs.filter (·.1 != v) })

/-- R74, R178 to R180, R182, R184 to R191, R193, R194: the mill's events, and what each of its commands does. -/
def Obligations.MillEvents : Prop := LeaseEvents ∧ CommandSteps ∧ PlantSteps ∧ Landings

namespace Sys2Proof.Claims

/-! ## Queues -/

/-- The state with an entry at the tail of a queue of the strand's core, under the queue's next number, and the entry's token
awaited (R238, R253). -/
def enqueued (s : State) (q : Fin 3) (e : QEntry) : State :=
  let c := s.myCore
  let i : Fin 4 := q.castSucc
  let t := s.setMyCore { c with queues := c.queues.set q (c.queues[q] ++ [{ e with seq := c.qseq[i] }]),
                                qseq := c.qseq.set i ((c.qseq[i] + 1) % 65536) }
  awaiting t e.token

/-- The four words of a request (R242). -/
def requestRegs (a : Reg) : List Reg := [a, a + 1, a + 2, a + 3]

/-- Request word 0 of a copy: its kind, queue, barrier and length (R242). -/
def copyWord (kind queue bid length : Nat) (ben : Bool) : Word :=
  BitVec.ofNat 64 (kind * 2 ^ 56 + queue * 2 ^ 52 + (if ben then 2 ^ 47 else 0) + bid * 2 ^ 32 + length)

/-- ILLEGAL at the strand's instruction. -/
def illegal (s : State) (w : IWord) (reason : Nat) : Out :=
  .next (s.take { code := 0x01, info := BitVec.ofNat 64 (reason * 2 ^ 32 + w.toNat) } s.me.pc)

/-- What was queued from a slot, by a strand of a partition or of none that has not ended, is of the strand that moves. -/
def isMine (s : State) (slot : Nat) (part : Option Nat) (dead : Bool) : Bool :=
  slot == s.mySlotNo && part.isNone == isSup s && !dead

/-- The entries of queue `q` of the strand's core: whether each is the strand's, and its number, oldest first. -/
def entriesOf (s : State) (q : Nat) : List (Bool × Nat) :=
  if q = 3 then s.myCore.q3.map fun x => (isMine s x.slot x.part x.dead, x.seq)
  else (s.myCore.queues.toList.getD q []).map fun x => (isMine s x.slot x.part x.dead, x.seq)

/-- Request word 3 of a segment copy keeps its limits: F fields of `sz` bytes, with a permutation of the planes (R246). -/
def SegmentWord (w0 w3 : Word) : Prop :=
  let f := (w0.extractLsb' 48 4).toNat
  let sz := 2 ^ (w3.extractLsb' 0 2).toNat
  let perm := fun i => (w3.extractLsb' (8 + 3 * i) 3).toNat
  2 ≤ f ∧ f ≤ 8 ∧ w3.extractLsb' 2 6 = 0 ∧ (w3.extractLsb' 32 32).toNat % sz = 0 ∧ (w0.extractLsb' 0 32).toNat % (f * sz) = 0 ∧
    (∀ i < f, perm i < f ∧ ∀ j < f, perm i = perm j → i = j) ∧ ∀ i < 8, f ≤ i → perm i = 0

/-- Request words 0 and 3 keep every limit that is checked at issue, in a module of this domain number (R242 to R250, R261). -/
def GoodWords (domain : Nat) (w0 w3 : Word) : Prop :=
  let kind := (w0.extractLsb' 56 8).toNat
  let queue := (w0.extractLsb' 52 4).toNat
  let fields := (w0.extractLsb' 48 4).toNat
  w0.extractLsb' 43 4 = 0 ∧ (w0.getLsbD 47 = false → w0.extractLsb' 32 11 = 0) ∧
  (if kind = 0x10 ∨ kind = 0x11 then queue = 2 else queue ≤ 1) ∧
  (kind = 5 ∨ kind = 6 ∨ (kind = 7 ∧ fields ≤ 12) ∨ fields = 0) ∧
  ((kind ∈ [1, 8] ∧ w3 = 0) ∨ (kind = 2 ∧ w3.extractLsb' 48 16 ≠ 0) ∨ (kind ∈ [3, 4] ∧ w3.extractLsb' 60 4 = 0) ∨
    (kind ∈ [5, 6] ∧ SegmentWord w0 w3) ∨ (kind = 7 ∧ w3.extractLsb' 0 2 = 0) ∨
    (kind ∈ [0x10, 0x11] ∧ w3.extractLsb' 14 50 = 0 ∧ w3.getLsbD 7 = false ∧ (w3.extractLsb' 8 4).toNat ≤ 5 ∧
      (w3.getLsbD 6 = false → w3.extractLsb' 0 6 = 0) ∧ (w3.extractLsb' 12 2 = 3 ↔ kind = 0x11)) ∨
    (kind = 0x20 ∧ w3.extractLsb' 32 32 = 0 ∧ w3.extractLsb' 4 12 = 0 ∧ (w3.extractLsb' 0 3).toNat ≠ domain))

/-- The contexts that have departed from the strand's core, whose queues may hold entries of a supervisor strand. -/
def behind (s : State) : List Departed := if isSup s then s.myCore.departed else []

end Sys2Proof.Claims

/-- R238, R242 to R250, R253, R257, R259 to R261: CPQ and CPQT queue a good request and leave g[d] waiting, or find the queue full; a request
that breaks its limits is illegal; QFENCE waits for the strand's entries; QSTAT reads the queues. -/
def Sys2Proof.Claims.QueueForms : Prop :=
  ∀ (s : State) (d a : Reg) (m : BitVec 4) (n : BitVec 2),
    let w0 := s.me.readG a
    let w3 := s.me.readG (a + 3)
    let q := queueOf w0
    let e := s.newEntry w0 (s.me.readG (a + 1)) (s.me.readG (a + 2)) w3 d none
    (BarClear s (requestRegs a) [d] →
      (requestGood s.domain w0 w3 = true →
        ((s.myCore.queues[q]).length < 16 →
          exec (.cpq d a) s = Done (enqueued s q e) ∧ exec (.cpqt d a) s = Done (enqueued s q e)) ∧
        (16 ≤ (s.myCore.queues[q]).length →
          exec (.cpq d a) s = stall s ∧ exec (.cpqt d a) s = Ends s (s.me.writeG d 0x8200000000000000))) ∧
      (requestGood s.domain w0 w3 = false →
        exec (.cpq d a) s = illegal s (wordOf (.cpq d a)) 3 ∧ exec (.cpqt d a) s = illegal s (wordOf (.cpqt d a)) 3)) ∧
    (∀ (dom : Nat) (w0 w3 : Word), requestGood dom w0 w3 = true ↔ GoodWords dom w0 w3) ∧
    (∀ (dom bid length queue : Nat) (ben : Bool), queue ≤ 1 → bid < 2048 → (ben = false → bid = 0) → length < 2 ^ 32 →
      requestGood dom (copyWord 0x01 queue bid length ben) 0 = true ∧
      queueOf (copyWord 0x01 queue bid length ben) = (if queue = 0 then 0 else 1)) ∧
    (BarClear s [] [] →
      let waits := (∃ q < 3, m.getLsbD q = true ∧ ∃ v ∈ s.myCore.queues :: (behind s).map (·.queues),
          ∃ e ∈ v.toList.getD q [], isMine s e.slot e.part e.dead = true) ∨
        (m.getLsbD 3 = true ∧ ∃ x ∈ s.myCore.q3, isMine s x.slot x.part x.dead = true)
      (waits → exec (.qfence m) s = stall s) ∧ (¬waits → exec (.qfence m) s = Ends s s.me)) ∧
    (BarClear s [] [d] →
      (let es := entriesOf s n.toNat
       ∃ w : Word, exec (.qstatOcc d n) s = Ends s (s.me.writeG d w) ∧
        (es.length < 256 → (w.extractLsb' 48 8).toNat = es.length ∧
          (w.extractLsb' 56 8).toNat = es.countP (·.1)) ∧
        w.extractLsb' 32 16 = 0 ∧ w.extractLsb' 0 16 = 0 ∧
        (w.extractLsb' 16 16).toNat = (match es with
          | [] => s.myCore.qseq.toList.getD n.toNat 0
          | e :: _ => e.2) % 65536) ∧
      exec (.qstatFaddr d n) s = Ends s (s.me.writeG d (Tab.get (0, 0) s.myCore.qfaults ((if isSup s then 4 else s.mySlotNo) * 4 + n.toNat)).1) ∧
      exec (.qstatFcause d n) s =
        Ends s (s.me.writeG d (BitVec.ofNat 64 (Tab.get (0, 0) s.myCore.qfaults ((if isSup s then 4 else s.mySlotNo) * 4 + n.toNat)).2)))

/-- R191, R258: GCAST queues a copy for the cores of the named members; MCOLL queues a collective behind the mill's commands. -/
def Sys2Proof.Claims.GangQueues : Prop :=
  ∀ (s : State) (d a b : Reg) (t : TileReg) (r : BitVec 4) (clr : Bool) (l : Lease),
    let src := s.me.readG a
    let w0 := s.me.readG (a + 1)
    let mask := s.me.readG b
    let bid := (w0.extractLsb' 32 11).toNat
    let len := (w0.extractLsb' 0 32).toNat
    (BarClear s [a, a + 1, b] [d] → (w0.extractLsb' 48 16) = 0 → (w0.extractLsb' 43 4) = 0 →
      (w0.getLsbD 47 = false → bid = 0) → s.me.gang ≠ 0xFFFF → mask.toNat < 2 ^ (s.me.sizem1 + 1) → spaceOf src = .scratch →
      localCore src = s.myCoreNo → localOff src + len ≤ 2 ^ 20 → (s.myCore.queues[0]).length < 16 →
      exec (.gcast d a b) s = Done (enqueued s 0 (s.newEntry w0 src 0 0 d (some (s.castTargets mask)))) ∧
      s.myCoreNo ∉ s.castTargets mask ∧ (s.castTargets mask).Nodup) ∧
    (let c0 := s.me.readG a
     let c3 := s.me.readG (a + 3)
     let eb := (s.myCore.issueFmt l).drain.2
     let e := s.newEntry c0 (s.me.readG (a + 1)) (s.me.readG (a + 2)) c3 d none
     BarClear s (requestRegs a) [d] → Under s l → t.toNat < reqRegions l.request →
     (c0.extractLsb' 56 8 = 0x10 ∨ c0.extractLsb' 56 8 = 0x11) → c0.extractLsb' 52 4 = 2 →
     (c0.extractLsb' 0 32).toNat = (r.toNat + 1) * reqCols l.request * eb → requestGood s.domain c0 c3 = true →
     exec (.mcoll d a t r clr) s =
       Done (awaiting (queued s (.mcoll { e with after := [] } t.toNat (r.toNat + 1) clr) true) d))

/-- R191, R238, R242, R253, R257 to R260: the instructions of the copy queues and the collectives. -/
def Obligations.QueueRequests : Prop := QueueForms ∧ GangQueues

namespace Sys2Proof.Claims

/-- An entry is a de-interleave (R246). -/
def isDeinterleave (e : QEntry) : Prop := e.targets = none ∧ reqKind e.w0 = 5

/-- A byte of an entry's destination layout, by segment and offset, comes before another. -/
def Before (x y : Nat × Nat) : Prop := x.1 < y.1 ∨ (x.1 = y.1 ∧ x.2 < y.2)

/-- A piece is a part of segment `i` of an entry from offset `k` on. -/
def PartOf (e : QEntry) (p : Piece) (i k : Nat) : Prop :=
  ∃ q, e.segment i = some q ∧ k + p.n ≤ q.n ∧ p.dst = q.dst.map (· + BitVec.ofNat 64 k) ∧ p.src = q.src.skip k ∧ p.plane = q.plane

end Sys2Proof.Claims

/-- R254, 18 R406: a chunk of an entry moves the bytes of its destination layout from where it stands to where the next chunk goes on, all
of them and in their order, at most 2 KiB.  Each piece lies within one 2 KiB block of its destination; all pieces lie within the same
one, but of a de-interleave, which moves whole records, those of one plane do. -/
def Sys2Proof.Claims.Chunks : Prop :=
  ∀ (e : QEntry), (∀ q, e.segment e.seg = some q → e.off ≤ q.n) →
    (isDeinterleave e → e.off = 0 ∧ e.seg % reqFields e.w0 = 0 ∧ SegmentWord e.w0 e.w3 ∧ e.w2.toNat % segSize e.w3 = 0) →
    let ps := e.nextChunk.1
    let next := e.nextChunk.2
    (ps.map (·.n)).sum ≤ 2048 ∧
    (∀ p ∈ ps, ∃ i k, PartOf e p i k ∧ (e.seg < i ∨ (i = e.seg ∧ e.off ≤ k)) ∧ (p.n = 0 ∨ Before (i, k + p.n - 1) next)) ∧
    (∀ i k q, ¬Before (i, k) (e.seg, e.off) → Before (i, k) next → e.segment i = some q → k < q.n →
      ∃ p ∈ ps, ∃ l, PartOf e p i l ∧ l ≤ k ∧ k < l + p.n) ∧
    (∀ p ∈ ps, ∀ va, p.dst = some va → va.toNat % 2048 + p.n ≤ 2048) ∧
    (∀ p ∈ ps, ∀ q ∈ ps, ∀ x y, p.dst = some x → q.dst = some y → (isDeinterleave e → p.plane = q.plane) →
      x.toNat / 2048 = y.toNat / 2048) ∧
    (isDeinterleave e → next.2 = 0 ∧ next.1 % reqFields e.w0 = 0) ∧
    (e.seg < e.segCount → e.seg < next.1 ∨ e.off < next.2)

/-- R245 to R247, R249 to R251, R258: what an entry moves, segment by segment of its destination layout. -/
def Sys2Proof.Claims.Segments : Prop :=
  ∀ (e : QEntry),
    let w := fun (x : Word) (n : Nat) => x + BitVec.ofNat 64 n
    let len := reqLength e.w0
    let pitch := fun (lo : Nat) => BitVec.ofInt 64 (e.w3.extractLsb' lo 24).toInt
    (∀ cores i c, e.targets = some cores → cores[i]? = some c → e.segment i = some
      { dst := some (0xFFFFFFFFC0000000 + BitVec.ofNat 64 (c * 2 ^ 20 + localOff e.w1)), src := .mem e.w1, n := len }) ∧
    (e.targets = none →
      (reqKind e.w0 = 0x01 → e.segment 0 = some { dst := some e.w2, src := .mem e.w1, n := len }) ∧
      (reqKind e.w0 = 0x08 → e.segment 0 = some { dst := some e.w2, src := .pattern 0, n := len }) ∧
      (reqKind e.w0 = 0x02 → ∀ r : Nat, e.segment r = some
        { dst := some (e.w2 + BitVec.ofNat 64 r * pitch 0), src := .mem (e.w1 + BitVec.ofNat 64 r * pitch 24), n := len }) ∧
      (let f := reqFields e.w0
       let sz := 2 ^ (e.w3.extractLsb' 0 2).toNat
       ∀ r i : Nat, i < f → f ≤ 8 →
         let plane := (e.w3.extractLsb' (8 + 3 * i) 3).toNat * (e.w3.extractLsb' 32 32).toNat + r * sz
         let line := (r * f + i) * sz
         (reqKind e.w0 = 0x05 → e.segment (r * f + i) = some
           { dst := some (w e.w2 plane), src := .mem (w e.w1 line), n := sz, plane := i }) ∧
         (reqKind e.w0 = 0x06 → e.segment (r * f + i) = some
           { dst := some (w e.w2 line), src := .mem (w e.w1 plane), n := sz })) ∧
      (reqKind e.w0 = 0x07 → ∀ i, e.segment i = some
        { dst := some (w e.w2 (i * 2 ^ reqFields e.w0)), src := .index i 0, n := 2 ^ reqFields e.w0 }) ∧
      (reqKind e.w0 = 0x20 → e.segment 0 = some (if e.w3.getLsbD 3 then { dst := some e.w1, src := .remote, n := len }
        else { dst := none, src := .mem e.w1, n := len })) ∧
      (let sz := descSize e.desc
       ∀ o : Nat → Nat, (∀ i < 4, o i < e.box i) → o 4 = 0 →
         let p := o 0 + e.box 0 * (o 1 + e.box 1 * (o 2 + e.box 2 * o 3))
         let c := fun (i : Nat) => e.tileIndex i * (e.box i : Int) + (o i : Int)
         let dims := List.range (min 5 (descRank e.desc))
         let va := BitVec.ofInt 64 ((descField e.desc 0 8 : Int) + (dims.map fun i => c i * descStride e.desc i).sum)
         let held := ∀ i ∈ dims, 0 ≤ c i ∧ c i < (descExtent e.desc i : Int)
         (reqKind e.w0 = 0x03 →
           (held → e.segment p = some { dst := some (w e.w2 (p * sz)), src := .mem va, n := sz }) ∧
           (¬held → e.segment p = some { dst := some (w e.w2 (p * sz)), src := .fill 0, n := sz })) ∧
         (reqKind e.w0 = 0x04 →
           (held → e.segment p = some { dst := some va, src := .mem (w e.w2 (p * sz)), n := sz }) ∧ (¬held → e.segment p = none)))) ∧
    (e.segCount = if len = 0 ∧ e.isTile = false then 0 else match e.targets with
      | some cores => cores.length
      | none => match reqKind e.w0 with
        | 0x02 => (e.w3.extractLsb' 48 16).toNat
        | 0x03 | 0x04 => e.box 0 * e.box 1 * e.box 2 * e.box 3
        | 0x05 | 0x06 => len / 2 ^ (e.w3.extractLsb' 0 2).toNat
        | 0x07 => len
        | _ => 1)

/-- R241, R245, R247, R248, R251, R254, R256, 18 R406: a chunk is performed: its pieces are read and their destinations checked, and the
bytes that reach one home, accounted to one core, go there as one message, in their order. -/
def Sys2Proof.Claims.ChunkSteps : Prop :=
  ∀ (s s1 s2 s3 s4 : State) (core : Nat) (e e0 e1 : QEntry) (p : Piece) (ps : List Piece) (bs : List Byte) (xs ys : List Parcel),
    (∀ i, p.src = .pattern i → ∃ bs, Yields (M.pieceData core e p) s bs s ∧ bs.length = p.n ∧
      ∀ j < p.n, bs.getD j 0 = e.w1.extractLsb' (8 * ((i + j) % 8)) 8) ∧
    (∀ va, p.src = .mem va → Yields (M.readBytes (e.agent core) true (pagesOf va p.n)) s bs s1 →
      Yields (M.pieceData core e p) s bs s1) ∧
    (∀ (i off : Nat) (j : List Byte), p.src = .index i off →
      Yields (M.readBytes (e.agent core) true (pagesOf (e.w3 + BitVec.ofNat 64 (4 * i)) 4)) s j s1 →
      Yields (M.readBytes (e.agent core) true
        (pagesOf (e.w1 + BitVec.ofNat 64 (natOfBytes j * 2 ^ reqFields e.w0 + off)) p.n)) s1 bs s2 →
      Yields (M.pieceData core e p) s bs s2) ∧
    (∀ off, p.src = .fill off → Yields (M.pieceData core e p) s ((((e.desc.drop 16).take (descSize e.desc)).drop off).take p.n) s) ∧
    (∀ va, p.dst = some va → Yields (M.pieceData core e p) s bs s1 → Yields (M.partWrites core e bs 0 (pagesOf va p.n)) s1 xs s2 →
      Yields (M.parcels core e ps) s2 ys s3 → Yields (M.parcels core e (p :: ps)) s (xs ++ ys) s3) ∧
    (∀ (va : Word) (n off : Nat) (rest : List (Word × Nat)) (q : Place) (edges : List Byte × List Byte),
      Yields (M.bulkPlace (e.agent core) .store va n true 0 e.covers) s q s1 → Yields (M.homeRoom e.part q va n) s1 () s2 →
      Yields (M.partEdges core e q va n) s2 edges s3 → Yields (M.partWrites core e bs (off + n) rest) s3 ys s4 →
      Yields (M.partWrites core e bs off ((va, n) :: rest)) s
        ({ home := q.dest.1, dest := q.dest.2, key := if spaceOf va = .scratch then localCore va else core, tag := s3.tagOfPlace q,
           cells := q.cells ((bs.drop off).take n) edges.1 edges.2 } :: ys) s4) ∧
    (let same := fun (x y : Parcel) => x.home = y.home ∧ x.dest = y.dest ∧ x.key = y.key
     (joinParcels xs).Pairwise (fun x y => ¬same x y) ∧
     (∀ y ∈ xs, ∃ x ∈ joinParcels xs, same x y) ∧
     ∀ x ∈ joinParcels xs, x.cells =
       ((xs.filter fun y => y.home == x.home && y.dest == x.dest && y.key == x.key).map (·.cells)).flatten) ∧
    (∀ (x : Parcel) (a : QEntry),
      let t := s.post
        { sender := { (e.sender core) with engine := true }, home := x.home, dest := x.dest, body := .store x.cells,
          user := e.mode == .user, prio := e.prio, bulk := true, tag := x.tag }
      Yields (M.sendParcels core { e with dests := addDest e.dests x.key x.cells.length (some s.sent), bytes := e.bytes + x.cells.length }
        xs) t a s1 → Yields (M.sendParcels core e (x :: xs)) s a s1) ∧
    (s.portOpen (e.agent core) = true → Yields (M.entryBegin core e) s e0 s1 → (∀ p ∈ e0.nextChunk.1, p.dst ≠ none) →
      Yields (M.remoteCheck e0 (e0.nextChunk.1.map (·.n)).sum) s1 () s2 → Yields (M.parcels core e0 e0.nextChunk.1) s2 xs s3 →
      Yields (M.sendParcels core e0 (joinParcels xs)) s3 e1 s4 →
      let e2 := { e1 with seg := e0.nextChunk.2.1, off := e0.nextChunk.2.2 }
      Yields (M.chunkStep core e) s (if e2.segCount ≤ e2.seg then e2.finish core else e2) s4) ∧
    ((e.isTile = false → e.finish core = { e with status := some 0 }) ∧
     (e.isTile = true → (e.finish core).bytes = e.box 0 * e.box 1 * e.box 2 * e.box 3 * descSize e.desc ∧
       (e.finish core).status = some (if ∃ p < e.boxCount, e.elemAddr p = none then 3 else 0))) ∧
    (e.targets = none →
      (reqKind e.w0 = 5 ∨ reqKind e.w0 = 6 → reqLength e.w0 ≠ 0 → e.w1.toNat % segSize e.w3 ≠ 0 →
        Traps (M.entryBegin core e) s { code := 0x02, addr := e.w1 } s) ∧
      (reqKind e.w0 = 7 → reqLength e.w0 ≠ 0 → e.w1.toNat % 2 ^ reqFields e.w0 ≠ 0 →
        Traps (M.entryBegin core e) s { code := 0x02, addr := e.w1 } s) ∧
      (∀ d, reqKind e.w0 = 3 ∨ reqKind e.w0 = 4 → e.desc = [] → e.w1.toNat % 128 = 0 →
        Yields (M.readBytes (e.agent core) true (pagesOf e.w1 128)) s d s1 → { e with desc := d }.descGood = false →
        Traps (M.entryBegin core e) s { code := 0x01, addr := e.w1 } s1))

/-- R239, R252 to R256: the head of a queue performs its next chunk, stops where it fails, which QSTAT reports, and gives its token once
its writes are performed; and each subtraction goes out once the bytes that it counts are. -/
def Sys2Proof.Claims.QueueEvents : Prop :=
  (∀ (s s1 s2 : State) (core n : Nat) (e e1 e2 : QEntry) (es : List QEntry),
    ((s.coreAt core).queueAt n = [] → exec (.copyChunk core n) s = .next s) ∧
    ((s.coreAt core).queueAt n = e :: es →
      (s.allPerformed e.after = false → exec (.copyChunk core n) s = .next s) ∧
      (s.allPerformed e.after = true → s.settle core n e = (s1, e1) →
        (∀ st, e1.status = some st → exec (.copyChunk core n) s =
          .next (if e1.dests.all (·.sent) then s1.completeEntry core n e1 st else s1)) ∧
        (e1.status = none → e1.isColl = true → exec (.copyChunk core n) s = .next s1) ∧
        (e1.status = none → e1.isColl = false →
          (Yields (M.chunkStep core e1) s1 e2 s2 → exec (.copyChunk core n) s = .next (s2.setHead core n e2)) ∧
          ((M.chunkStep core e1).run.run s1 = (.error .wait, s2) → exec (.copyChunk core n) s = .next s1) ∧
          (∀ x, Traps (M.chunkStep core e1) s1 x s2 → exec (.copyChunk core n) s = .next (s2.entryFault core n e1 x)))))) ∧
  (∀ (s : State) (core n : Nat) (e : QEntry) (x : Exc), n < 3 → e.dead = false →
    let t := s.entryFault core n e x
    (t.coreAt core).queueAt n = { e with status := some 1 } :: ((s.coreAt core).queueAt n).drop 1 ∧
    Tab.get (0, 0) (t.coreAt core).qfaults (faultKey e.slot n e.part) = (x.addr, e.seq % 65536 * 2 ^ 48 + x.code % 256)) ∧
  (∀ (s : State) (core : Nat) (e : QEntry) (d : QDest), e.dests = [d] → d.sent = false →
    let due := (e.status.isSome ∨ ∃ cores, e.targets = some cores ∧ cores.getD e.seg 1024 ≠ d.core) ∧ s.allPerformed d.after = true
    (¬due → s.settleEntry core e = (s, e)) ∧
    (due → s.settleEntry core e = (if reqBen e.w0 = true ∧ d.bytes ≠ 0 then
        s.post { sender := e.sender core, home := some d.core, dest := d.core, user := e.mode == .user, prio := e.prio,
                 body := .subtract (reqBid e.w0) d.bytes }
      else s, { e with dests := [{ d with sent := true }] }))) ∧
  (∀ (s : State) (core n st : Nat) (e : QEntry), n < 3 → e.token ≠ 0 → e.dead = false →
    let m : Sender := { core := core, slot := e.slot, part := e.part, sup := e.part.isNone }
    (s.senderStrand m).mark e.token = .waiting .token →
    (s.completeEntry core n e st).senderStrand m = (s.senderStrand m).writeG e.token
      (BitVec.ofNat 64 (2 ^ 63 + st * 2 ^ 56 + e.seq % 65536 * 2 ^ 40 + e.bytes % 2 ^ 40)) ∧
    ((s.completeEntry core n e st).coreAt core).queueAt n = ((s.coreAt core).queueAt n).drop 1)

namespace Sys2Proof.Claims

/-- The numbers of `sz` bytes that a list of bytes holds. -/
def numberAt (sz : Nat) (bs : List Byte) (i : Nat) : Nat := natOfBytes ((bs.drop (i * sz)).take sz)

/-- The value of an integer of `n` bits in two's complement. -/
def signedAt (n x : Nat) : Int := (BitVec.ofNat n x).toInt

end Sys2Proof.Claims

/-- R239, R261, R262: the collective engine performs the first collective that can be performed: all of its members have joined, and may
go on.  Requests that do not agree, or name no group, fail with status 4; a member that fails has status 1 and every other 4; otherwise
each member receives its result, whose steps are rounded in rank order. -/
def Sys2Proof.Claims.Collectives : Prop :=
  (∀ (s : State) (cl : Nat) (m : Member) (before after : List Member) (t : State),
    ((∀ x ∈ s.clusterColls cl, s.collStep x = none) → exec (.collectivePerform cl) s = .next s) ∧
    (s.clusterColls cl = before ++ m :: after → (∀ x ∈ before, s.collStep x = none) → s.collStep m = some t →
      exec (.collectivePerform cl) s = .next t)) ∧
  (∀ (s s1 s2 : State) (m bad : Member) (g : CollGroup) (ms : List Member) (cs : List (List Byte)) (err : Exc),
    (m.entry.coll = none → s.collStep m =
      if s.membersReady [m] then some (s.mapMember m fun e => { e with status := some 4 }) else none) ∧
    (m.entry.coll = some g → s.members m.entry = none → s.collStep m = none) ∧
    (m.entry.coll = some g → s.members m.entry = some ms →
      (s.membersReady ms = false → s.collStep m = none) ∧
      (s.membersReady ms = true → collAgree ms = false →
        s.collStep m = some (ms.foldl (fun s x => s.mapMember x fun e => { e with status := some 4 }) s)) ∧
      (s.membersReady ms = true → collAgree ms = true → ∀ x ∈ ms.head?,
        (Yields (M.tryMembers M.contribution ms) s (.error (bad, err)) s1 → s.collStep m = some (s1.collFault ms bad err)) ∧
        (Yields (M.tryMembers M.contribution ms) s (.ok cs) s1 →
          let w0 := x.entry.w0
          let results := (List.range ms.length).map (collResult w0 x.entry.w3 cs)
          (Yields (M.collWrite ms results) s1 (.ok ()) s2 → s.collStep m = some s2) ∧
          (Yields (M.collWrite ms results) s1 (.error (bad, err)) s2 → s.collStep m = some (s2.collFault ms bad err)))))) ∧
  (∀ (x : Member) (xs : List Member),
    let kind := reqKind x.entry.w0
    let length := reqLength x.entry.w0
    let unit := collSize x.entry.w3 * (if kind = 0x10 then xs.length + 1 else 1)
    collAgree (x :: xs) = true ↔ length % unit = 0 ∧ ∀ y ∈ xs, reqKind y.entry.w0 = kind ∧ reqLength y.entry.w0 = length ∧
      y.entry.w3.extractLsb' 8 6 = x.entry.w3.extractLsb' 8 6) ∧
  (∀ (w0 w3 : Word) (c : List Byte) (cs : List (List Byte)) (r : Nat), reqKind w0 = 0x10 →
    let sz := collSize w3
    let shard := reqLength w0 / (cs.length + 1)
    shard % sz = 0 → r ≤ cs.length → (∀ x ∈ c :: cs, x.length = reqLength w0) →
    (collResult w0 w3 (c :: cs) r).length = shard ∧ ∀ i < shard / sz,
      numberAt sz (collResult w0 w3 (c :: cs) r) i =
        cs.foldl (fun acc x => collOp w3 acc (numberAt sz x (r * shard / sz + i))) (numberAt sz c (r * shard / sz + i)) % 256 ^ sz) ∧
  (∀ (w0 w3 : Word) (cs : List (List Byte)) (r : Nat), reqKind w0 = 0x11 → collResult w0 w3 cs r = cs.flatten) ∧
  (∀ (w3 : Word) (x y : Nat),
    let op := (w3.extractLsb' 12 2).toNat
    let element := (w3.extractLsb' 8 4).toNat
    (∀ n, element = 0 ∧ n = 32 ∨ element = 1 ∧ n = 64 → x < 2 ^ n → y < 2 ^ n →
      (op = 0 → collOp w3 x y = (x + y) % 2 ^ n) ∧
      (op = 1 → signedAt n (collOp w3 x y) = max (signedAt n x) (signedAt n y)) ∧
      (op = 2 → signedAt n (collOp w3 x y) = min (signedAt n x) (signedAt n y))) ∧
    (∀ f ∈ [(2, fp16), (3, bf16), (4, fp32), (5, fp64)], element = f.1 → collOp w3 x y = (fpDeliver f.2 .rne 0 (
      if op = 0 then fpAdd .rne (f.2.value x) (f.2.value y)
      else if op = 1 then fpMax (f.2.value x) (f.2.value y) else fpMin (f.2.value x) (f.2.value y))).1))

/-- R239, R241, R245 to R256, R258, R261, R262, 18 R406: what the entries of a queue move and in which chunks, the events of a queue, and
the collectives. -/
def Obligations.QueueProgress : Prop := Chunks ∧ Segments ∧ ChunkSteps ∧ QueueEvents ∧ Collectives

namespace Sys2Proof.Claims

/-! ## Work -/

/-- No operation of the strand is under way (R321, R322). -/
def Idle (s : State) : Prop := s.me.usc = 0 ∧ s.readBusy s.cur = false ∧ s.myCore.hasEntries s.mySlotNo (isSup s) 7 = false

/-- A form of the work chapter is issued under partition `p`: the strand has one, and its registers are clear. -/
def PartClear (s : State) (p : Nat) (reads writes : List Reg) : Prop := s.myPart = some p ∧ Clear s reads writes

/-- The number of a position with these indices, the last one changing fastest. -/
def mixedRadix (ext js : List Nat) : Nat := (ext.zip js).foldl (fun acc x => acc * x.1 + x.2) 0

end Sys2Proof.Claims

/-- R309, R312, R320 to R324: SEEDPUT, SEEDYIELD, SEEDEND, NESTGO and PRIO; SEEDYIELD in a gang-bound slot is refused.  A SEEDYIELD that
finds no block advances REFUSED, which is the model's reading (log entry 24). -/
def Sys2Proof.Claims.WorkForms : Prop :=
  ∀ (s s1 : State) (d a : Reg) (p : Nat) (bs : List Byte),
    let ceil := s.myCore.csrs.prioceil.toNat % 16
    (PartClear s p [a] [d] → Yields (M.readRecord (s.me.readG a) 64) s bs s1 → s1.myCore.csrs = s.myCore.csrs →
      (seedGood bs = false → exec (.seedput d a) s = Ends (s1.countRefused p) ((s1.countRefused p).me.writeG d 3)) ∧
      (seedGood bs = true →
        let q := min (seedPrio bs) ceil
        let x := seedOf bs q (s1.outstanding s1.cur)
        (s1.enqueueSeed p x = none → exec (.seedput d a) s = Ends (s1.countRefused p) ((s1.countRefused p).me.writeG d 1)) ∧
        (∀ t, s1.enqueueSeed p x = some t → exec (.seedput d a) s =
          Ends t (t.me.writeG d (BitVec.ofNat 64 (q * 256 + if q < seedPrio bs then 2 else 0)))))) ∧
    (s.me.kind = .gang → exec (.seedyield d a) s = .next
      (s.take { code := 1, info := BitVec.ofNat 64 (3 * 2 ^ 32 + ((encode (.seedyield d a)).getD 0).toNat) } s.me.pc)) ∧
    (PartClear s p [a, 2, 10, 11, 12, 13] [d] → s.me.kind ≠ .gang → (s.me.readG a).toNat % 4 = 0 → Idle s → leased s = false →
      let x : Seed := { pc := s.me.readG a, frame := s.me.readG 2,
                        args := #v[s.me.readG 10, s.me.readG 11, s.me.readG 12, s.me.readG 13], harvest := s.me.harvest,
                        prio := s.me.prio, adopt := false, after := s.outstanding s.cur }
      (s.enqueueSeed p x = none → exec (.seedyield d a) s = Ends (s.countRefused p) ((s.countRefused p).me.writeG d 1)) ∧
      (∀ t, s.enqueueSeed p x = some t → exec (.seedyield d a) s = .next (t.endStrand .seedIdle))) ∧
    (PartClear s p [] [] → Idle s → leased s = false →
      (s.me.kind = .gang → exec .seedend s = .next (s.endStrand .gangEmpty)) ∧
      (s.me.kind ≠ .gang → s.me.harvest = 0 → exec .seedend s = .next (s.endStrand .seedIdle)) ∧
      (s.me.kind ≠ .gang → s.me.harvest ≠ 0 → Yields (M.harvest p s.me.harvest) s () s1 → leased s1 = false →
        exec .seedend s = .next (s1.endStrand .seedIdle))) ∧
    (PartClear s p [a] [d] → Yields (M.readRecord (s.me.readG a) 128) s bs s1 → s1.myCore.csrs = s.myCore.csrs →
      (nestGood bs = false → exec (.nestgo d a) s = Ends s1 (s1.me.writeG d 3)) ∧
      (nestGood bs = true → 8 ≤ (s1.partAt p).nests.length → exec (.nestgo d a) s = Ends s1 (s1.me.writeG d 1)) ∧
      (nestGood bs = true → (s1.partAt p).nests.length < 8 →
        let x := nestOf bs (min (nestPrio bs) ceil) (s1.outstanding s1.cur)
        let t := s1.setPart p { s1.partAt p with nests := trimNests ((s1.partAt p).nests ++ [x]) }
        exec (.nestgo d a) s = Ends t (t.me.writeG d 0))) ∧
    (BarClear s [a] [d] → exec (.prio d a) s =
      Ends s { s.me.writeG d (BitVec.ofNat 64 s.me.prio) with prio := min (min (s.me.readG a).toNat ceil) 11 })

/-- R312: a seed goes to the tail of the queue of its priority, and the head is taken from it; no other queue of the partition
changes. -/
def Sys2Proof.Claims.SeedQueues : Prop :=
  ∀ (s t : State) (p : Nat),
    (∀ x : Seed, x.prio < 12 → s.enqueueSeed p x = some t →
      ((t.partAt p).queueAt x.prio).seeds = ((s.partAt p).queueAt x.prio).seeds ++ [x] ∧
      ∀ q < 12, q ≠ x.prio → (t.partAt p).queueAt q = (s.partAt p).queueAt q) ∧
    (∀ (e : Seed) (q : Nat), q < 12 → s.dequeueSeed p q = some (t, e) →
      ((s.partAt p).queueAt q).seeds = e :: ((t.partAt p).queueAt q).seeds ∧
      ∀ r < 12, r ≠ q → (t.partAt p).queueAt r = (s.partAt p).queueAt r)

/-- `js` is the position of Morton code `z` within some extents (R315). -/
def Sys2Proof.Claims.MortonAt (ext js : List Nat) (z : Nat) : Prop :=
  js.length = ext.length ∧ ∀ i < ext.length, js.getD i 0 < ext.getD i 0 ∧
    ∀ b, (js.getD i 0).testBit b = z.testBit (b * ext.length + i)

/-- R315: the positions of a nest come in row-major, column-major or Morton order, and what an iteration receives for its position. -/
def Sys2Proof.Claims.NestOrder : Prop :=
  (∀ (x : Nest) (js : List Nat), js.length = x.dims.length →
    let e := x.seedAt js
    e.pc = x.pc ∧ e.frame = x.frame ∧ e.harvest = x.harvest ∧ e.prio = x.prio ∧ e.adopt = x.adopt ∧
    ∀ i : Fin 4, e.args[i] = match x.dims[i.val]? with
      | some d => (BitVec.ofInt 32 (d.1 + (js.getD i 0 : Int) * d.2.2)).signExtend 64
      | none => 0) ∧
  (∀ (x : Nest) (k : Nat), x.order = 2 → x.extents.length ∈ [1, 2, 3, 4] → (∀ n ∈ x.extents, n ≤ 2 ^ 32) → k < 2 ^ 140 →
    (∀ z js, x.position k = some (z, js) → k ≤ z ∧ MortonAt x.extents js z ∧
      ∀ y, k ≤ y → y < z → ¬∃ ls, MortonAt x.extents ls y) ∧
    (x.position k = none → ∀ y, k ≤ y → ¬∃ ls, MortonAt x.extents ls y)) ∧
  ∀ (x : Nest) (k : Nat), x.order ≤ 1 →
    ((x.extents.foldl (· * ·) 1 ≤ k) → x.position k = none) ∧
    (k < x.extents.foldl (· * ·) 1 → ∃ js : List Nat, x.position k = some (k, js) ∧ js.length = x.extents.length ∧
      (∀ i < js.length, js.getD i 0 < x.extents.getD i 0) ∧
      (x.order = 0 → mixedRadix x.extents js = k) ∧ (x.order = 1 → mixedRadix x.extents.reverse js.reverse = k))

/-- R312, R315: the order of the seed queues and of a nest's positions. -/
def Obligations.WorkOrder : Prop := SeedQueues ∧ NestOrder

/-- R366, R369, 19 R411: SLOTWAIT writes the present tick where the core owns it, sleeps until the next slot of its own otherwise, and
writes zero where slots are not enabled or the map names none; it wakes at its tick.  Slots written in the present tick count from the
next, which for SLOTWAIT's later ticks is the model's reading (log entry 11). -/
def Sys2Proof.Claims.SlotWaits : Prop :=
  (∀ (s : State) (d : Reg) (n : Bool), BarClear s [] [d] →
    let now := s.myCore.slotsAt s.gtime
    let c := s.myCore.csrs
    let width := fun (c : CtxCsrs) => 2 ^ (c.slotper.toNat % 16 - 6)
    let owned := fun (c : CtxCsrs) (tick : Nat) => c.slotmap.getLsbD (tick / width c % 64) = true
    let till := fun (d : Reg) (tick : Nat) (t : Strand) => { (t.writeG d (BitVec.ofNat 64 tick)).advance with slotTie := if tick = 0 then none else some tick }
    (now.slotper.getLsbD 16 = false → exec (.slotwait d n) s = Ends s (s.me.writeG d 0)) ∧
    (now.slotper.getLsbD 16 = true → n = true ∨ ¬owned now s.gtime → c.slotmap = 0 →
      exec (.slotwait d n) s = Ends s (s.me.writeG d 0)) ∧
    (now.slotper.getLsbD 16 = true → n = false → owned now s.gtime →
      exec (.slotwait d n) s = .next (s.setMe (till d s.gtime s.me))) ∧
    (∀ tick, now.slotper.getLsbD 16 = true → n = true ∨ ¬owned now s.gtime → s.gtime < tick → tick % width c = 0 →
      owned c tick → (∀ x, s.gtime < x → x < tick → x % width c = 0 → ¬owned c x) →
      exec (.slotwait d n) s = .next (s.setMe { s.me with cond := .asleep (.slotwait d tick) }))) ∧
  (∀ (s : State) (k : Nat) (d : Reg) (tick : Nat), (s.strandAt k).cond = .asleep (.slotwait d tick) → tick ≤ s.gtime →
    exec (.slotwaitWake k) s = .next (s.setStrand k
      { ((s.strandAt k).writeG d (BitVec.ofNat 64 tick)).advance with slotTie := if tick = 0 then none else some tick }))

/-- R309, R312, R320 to R324, R369, 19 R411: seeds, nests, priorities and SLOTWAIT. -/
def Obligations.WorkItems : Prop := WorkForms ∧ SlotWaits

namespace Sys2Proof.Claims

/-! ## Versions -/

/-- The strand's earlier accesses have all been performed, and no invalidation of its own is under way (R379). -/
def Settled (s : State) : Prop :=
  s.readBusy s.cur = false ∧ s.anyBusy s.cur = false ∧ s.writeBusy s.cur = false ∧ s.me.usc = 0 ∧
    (s.tlbinv.any fun x => x.core == s.myCoreNo && x.slot == s.mySlotNo) = false ∧
    s.myCore.hasEntries s.mySlotNo (isSup s) 7 = false

/-- `n` bytes of partition `p`'s version table can be read: none of the strand's own messages to them is in flight, and none of
them is poisoned (R377, R93). -/
def TableClear (s : State) (p off n : Nat) : Prop :=
  ∀ i < n, ∀ key, locateHbm 0 ((s.partAt p).vtable + off + i) = some key →
    key ∉ s.poisoned ∧ ∀ m ∈ s.net, s.sentBy s.cur m = true → m.touches key 1 = false

/-- The slot of region `r` in a state, if there is one. -/
def slotIn (s : State) (p r state : Nat) : Option Nat := (List.range 4).find? fun i => s.slotState p r i == state

/-- The count and the version of an adoption entry (R371). -/
def countAt (s : State) (p j : Nat) : Nat := s.verField p (0x40 + 8 * j) 4
def versionAt (s : State) (p j : Nat) : Nat := s.verField p (0x44 + 8 * j) 4

/-- The adoption entry that holds version `v`, and the one that an adoption of it takes: that one, or the lowest free entry (R377). -/
def holderOf (s : State) (p v : Nat) : Option Nat := (List.range 16).find? fun j => countAt s p j != 0 && versionAt s p j == v
def adoptionEntry (s : State) (p v : Nat) : Option Nat :=
  holderOf s p v <|> (List.range 16).find? fun j => countAt s p j == 0

/-- The version table lies in local HBM, aligned to 256 (R371). -/
def TableHome (s : State) (p : Nat) : Prop := (s.partAt p).vtable % 256 = 0 ∧ (s.partAt p).vtable + 16640 ≤ hbmEnd

/-- A read at version `w` of a region with these slot states and versions resolves to slot `i`: of the slots PUBLISHED or RETIRING the one
with the greatest version not above `w` (R374). -/
def ReadsSlot (st ver : Nat → Nat) (w i : Nat) : Prop :=
  i < 4 ∧ 2 ≤ st i ∧ ver i ≤ w ∧ ∀ j < 4, 2 ≤ st j → ver j ≤ w → ver j ≤ ver i ∧ (ver j = ver i → i ≤ j)

/-- Some held version resolves to slot `i` of such a region (R376). -/
def HeldSlot (count version : Nat → Nat) (st ver : Nat → Nat) (i : Nat) : Prop :=
  ∃ j < 16, count j ≠ 0 ∧ ReadsSlot st ver (version j) i

/-- The table has these counts, versions and slots, after each RETIRING slot that no held version resolves to has become FREE (R376). -/
def Retired (t : State) (p : Nat) (count version : Nat → Nat) (st ver : Nat → Nat → Nat) : Prop :=
  (∀ j < 16, countAt t p j = count j ∧ versionAt t p j = version j) ∧
  ∀ r < 256, ∀ i < 4, t.slotVer p r i = ver r i ∧
    (st r i = 3 ∧ ¬HeldSlot count version (st r) (ver r) i → t.slotState p r i = 0) ∧
    (st r i ≠ 3 ∨ HeldSlot count version (st r) (ver r) i → t.slotState p r i = st r i)

/-- From `s` to `t` nothing changes but bytes of the version table at offsets that `w` allows, and what the caches hold of them. -/
def OnlyTable (s t : State) (p : Nat) (w : Nat → Prop) : Prop :=
  t = { s with mem := t.mem, poisoned := t.poisoned, l1 := t.l1, rdc := t.rdc, slices := t.slices } ∧
  ∀ key, (∀ off < 16640, w off → locateHbm 0 ((s.partAt p).vtable + off) ≠ some key) →
    t.byteAt key = s.byteAt key ∧ (key ∈ t.poisoned ↔ key ∈ s.poisoned)

/-- The offsets of the slot states (R371). -/
def stateByte (off : Nat) : Prop := 0x100 ≤ off ∧ 36 ≤ off % 64 ∧ off % 64 < 40

/-- What retirement reads can be read: the adoption entries, and of every region its flags, slot states and versions. -/
def RetireClear (s : State) (p : Nat) : Prop := TableClear s p 0x40 128 ∧ ∀ r < 256, TableClear s p (0x100 + 64 * r + 32) 24

end Sys2Proof.Claims

/-- R371 to R373, R376, R377: TOKB, once the strand's reads and queue entries are complete and the table's home has been asked: with no
published version, or where the strand holds the current one, it changes nothing; otherwise it takes an adoption entry of the current
version, gives up the strand's old one and adopts, and retires what nothing holds; with no entry left it changes nothing. -/
def Sys2Proof.Claims.Adoptions : Prop :=
  ∀ (s s1 : State) (d : Reg) (p : Nat), PartClear s p [] [d] → s.readBusy s.cur = false →
    s.myCore.hasEntries s.mySlotNo (isSup s) 15 = false → Yields (M.askTable p) s () s1 → TableHome s1 p → TableClear s1 p 0 8 →
    let me := s1.me
    let old := (me.adopted.getD 0).toNat
    let cur := s1.verField p 0 4
    let bare := s1.verField p 4 4 % 2 = 1
    let same := me.adopted.isSome ∧ old = cur
    (bare → exec (.tokb d) s = Ends s1 (me.writeG d (BitVec.ofNat 64 (2 ^ 63 + old)))) ∧
    (¬bare → same → exec (.tokb d) s = Ends s1 (me.writeG d (BitVec.ofNat 64 cur))) ∧
    (¬bare → ¬same → RetireClear s1 p →
      (adoptionEntry s1 p cur = none → exec (.tokb d) s = Ends s1 (me.writeG d (BitVec.ofNat 64 (2 ^ 62 + old)))) ∧
      (∀ i, adoptionEntry s1 p cur = some i → (∀ j < 16, countAt s1 p j < 2 ^ 32 - 1) →
        ∃ t, exec (.tokb d) s = Ends t { me.writeG d (BitVec.ofNat 64 cur) with adopted := some (BitVec.ofNat 32 cur) } ∧
          OnlyTable s1 t p (fun off => (0x40 ≤ off ∧ off < 0xC0) ∨ stateByte off) ∧
          t.verField p 0 4 = cur ∧ t.verField p 4 4 = s1.verField p 4 4 ∧
          Retired t p
            (fun j => if j = i then (if versionAt s1 p i = cur then countAt s1 p i else 0) + 1
              else if me.adopted.isSome ∧ holderOf s1 p old = some j then countAt s1 p j - 1 else countAt s1 p j)
            (fun j => if j = i then cur else versionAt s1 p j) (s1.slotState p) (s1.slotVer p)))

/-- R372, R378: VERSTAGE, once the table's home has been asked: a region that is not declared, has a STAGING slot, holds a version as
late, or has no FREE slot is answered with its status; otherwise the lowest FREE slot is STAGING at the version. -/
def Sys2Proof.Claims.Stagings : Prop :=
  ∀ (s s1 : State) (d a b : Reg) (p : Nat), PartClear s p [a, b] [d] → Yields (M.askTable p) s () s1 → TableHome s1 p →
    let r := (s.me.readG a).toNat % 256
    let v := (s.me.readG b).toNat % 2 ^ 32
    let answers := fun (n : Nat) => exec (.verstage d a b) s = Ends s1 (s1.me.writeG d (BitVec.ofNat 64 n))
    let late := (s1.verField p 4 4 % 2 = 0 ∧ v ≤ s1.verField p 0 4) ∨ ∃ i < 4, s1.slotState p r i ≠ 0 ∧ v ≤ s1.slotVer p r i
    TableClear s1 p (0x100 + 64 * r + 32) 24 → (s1.declared p r = true → TableClear s1 p 0 8) →
    (s1.declared p r = false → answers 4) ∧
    (s1.declared p r = true → (∀ i, slotIn s1 p r 1 = some i → answers (i * 256 + 2)) ∧
      (slotIn s1 p r 1 = none → (late → answers 3) ∧ (¬late → slotIn s1 p r 0 = none → answers 1) ∧
        (∀ i, ¬late → slotIn s1 p r 0 = some i →
          ∃ t, exec (.verstage d a b) s = Ends t (s1.me.writeG d (BitVec.ofNat 64 (i * 256))) ∧
            OnlyTable s1 t p (fun off => off = 0x100 + 64 * r + 36 + i ∨
              (0x100 + 64 * r + 40 + 4 * i ≤ off ∧ off < 0x100 + 64 * r + 44 + 4 * i)) ∧
            t.slotState p r i = 1 ∧ t.slotVer p r i = v ∧
            ∀ q < 256, ∀ j < 4, (q ≠ r ∨ j ≠ i) → t.slotState p q j = s1.slotState p q j ∧ t.slotVer p q j = s1.slotVer p q j)))

/-- R372, R376, R379: VERPUB, once the strand's accesses and queue entries are performed and the table's home has been asked: every region
staged at the version has its STAGING slot PUBLISHED and its PUBLISHED slot RETIRING, the version is current, and what nothing holds is
retired; a version staged nowhere is answered with status 1. -/
def Sys2Proof.Claims.Publications : Prop :=
  ∀ (s s1 : State) (d a : Reg) (p : Nat), PartClear s p [a] [d] → Settled s →
    Yields (M.askTable p) (s.setMe { s.me with fenced := s.sent }) () s1 → TableHome s1 p → RetireClear s1 p →
    let v := (s1.me.readG a).toNat % 2 ^ 32
    let staged := fun r => (slotIn s1 p r 1).any fun i => s1.slotVer p r i == v
    let count := (List.range 256).countP staged
    (count = 0 → exec (.verpub d a) s = Ends s1 (s1.me.writeG d 1)) ∧
    (count ≠ 0 → ∃ t, exec (.verpub d a) s = Ends t (s1.me.writeG d (BitVec.ofNat 64 (count * 256))) ∧
      OnlyTable s1 t p (fun off => off < 8 ∨ stateByte off) ∧ t.verField p 0 4 = v ∧ t.verField p 4 4 = 0 ∧
      Retired t p (countAt s1 p) (versionAt s1 p)
        (fun r i => if staged r then
            if slotIn s1 p r 1 = some i then 2 else if slotIn s1 p r 2 = some i then 3 else s1.slotState p r i
          else s1.slotState p r i) (s1.slotVer p))

/-- R371, R381: VERQ reads each word that it needs as a load, and changes nothing but its register. -/
def Sys2Proof.Claims.VersionQueries : Prop :=
  ∀ (s s1 s2 : State) (d a : Reg) (p : Nat), TableHome s p →
    let r := (s.me.readG a).toNat % 256
    (∀ off key, off + 8 ≤ 16640 → locateHbm 0 ((s.partAt p).vtable + off) = some key → Yields (M.exchange key 1 2) s () s1 →
      TableClear s1 p off 8 → Yields (M.verLoad p off) s () s1) ∧
    (∀ key, Yields (M.exchange key 1 2) s () s1 → s1.mem = s.mem ∧ s1.poisoned = s.poisoned ∧ s1.parts = s.parts ∧
      s1.me.g = s.me.g) ∧
    (PartClear s p [] [d] → Yields (M.verLoad p 0) s () s1 → exec (.verqCur d) s = Ends s1 (s1.me.writeG d
      (BitVec.ofNat 64 (s1.verField p 0 4 + if s1.verField p 4 4 % 2 = 1 then 2 ^ 63 else 0)))) ∧
    (PartClear s p [a] [d] → Yields (M.verLoad p (0x100 + 64 * r + 32)) s () s1 →
      ∃ w : Word, exec (.verqReg d a) s = Ends s1 (s1.me.writeG d w) ∧
        (∀ i < 4, (w.extractLsb' (2 * i) 2).toNat = s1.slotState p r i) ∧
        (w.extractLsb' 8 2).toNat = s1.verField p (0x100 + 64 * r + 32) 1 % 4 ∧ w.extractLsb' 10 2 = 0 ∧ w.extractLsb' 15 49 = 0 ∧
        w.getLsbD 14 = (slotIn s1 p r 2).isSome ∧ (w.extractLsb' 12 2).toNat = (slotIn s1 p r 2).getD 0) ∧
    (PartClear s p [a] [d] → Yields ((List.range 16).forM fun j => M.verLoad p (0x40 + 8 * j)) s () s1 →
      Yields ([32, 40, 48].forM fun o => M.verLoad p (0x100 + 64 * r + o)) s1 () s2 →
      let i := (s.me.readG a).toNat / 256 % 4
      ∃ held : Bool, (held = true ↔ HeldSlot (countAt s2 p) (versionAt s2 p) (s2.slotState p r) (s2.slotVer p r) i) ∧
        exec (.verqSlot d a) s = Ends s2 (s2.me.writeG d (BitVec.ofNat 64
          (s2.slotVer p r i * 2 ^ 32 + (if held then 4 else 0) + s2.slotState p r i))))

/-- R374, R375: a read of a weight region resolves to the PUBLISHED or RETIRING slot with the greatest version not above the adopted one;
a write to its STAGING slot; a queue entry's access to the slot that the entry resolved, while the slot keeps its state, which is compared
exactly (log entry 27); a read of a mill's command to the slot that it noted at its issue. -/
def Sys2Proof.Claims.Resolution : Prop :=
  ∀ (s : State) (a : Agent) (p r : Nat) (v : BitVec 32), a.part = some p → s.declared p r = true →
    (a.noted = none → ∀ i, s.resolve a .store r = .ok i ↔ slotIn s p r 1 = some i) ∧
    (∀ xs x, ∀ k ∈ [Acc.load, .store], a.noted = some xs → xs.find? (fun x => x.region == r && x.write == k.isWrite) = some x →
      (s.slotState p r x.slotNo = x.state → s.resolve a k r = .ok x.slotNo) ∧
      (s.slotState p r x.slotNo ≠ x.state → s.resolve a k r = .error 3)) ∧
    (a.noted = none → a.adopted = some v → a.slotFix = none →
      (∀ i, s.resolve a .load r = .ok i → i < 4 ∧ 2 ≤ s.slotState p r i ∧ s.slotVer p r i ≤ v.toNat ∧
        ∀ j < 4, 2 ≤ s.slotState p r j → s.slotVer p r j ≤ v.toNat → s.slotVer p r j ≤ s.slotVer p r i) ∧
      ((∀ j < 4, 2 ≤ s.slotState p r j → v.toNat < s.slotVer p r j) → s.resolve a .load r = .error 2)) ∧
    (a.noted = none → a.adopted = none → a.slotFix = none → s.resolve a .load r = .error 1) ∧ s.resolve a .amo r = .error 4 ∧
    (∀ xs, a.noted = none → a.slotFix = some xs →
      (∀ x, xs.find? (·.1 == r) = some x → s.resolve a .load r = .ok x.2) ∧
      (xs.find? (·.1 == r) = none → s.resolve a .load r = .error (if a.adopted = none then 1 else 2)))

/-- R371 to R379, R381: TOKB, VERSTAGE, VERPUB and VERQ: what they answer, and what they write in the version table; and which slot a
weight region resolves to. -/
def Obligations.VersionForms : Prop := Adoptions ∧ Stagings ∧ Publications ∧ VersionQueries ∧ Resolution

/-- R309, R318, R323: a dispatch takes the chosen contender and starts its strand in the slot; one whose record says so then adopts the
current version, as TOKB does, and with no published version or no adoption entry it does not. -/
def Obligations.Dispatches : Prop :=
  ∀ (s s1 : State) (k : Nat) (x : Contender) (e : Seed),
    let p := (s.coreAt (k / 4)).part
    let xs := s.seedContenders p
    s.mayDispatch k = true → chooseContender xs = some x → s.takeContender p x = some (s1, e) →
    let s2 := (xs.filter (· != x)).foldl (fun s y => s.ageContender p y) s1
    ∃ t out, exec (.seedDispatch k) s = .next out ∧
      (let c := s2.coreAt (k / 4)
       let u := t.strandAt k
       u.pc = e.pc ∧ u.readG 2 = e.frame ∧ (∀ i : Fin 4, u.readG (10 + BitVec.ofNat 5 i) = e.args[i]) ∧
       u.readG 3 = (c.slots.toList.getD (k % 4) {}).top ∧ u.mode = .user ∧ u.cond = .ready ∧ u.harvest = e.harvest ∧
       u.prio = min x.prio (c.csrs.prioceil.toNat % 16) ∧ u.kind = (if x.queue.isSome then .seed else .nest) ∧
       u.adopted = none ∧ (∀ r : Reg, r ∉ [2, 3, 10, 11, 12, 13] → u.readG r = 0) ∧
       ((t.coreAt (k / 4)).slots.toList.getD (k % 4) {}).state = .seedOccupied ∧
       t.mem = s2.mem ∧ t.parts = s2.parts) ∧
      (e.adopt = false → out = t) ∧
      (e.adopt = true → TableHome t p →
        let cur := t.verField p 0 4
        let bare := t.verField p 4 4 % 2 = 1
        (bare ∨ adoptionEntry t p cur = none → out = t) ∧
        (∀ i, ¬bare → adoptionEntry t p cur = some i → (∀ j < 16, countAt t p j < 2 ^ 32 - 1) →
          out.strandAt k = { t.strandAt k with adopted := some (BitVec.ofNat 32 cur) } ∧
          OnlyTable t (out.setStrand k (t.strandAt k)) p (fun off => (0x40 ≤ off ∧ off < 0xC0) ∨ stateByte off) ∧
          Retired out p
            (fun j => if j = i then (if versionAt t p i = cur then countAt t p i else 0) + 1 else countAt t p j)
            (fun j => if j = i then cur else versionAt t p j) (t.slotState p) (t.slotVer p)))

namespace Sys2Proof.Claims

/-! ## The tier engine -/

/-- The entries that MARK n reports or waits for: hard, with a marker at or below n, and not met (R388). -/
def dueEntries (t : Tier) (n : Nat) : List (TtEntry × Nat) :=
  t.entries.zipIdx.filter fun x => !x.1.flags.testBit 0 && decide (x.1.marker ≤ n) && x.1.state != .met

/-- The code of an entry's state (R389). -/
def stateCode (x : TtState) : Nat :=
  match x with
  | .pending => 0
  | .inFlight => 1
  | .met => 2
  | .failed => 3

/-- The latest marker lets an entry begin: its marker is at most its lead, and at most 64, ahead (R385). -/
def mayStart (e : TtEntry) (latest : Nat) : Bool :=
  decide (e.marker ≤ latest + e.flags / 2 ^ 12 % 128) && decide (e.marker ≤ latest + 64)

/-- The state with an entry of a partition's timetable replaced. -/
def withEntry (s : State) (p i : Nat) (e : TtEntry) : State :=
  let x := s.partAt p
  s.setPart p { x with tier := { x.tier with entries := x.tier.entries.set i e } }

end Sys2Proof.Claims

/-- R387 to R390: TTGO, MARK and TTSTAT. -/
def Sys2Proof.Claims.Timetables : Prop :=
  ∀ (s s1 : State) (d a b : Reg) (p : Nat) (wait : Bool),
    let x := s.partAt p
    let t := x.tier
    let header := s.me.readG a
    (PartClear s p [a, b] [d] → s.anyBusy s.cur = false →
      (t.active = false ∨ ∀ e ∈ t.entries, e.state ≠ .inFlight) →
      (header = 0 → exec (.ttgo d a b) s = Ends (s.setPart p { x with tier := { t with active := false } }) (s.me.writeG d 0)) ∧
      (header ≠ 0 → header.toNat % 32 = 0 →
        (∀ w, Yields (M.ttRead s.myAgent header) s (.error w) s1 → exec (.ttgo d a b) s = Ends s1 (s1.me.writeG d w)) ∧
        (∀ es, Yields (M.ttRead s.myAgent header) s (.ok es) s1 →
          let g := s.myAgent
          let y : Tier :=
            { active := true, header := header, latest := (s.me.readG b).toNat % 2 ^ 32, entries := es, core := g.core,
              slot := s.mySlotNo, cid := g.cid, ptbase := g.ptbase, mode := g.mode, adopted := g.adopted }
          let u := s1.setPart p { s1.partAt p with tier := y }
          exec (.ttgo d a b) s = Ends u (u.me.writeG d 0)))) ∧
    (PartClear s p [a] [] →
      let n := (s.me.readG a).toNat % 2 ^ 32
      (t.active = false → exec (.mark a wait) s = Ends s s.me) ∧
      (t.active = true → let u := s.setPart p { x with tier := t.mark n (s.outstanding s.cur) }
        (dueEntries t n = [] → exec (.mark a wait) s = Ends u u.me) ∧
        (∀ e k rest, dueEntries t n = (e, k) :: rest →
          (wait = true ∧ (∃ y ∈ dueEntries t n, y.1.state ≠ .failed) → exec (.mark a wait) s = stall u) ∧
          (wait = false ∨ (∀ y ∈ dueEntries t n, y.1.state = .failed) →
            let info := k + stateCode e.state * 2 ^ 16 + e.cause % 256 * 2 ^ 24 + e.marker * 2 ^ 32
            exec (.mark a wait) s = .next (u.take { code := 0x0D, info := BitVec.ofNat 64 info } u.me.pc)))) ∧
      ∀ after, t.mark n after = { t with latest := max t.latest n, entries := t.entries.map fun e =>
        { e with after := if ¬mayStart e t.latest ∧ mayStart e (max t.latest n) then after else e.after } }) ∧
    (PartClear s p [] [d] →
      (∃ w : Word, exec (.ttstatSt d) s = Ends s (s.me.writeG d w) ∧ (t.latest < 2 ^ 32 → t.entries.length < 2 ^ 16 →
        w.getLsbD 63 = t.active ∧ w.getLsbD 62 = (t.entries.any (·.state == .failed)) ∧
        (w.extractLsb' 32 16).toNat = ((dueEntries t t.latest).head?.map (·.2)).getD 0xFFFF ∧
        (w.extractLsb' 0 32).toNat = t.latest)) ∧
      exec (.ttstatFaddr d) s =
        Ends s (s.me.writeG d (((t.entries.find? (·.state == .failed)).map (·.faddr)).getD 0))) ∧
    (PartClear s p [a] [d] → exec (.ttstatEnt d a) s =
      Ends s (s.me.writeG d (match t.entries[(s.me.readG a).toNat % 2 ^ 16]? with
        | none => BitVec.allOnes 64
        | some e => BitVec.ofNat 64 (e.marker * 2 ^ 32 + e.cause % 256 * 2 ^ 8 + stateCode e.state))))

/-- R384 to R386: an entry begins where it is ready and none before it is; an entry in flight goes on, is met, or fails with its
cause; a copy that a fault has stopped fails once its bytes are accounted for.  A FETCH to the rim cache that PREF cannot carry on is met
(log entry 17), and a PIN or EVICT of length 0 is met whatever its base is (log entry 39).  A fault is logged as it occurs where the
context is absent. -/
def Sys2Proof.Claims.TimetableEvents : Prop :=
  ∀ (s s1 s2 : State) (p i : Nat) (e e1 : TtEntry) (q q1 q2 : QEntry) (x : Exc),
    let t := (s.partAt p).tier
    t.entries[i]? = some e →
    (s.ttReady t p i = true → (∀ j < i, s.ttReady t p j = false) →
      (Yields (M.ttBegin t p i) s e1 s1 → exec (.ttEntryBegin p i) s = .next (withEntry s1 p i e1)) ∧
      (Traps (M.ttBegin t p i) s x s1 → exec (.ttEntryBegin p i) s = .next ((s1.ttLog p e x).ttFail p i e x))) ∧
    (s.ttReady t p i = true ↔ t.active = true ∧ e.state = .pending ∧ mayStart e t.latest = true ∧
      (t.entries.filter (·.state == .inFlight)).length < 16 ∧ s.allPerformed e.after = true ∧
      ∀ y ∈ s.ttBefore t p i, y.state = .met ∨ y.state = .failed) ∧
    (e.state = .inFlight → e.copy = none →
      let met := fun (s : State) => withEntry s p i { e with state := .met }
      let inG := e.length = 0 ∨ e.base.toNat + e.length.toNat ≤ 0x0000FFFF80000000
      (e.action = 0 → s.portOpen (t.agent p) = false → exec (.ttEntryComplete p i) s = .next s) ∧
      (∀ more, e.action = 0 → s.portOpen (t.agent p) = true → e.fetched < e.length.toNat →
        let va := e.base + BitVec.ofNat 64 e.fetched
        let k := min (e.length.toNat - e.fetched) (4096 - va.toNat % 4096)
        s.prefRange (t.agent p) false .rim 1 va k = (s1, more) →
        (more = true → e.fetched + k < e.length.toNat →
          exec (.ttEntryComplete p i) s = .next (withEntry s1 p i { e with fetched := e.fetched + k })) ∧
        (more = false ∨ e.fetched + k = e.length.toNat → exec (.ttEntryComplete p i) s = .next (met s1))) ∧
      (e.action = 1 → inG → exec (.ttEntryComplete p i) s =
        .next (met (s.pinRange p (e.flags / 2 ^ 4 % 8) e.base.toNat e.length.toNat (e.flags / 2 ^ 8 % 8 + 1)).1)) ∧
      (e.action = 2 → inG → exec (.ttEntryComplete p i) s =
        .next (met (s.evictRange p (e.flags / 2 ^ 4 % 8) e.base.toNat e.length.toNat))) ∧
      (e.action = 1 ∨ e.action = 2 → ¬inG → exec (.ttEntryComplete p i) s =
        .next ((s.ttLog p e { code := 0x06, addr := e.base }).ttFail p i e { code := 0x06, addr := e.base })) ∧
      (e.action = 3 → (∀ y ∈ s.ttBefore t p i, y.state = .met) → exec (.ttEntryComplete p i) s = .next (met s))) ∧
    (e.state = .inFlight → e.copy = some q → s.allPerformed q.after = true → s.settleEntry t.core q = (s1, q1) →
      let u := withEntry s1 p i { e with copy := some q1 }
      (∀ st, q1.status = some st → (∀ d ∈ q1.dests, d.sent = true) →
        (e.fault = none → exec (.ttEntryComplete p i) s = .next (withEntry u p i { e with copy := some q1, state := .met })) ∧
        (∀ code addr, e.fault = some (code, addr) → exec (.ttEntryComplete p i) s =
          .next (u.ttFail p i { e with copy := some q1 } { code := code, addr := addr }))) ∧
      (q1.status = none →
        (Yields (M.ttChunk t.core e.action e.tier q1) u q2 s2 →
          exec (.ttEntryComplete p i) s = .next (withEntry s2 p i { e with copy := some q2 })) ∧
        (Traps (M.ttChunk t.core e.action e.tier q1) u x s2 → exec (.ttEntryComplete p i) s = .next
          (withEntry (s2.ttLog p { e with copy := some q1 } x) p i
            { e with copy := some { q1 with status := some 1 }, fault := some (x.code, x.addr) })))) ∧
    (s.ttFail p i e x = withEntry s p i { e with state := .failed, cause := x.code, faddr := x.addr } ∧
      s.ttLog p e x = match (s.coreAt t.core).departed.find? fun d => d.cid == t.cid && d.part == p with
        | none => s
        | some d => s.logFault d.husk x.addr
            (BitVec.ofNat 64 (2 ^ 63 + 2 ^ 56 + ((e.copy.map (·.bytes)).getD 0) % 2 ^ 40)) x.code 1 0 t.slot 0)

/-- R384 to R390: the timetable instructions and the events of the tier engine. -/
def Obligations.TimetableForms : Prop := Timetables ∧ TimetableEvents

/-- R231 to R235: PIN grants what is left of eight ways to its register; UNPIN and an empty range clear the register, and the lines
that it marked are ordinary; HINTEF marks it evict-first; a range beyond G-space raises ACCESS; PREF changes nothing but what the
caches hold and what the network carries, and its line, which takes no tag, is cached where it looks; a flush checks its pages as
reads. -/
def Sys2Proof.Claims.MemoryHints : Prop :=
  ∀ (s s1 : State) (d a b : Reg) (p : Nat) (w r : BitVec 3) (k : Bool) (level : PrefLevel),
    let base := s.me.readG a
    let len := s.me.readG b
    let inG := base.toNat + len.toNat ≤ 0x0000FFFF80000000
    let left := 8 - s.waysElsewhere p r.toNat
    let outside := Host.Outcome.next (s.take { code := 0x06, addr := base } s.me.pc)
    let clear := s.unpin p r.toNat
    (clear = { s.setRetention p r.toNat {} with rim := clear.rim } ∧
      ∀ e ∈ clear.rim, ∀ x ∈ e.2, x.mark ≠ .pinned p r.toNat ∧ x.mark ≠ .evictFirst p r.toNat) ∧
    (PartClear s p [a, b] [d] →
      (len ≠ 0 → inG →
        let n := min (w.toNat + 1) left
        let t := s.setRetention p r.toNat { mode := .pinned, base := base.toNat, len := len.toNat, ways := n }
        exec (.pin d a b w r) s = Ends t (t.me.writeG d (BitVec.ofNat 64 n))) ∧
      (len = 0 → exec (.pin d a b w r) s = Ends clear (s.me.writeG d 0)) ∧
      (len ≠ 0 → ¬inG → exec (.pin d a b w r) s = outside)) ∧
    (PartClear s p [] [] → exec (.unpin r) s = Done clear) ∧
    (PartClear s p [a, b] [] →
      (len ≠ 0 → inG → exec (.hintef a b r) s =
        Done (s.setRetention p r.toNat { mode := .evictFirst, base := base.toNat, len := len.toNat })) ∧
      (len = 0 → exec (.hintef a b r) s = Done clear) ∧
      (len ≠ 0 → ¬inG → exec (.hintef a b r) s = outside)) ∧
    (Clear s [a, b] [] →
      (∃ t, exec (.pref a b k level) s = Done t ∧
        t = { s with cores := t.cores, l1 := t.l1, rdc := t.rdc, slices := t.slices, rim := t.rim, rimUses := t.rimUses,
                     lags := t.lags, fresh := t.fresh, sent := t.sent, traffic := t.traffic } ∧
        (∀ c, { t.coreAt c with buckets := [], portFree := 0 } = { s.coreAt c with buckets := [], portFree := 0 }) ∧
        (len = 0 → t = s) ∧
        ∀ u key how, len = 1 → s.prefPlace s.myAgent base = (u, some (key, how)) → key < 2 ^ 40 →
          (level = .rim → ∃ x ∈ Tab.get [] t.rim (rimSetOf (key / 64)), x.line = key / 64 / 32 ∧ x.mark = .ordinary) ∧
          (level = .l1 → how.nc = false → isChiplet s.myCoreNo = false → (s.myCoreNo, key / 64) ∈ t.l1)) ∧
      (let checks := fun kind => M.flushPages s.myAgent kind (len.toNat / 4096 + 2) base len.toNat
       (Yields (checks .writeBack) s () s1 → exec (.cflushWb a b) s = Done s1) ∧
       (Yields (checks .writeBackInvalidate) s () s1 → exec (.cflushWbi a b) s = Done s1) ∧
       (Yields (checks .invalidate) s () s1 → s.me.mode ≠ .user → exec (.cflushInv a b) s = Done s1)) ∧
      (len = 0 → exec (.cflushWb a b) s = Ends s s.me ∧ exec (.cflushWbi a b) s = Ends s s.me ∧
        (s.me.mode ≠ .user → exec (.cflushInv a b) s = Ends s s.me))) ∧
    (s.me.mode = .user → exec (.cflushInv a b) s = illegal s (wordOf (.cflushInv a b)) 4)

/-- R221, R235: what a flush does to a line that it reaches: its newer data goes to its home, or is lost; no cache keeps a copy of an
invalidated line; the bytes of other lines stand. -/
def Sys2Proof.Claims.LineFlushes : Prop :=
  ∀ (s : State) (kind : FlushKind) (line : Nat) (old : List (Byte × Bool)),
    let t := s.flushLine kind line
    (∀ x ∈ t.slices, x.line = line → x.home = none) ∧
    (kind ≠ .writeBack → (∀ x ∈ t.slices, x.line ≠ line) ∧ (∀ x ∈ t.l1, x.2 ≠ line) ∧ ∀ x ∈ t.rdc, x.2 ≠ line) ∧
    (kind ≠ .invalidate → t.mem = s.mem ∧ t.poisoned = s.poisoned) ∧
    (kind = .invalidate → (s.slices.filter (·.line == line)).findSome? (·.home) = some old → old.length = 64 →
      (∀ i < 64, ∀ x, old[i]? = some x → t.byteAt (line * 64 + i) = x.1 ∧ (line * 64 + i ∈ t.poisoned ↔ x.2 = true)) ∧
      ∀ a, a / 64 ≠ line → t.byteAt a = s.byteAt a ∧ (a ∈ t.poisoned ↔ a ∈ s.poisoned)) ∧
    (kind = .invalidate → (∀ x ∈ s.slices, x.line = line → x.home = none) → t.mem = s.mem ∧ t.poisoned = s.poisoned)

/-- HEAPBASE and ALLOCTRAP, of the partition whose context is resident, or of the idle set (R236, log entry 46). -/
def heapBase (s : State) : Word := if s.myCore.resident then (s.partAt s.myCore.part).heapbase else s.myCore.csrs.heapbase
def heapTrap (s : State) : Word := if s.myCore.resident then (s.partAt s.myCore.part).alloctrap else s.myCore.csrs.alloctrap

/-- The address of a word of the heap's descriptor (R236). -/
def heapWord (s : State) (off : Nat) : Word := (heapBase s &&& ~~~0x7F) + BitVec.ofNat 64 off

/-- A failing ALLOC counts itself at offset 120 of the descriptor, where there is a heap (R237). -/
def FailureCounted (s t : State) : Prop :=
  ((heapBase s).getLsbD 0 = false → t = s) ∧
  ((heapBase s).getLsbD 0 = true → ∃ n s1 place s2, Yields (M.heapRead (heapWord s 120)) s n s1 ∧
    Yields (M.heapPlace .store (heapWord s 120)) s1 place s2 ∧ Yields (M.heapWrite place (n + 1)) s2 () t)

/-- What a failed ALLOC does, with a code and a class: it raises ALLOC_FAIL and writes nothing, or answers 0 and sets FSTAT.ALLOCF, as
ALLOCTRAP says (R236, R237). -/
def AllocFails (out : Out) (d : Reg) (s t : State) (code cls : Nat) : Prop :=
  ((heapTrap s).getLsbD 0 = true → out = .next (t.take { code := 0x13, info := BitVec.ofNat 64 (code + 256 * cls) } t.me.pc)) ∧
  ((heapTrap s).getLsbD 0 = false → out = Ends t ((t.me.writeG d 0).addFlags 0x80))

/-- R236, R237: ALLOC takes the block at the head of the list of its class; it fails where there is no heap, where its size is beyond the
greatest block, and where the list is empty.  FREE puts a block back at the head, once its strand's earlier messages have been performed;
a size beyond the greatest block raises ACCESS, and a block that its class does not align MISALIGN. -/
def Sys2Proof.Claims.Heap : Prop :=
  ∀ (s s1 s2 s3 s4 s5 t : State) (d a b : Reg) (old next : Word) (pb ph : Nat × Nat),
    let size := (s.me.readG a).toNat
    let block := s.me.readG a
    let freed := (s.me.readG b).toNat
    let head := fun cls => heapWord s (8 * cls)
    let fits := fun (n cls : Nat) => n ≤ 64 * 2 ^ cls ∧ ∀ k < cls, 64 * 2 ^ k < n
    (Clear s [a] [d] →
      (∀ cls, (heapBase s).getLsbD 0 = true → size ≤ 2 ^ 20 → fits size cls →
        Yields (M.heapRead (head cls)) s old s1 →
        (old ≠ 0 → Yields (M.heapRead old) s1 next s2 → Yields (M.heapPlace .store (head cls)) s2 ph s3 →
          Yields (M.heapWrite ph next) s3 () s4 → exec (.alloc d a) s = Done (s4.setMe (s4.me.writeG d old))) ∧
        (old = 0 → FailureCounted s1 t → AllocFails (exec (.alloc d a) s) d s1 t 0 cls)) ∧
      ((heapBase s).getLsbD 0 = false → ∀ cls, size ≤ 2 ^ 20 → fits size cls → AllocFails (exec (.alloc d a) s) d s s 1 cls) ∧
      (2 ^ 20 < size → FailureCounted s t → AllocFails (exec (.alloc d a) s) d s t 1 15)) ∧
    (Clear s [a, b] [] →
      (block = 0 → exec (.free a b) s = Ends s s.me) ∧
      (block ≠ 0 → 2 ^ 20 < freed → exec (.free a b) s = .next (s.take { code := 0x06, addr := block } s.me.pc)) ∧
      (∀ cls, block ≠ 0 → freed ≤ 2 ^ 20 → fits freed cls →
        (block.toNat % (64 * 2 ^ cls) ≠ 0 → exec (.free a b) s = .next (s.take { code := 0x02, addr := block } s.me.pc)) ∧
        (block.toNat % (64 * 2 ^ cls) = 0 → s.me.usc = 0 → s.anyBusy s.cur = false →
          Yields (M.heapRead (head cls)) s old s1 → Yields (M.heapPlace .store block) s1 pb s2 →
          Yields (M.heapPlace .store (head cls)) s2 ph s3 → Yields (M.heapWrite pb old) s3 () s4 →
          Yields (M.heapWrite ph block) s4 () s5 → exec (.free a b) s = Done s5)))

/-- R231 to R237: retention registers, prefetch and flush, and the heap. -/
def Obligations.GlobalMemoryForms : Prop := MemoryHints ∧ LineFlushes ∧ Heap

namespace Sys2Proof.Claims

/-! ## Exceptions and CSRs -/

/-- The address whose bits [63:2] are those of `w` (R335, R338). -/
def base4 (w : Word) : Word := w.extractLsb' 2 62 ++ 0#2

/-- The word of an instruction (R28). -/
def wordIn (i : Instr) : Nat := ((encode i).getD 0).toNat

/-- ILLEGAL for an instruction, with a reason code (R28, R331). -/
def Illegal (s : State) (i : Instr) (reason : Nat) : Out :=
  .next (s.take { code := 1, info := BitVec.ofNat 64 (reason * 2 ^ 32 + wordIn i) } s.me.pc)

/-- The exception is taken in user mode (R327). -/
def TakenInUser (t : Strand) (c : Core) (e : Exc) : Prop :=
  t.mode = .user ∧ e.int = false ∧ e.code ∈ [0x09, 0x0C, 0x0D, 0x0E, 0x0F, 0x13, 0x14, 0x19] ∧
    c.csrs.sdeleg.getLsbD e.code = true ∧ t.utvec.getLsbD 0 = true ∧ t.ucause.getLsbD 62 = false

/-- The words of SSTATUS before and after an exception is taken in supervisor mode, from user mode or not (R328, R337). -/
def StatusTaken (old new : Word) (fromSupervisor : Bool) : Prop :=
  ∀ i < 64, new.getLsbD i = if i = 8 then fromSupervisor else if i = 5 then old.getLsbD 4 else i ≠ 4 && old.getLsbD i

/-- The CSR instructions: whether g[a] is read, and what is written, where something is (R115). -/
noncomputable def csrForms (d a : Reg) (c : BitVec 12) : List (Instr × Option (Word → Word → Word)) :=
  [(.csrrd d c, none), (.csrwr d a c, some fun _ x => x),
   (.csrset d a c, if a = 0 then none else some fun old x => old ||| x),
   (.csrclr d a c, if a = 0 then none else some fun old x => old &&& ~~~x)]

/-- The CSRs of a strand, and the bits of each that a write replaces (R68, R119, R335 to R337, R396). -/
def strandCsrs : List (Nat × Word) :=
  [(0x010, BitVec.allOnes 64), (0x011, BitVec.allOnes 64), (0x003, 0x7FF), (0x061, 0xFFFFFFFFFFFFFFFC),
   (0x062, 0xC0000000000000FF), (0x063, BitVec.allOnes 64), (0x064, BitVec.allOnes 64)]

/-- The supervisor and firmware CSRs of a strand, and the bits of each that a write replaces (R336, R337, R396). -/
def strandSupCsrs : List (Nat × Word) :=
  [(0x102, 0xFFFFFFFFFFFFFFFC), (0x103, 0x80000000000000FF), (0x104, BitVec.allOnes 64), (0x105, BitVec.allOnes 64),
   (0x200, 3), (0x202, BitVec.allOnes 64), (0x203, 0xFF)]

/-- The CSRs of a context with plain fields, and the bits of each that a write replaces (R336, R339). -/
def contextFields : List (Nat × Word) :=
  [(0x107, 0x218F200), (0x110, 0xFFFFFFFFFF001), (0x111, 0xFFFF), (0x118, 0xFFFFFFFF), (0x121, BitVec.allOnes 64),
   (0x122, 1), (0x150, 1), (0x151, 0xFFFFFFFFFFFFFF81)]

/-- R119, R336, R396: what a written CSR of a strand or context reads, and that no other CSR of it changes; a reserved field reads
zero, and a value that a field refuses or clamps is refused or clamped. -/
def CsrFields : Prop :=
  ∀ (t : Strand) (c : CtxCsrs) (v : Word),
    (∀ x ∈ strandCsrs, (t.writeUser x.1 v).readUser x.1 = v &&& x.2) ∧
    (∀ i < 64, (t.writeUser 0x060 v).utvec.getLsbD i = if i = 1 then t.utvec.getLsbD 1 else v.getLsbD i) ∧
    (∀ x ∈ strandSupCsrs, (t.writeSup x.1 v).readSup x.1 = v &&& x.2) ∧
    (∀ x ∈ contextFields, (c.write x.1 v).read x.1 = v &&& x.2) ∧
    (∀ i < 16, (t.writeUser (0x040 + i) v).readUser (0x040 + i) = v) ∧
    (t.writeUser 0x001 v).vl = min v.toNat 1024 ∧
    (t.writeUser 0x00C v).mxblk = (if v.toNat % 4 = 3 then t.mxblk else v.toNat % 4) ∧
    (∀ i < 64, (t.writeUser 0x000 v).fstat.getLsbD i =
      if 8 ≤ i ∧ i < 21 then v.getLsbD i
      else if i < 3 ∧ 1 ≤ v.toNat % 8 ∧ v.toNat % 8 ≤ 5 then v.getLsbD i else t.fstat.getLsbD i) ∧
    (∀ i < 63, ∀ n < 4, ((t.writeUser (0x008 + n) v).readUser (0x008 + n)).getLsbD i =
      if (0x3FF071F : Word).getLsbD i then v.getLsbD i else (t.readUser (0x008 + n)).getLsbD i) ∧
    (∀ i < 64, ((t.writeSup 0x100 v).readSup 0x100).getLsbD i =
      if i = 4 ∨ i = 5 ∨ i = 8 then v.getLsbD i else (BitVec.ofNat 64 t.mode.code).getLsbD i) ∧
    (c.write 0x112 v).spadways = BitVec.ofNat 64 (min 16 (v.toNat % 32)) ∧
    (c.write 0x113 v).prioceil = BitVec.ofNat 64 (min 11 (v.toNat % 16)) ∧
    (∀ i < 64, (c.write 0x120 v).slotper.getLsbD i =
      if i < 4 then (BitVec.ofNat 4 (min 12 (max 6 (v.toNat % 16)))).getLsbD i else i = 16 && v.getLsbD 16) ∧
    (∀ n m, n ≠ m → (t.writeUser n v).readUser m = t.readUser m ∧ (t.writeSup n v).readSup m = t.readSup m ∧
      (c.write n v).read m = c.read m) ∧
    (∀ n, (t.writeUser n v).g = t.g ∧ (t.writeUser n v).f = t.f ∧ (t.writeUser n v).v = t.v ∧ (t.writeUser n v).m = t.m ∧
      (t.writeUser n v).pc = t.pc ∧ (t.writeUser n v).mode = t.mode ∧ (t.writeUser n v).usc = t.usc ∧
      (t.writeSup n v).g = t.g ∧ (t.writeSup n v).pc = t.pc ∧ (t.writeSup n v).mode = t.mode ∧
      (t.writeSup n v).fstat = t.fstat)

/-- R197, R198, R306, R349, R402: the writes that have an effect of their own, by their events; a CSR instruction's are the same. -/
def CsrEffects : Prop :=
  ∀ (s : State) (core : Nat) (count : Bool) (v : Word),
    let c := s.coreAt core
    (∃ t, exec (.spadwaysWrite core v) s = .next t ∧
      t = { s with mem := t.mem, poisoned := t.poisoned, cores := t.cores, slices := t.slices, rim := t.rim,
                   rimUses := t.rimUses } ∧
      (∀ x ∈ t.slices, x ∈ s.slices) ∧ (t.slices.filter (·.core == core)).length ≤ (16 - min 16 (v.toNat % 32)) * 1024 ∧
      t.coreAt core = { c with csrs := { c.csrs with spadways := BitVec.ofNat 64 (min 16 (v.toNat % 32)) } } ∧
      (∀ k, k ≠ core → t.coreAt k = s.coreAt k) ∧
      (∀ a, t.byteAt a =
        let old := c.csrs.spadways.toNat % 32
        let new := min 16 (v.toNat % 32)
        let lo := scratchKey core (min old new * 65536)
        if lo ≤ a ∧ a < lo + (max old new - min old new) * 65536 then 0 else s.byteAt a)) ∧
    (∃ t, exec (.prioceilWrite core v) s = .next t ∧ t = { s with strands := t.strands, cores := t.cores } ∧
      t.coreAt core = { c with csrs := { c.csrs with prioceil := BitVec.ofNat 64 (min 11 (v.toNat % 16)) },
                               waiting0 := c.waiting0.map fun u => { u with prio := min u.prio (min 11 (v.toNat % 16)) } } ∧
      (∀ k, t.strandAt k = if k / 4 = core ∧ (s.strandAt k).kind ≠ .supervisor ∧ (s.strandAt k).kind ≠ .chiplet then
        { s.strandAt k with prio := min (s.strandAt k).prio (min 11 (v.toNat % 16)) } else s.strandAt k)) ∧
    (∃ t, exec (.diversionTableWrite core count v) s = .next t ∧ t = { s with cores := t.cores } ∧
      (t.coreAt core).divbase = (if count then c.divbase else v &&& 0xFFFFFFFFFFFE0) ∧
      (t.coreAt core).divcount = (if count then BitVec.ofNat 64 (min 32 (v.toNat % 64)) else c.divcount) ∧
      (t.coreAt core).divtab.length = (t.coreAt core).divcount.toNat % 64) ∧
    (exec (.dbgctlWrite v) s = .next (if
        v.toNat % 4 = 0 ∨ v.toNat % 4 ≤ 2 ∧ (s.secState = .factoryOpen ∨
          s.secState = .granted ∧ v.toNat % 4 ≤ s.grant.getD 0) then
      { s with dbgctl := v.toNat % 4, dbg := v.toNat % 4 } else s))

/-- R366: SLOTPER, SLOTMAP and SLOTSTRICT: what is written is read back at once, and is in force from the next tick; the rest of the
present tick keeps what was in force. -/
def SlotWrites : Prop :=
  ∀ (s : State) (v : Word), ∀ n ∈ [0x120, 0x121, 0x122],
    let c := s.myCore
    let now := c.slotsAt s.gtime
    let t := s.csrWrite n v
    s.csrRead n = c.csrs.read n ∧
    t = s.setMyCore { c with csrs := c.csrs.write n v, slotOld := some ⟨s.gtime, now.slotper, now.slotmap, now.slotstrict⟩ } ∧
    (∀ tick, tick ≠ s.gtime → t.myCore.slotsAt tick = c.csrs.write n v) ∧
    ∀ m ∈ [0x120, 0x121, 0x122], (t.myCore.slotsAt s.gtime).read m = now.read m

/-- R236, and the model's reading of it beside R336 (log entry 46): ALLOCTRAP and HEAPBASE are held by the partition whose context is
resident. -/
def HeapCsrs : Prop :=
  ∀ (s : State) (v : Word), s.myCore.resident = true →
    let p := s.partAt s.myCore.part
    s.csrRead 0x150 = p.alloctrap ∧ s.csrRead 0x151 = p.heapbase ∧
    s.csrWrite 0x150 v = s.setPart s.myCore.part { p with alloctrap := v &&& 1 } ∧
    s.csrWrite 0x151 v = s.setPart s.myCore.part { p with heapbase := v &&& 0xFFFFFFFFFFFFFF81 }

/-- R333, R334, R396, R402, R27, R118, R28: the other system instructions in each mode, and an unassigned word. -/
def SystemWords : Prop :=
  ∀ (s : State) (d : Reg) (w : IWord),
    let t := s.me
    let up := t.pc + 4
    let claimed := s.dbg = 2 ∧ s.power = .active ∧ (isChiplet s.myCoreNo = true ∨
      s.secState ≠ .faultLocked ∧ (s.clusterAt (clusterOf s.myCoreNo)).gated = false)
    (¬claimed → exec .ebreak s = .next (s.take { code := 0x18 } up)) ∧
    (claimed → exec .ebreak s = .next (s.setMe { t with
      fstatus := BitVec.ofNat 64 t.mode.code, fepc := up, fcause := 0x18, mode := .firmware, pc := base4 s.myCore.ftvec,
      cond := .halted, slotTie := none, timer := none, awaits := {} })) ∧
    (t.mode = .user → exec .eret s = Illegal s .eret 4) ∧
    (∀ m ∈ [Mode.user, Mode.supervisor, Mode.firmware], t.mode = .firmware → t.fstatus.toNat % 4 = m.code →
      (t.fepc.toNat % 4 = 0 → exec .eret s = .next (s.setMe { t with pc := t.fepc, mode := m, cond := .ready, slotTie := none })) ∧
      (t.fepc.toNat % 4 ≠ 0 → exec .eret s = .next (s.take { code := 0x02, addr := t.fepc } t.pc))) ∧
    (t.mode = .supervisor → t.kind ≠ .supervisor → ∃ x : Word,
      (∀ i < 64, x.getLsbD i = t.sstatus.getLsbD (if i = 4 then 5 else i)) ∧
      exec .eret s = .next ((s.setMyCore { s.myCore with
          halt := if s.myCore.halt.any fun h => h.taken && h.slot == s.mySlotNo && !h.sup then none else s.myCore.halt }).setMe
        { t with pc := t.sepc, sstatus := x, mode := if t.sstatus.getLsbD 8 then .supervisor else .user,
                 cond := .ready, slotTie := none })) ∧
    (t.mode = .supervisor → t.kind = .supervisor → s.myCore.pending.absent = none → s.myCore.merging = false →
      ∃ u, exec .eret s = .next u ∧ u.strandAt (4 * s.myCoreNo) = s.myCore.waiting0.getD {} ∧ u.mem = s.mem ∧
        (∀ k, k ≠ 4 * s.myCoreNo → u.strandAt k = s.strandAt k) ∧ (u.coreAt s.myCoreNo).waiting0 = none) ∧
    (Clear s [] [d] → exec (.rdtime d) s = Ends s (t.writeG d (BitVec.ofNat 64 s.gtime)) ∧
      exec (.rdcyc d) s = Ends s (t.writeG d (BitVec.ofNat 64 (s.cyclesOf s.myCoreNo)))) ∧
    (w.toNat / 2 ^ 26 = 0 ∨ 0x39 ≤ w.toNat / 2 ^ 26 → exec (.unassignedInstructionWord w) s =
      .next (s.take { code := 1, info := BitVec.ofNat 64 w.toNat } t.pc)) ∧
    (unassignedReason w = some 1 → exec (.unassignedInstructionWord w) s =
      .next (s.take { code := 1, info := BitVec.ofNat 64 (2 ^ 32 + w.toNat) } t.pc)) ∧
    (∀ k, (s.strandAt k).mode = .user → (s.strandAt k).ucause.getLsbD 62 = true → ∃ x : Word,
      (∀ i < 64, x.getLsbD i = (i ≠ 62 && (s.strandAt k).ucause.getLsbD i)) ∧
      exec (.userReturn k) s = .next (s.setStrand k { s.strandAt k with
        ucause := x, pc := (s.strandAt k).uepc, cond := .ready, slotTie := none }))

/-- The TLB invalidations, and what each removes: an entry of a page, of a context or of any (R230). -/
noncomputable def tlbForms : List ((Reg → Scope → Instr) × (State → Word → TlbKind) × (State → Word → TlbEntry → Prop)) :=
  [(.tlbinvPage, fun s x => .page x (s.myCore.csrs.cidtag.toNat % 65536), fun s x e =>
      e.base ≤ x.toNat ∧ x.toNat < e.base + e.size ∧ (e.glob = true ∨ e.cid = s.myCore.csrs.cidtag.toNat % 65536)),
   (.tlbinvCid, fun _ x => .cid (x.toNat % 65536), fun _ x e => e.glob = false ∧ e.cid = x.toNat % 65536),
   (.tlbinvCtx, fun _ _ => .ctx, fun _ _ e => e.glob = false),
   (.tlbinvAll, fun _ _ => .all, fun _ _ _ => True)]

/-- R230: TLBINV retires at issue with its invalidation under way; TLBINV_COMPLETE takes the entries from the TLBs in scope, and
ends once the messages then in flight have been performed; in user mode TLBINV is refused. -/
def TlbInvalidations : Prop :=
  ∀ (s : State) (a : Reg) (sc : Scope),
    (∀ f ∈ tlbForms,
      (s.me.mode = .user → exec (f.1 a sc) s = Illegal s (f.1 a sc) 4) ∧
      (s.me.mode ≠ .user → Clear s [a] [] → exec (f.1 a sc) s = Ends { s with tlbinv := s.tlbinv ++
        [{ core := s.myCoreNo, slot := s.mySlotNo, scope := sc, kind := f.2.1 s (s.me.readG a) }] } s.me) ∧
      (∀ e : TlbEntry, (f.2.1 s (s.me.readG a)).removes e = true ↔ f.2.2 s (s.me.readG a) e)) ∧
    (∀ i x, s.tlbinv[i]? = some x →
      (x.after = none → ∃ t, exec (.tlbinvComplete i) s = .next t ∧ t = { s with tlb := t.tlb, tlbinv := t.tlbinv } ∧
        (∀ e, e ∈ t.tlb ↔ e ∈ s.tlb ∧ ¬(inScope x.scope x.core e.core = true ∧ (e.shared = true → x.scope ≠ .core) ∧
          x.kind.removes e = true)) ∧
        t.tlbinv = s.tlbinv.set i { x with after := some (s.net.map (·.serial)) }) ∧
      (∀ l, x.after = some l → (∀ m ∈ s.net ++ s.spilled, m.serial ∉ l) →
        exec (.tlbinvComplete i) s = .next { s with tlbinv := s.tlbinv.eraseIdx i }))

end Sys2Proof.Claims

/-- R326 to R328, R396: in which mode an exception or an interrupt is taken, the record that it leaves there, the status, and where the
pc goes; no other register changes. -/
def Obligations.Exceptions : Prop :=
  ∀ (t : Strand) (c : Core) (e : Exc) (epc : Word), e.code < 256 →
    (TakenInUser t c e → t.enter c e epc =
      { t with uepc := base4 epc, ucause := 0b01#2 ++ BitVec.ofNat 62 e.code, uaddr := e.addr, uinfo := e.info,
               pc := base4 t.utvec, cond := .ready, slotTie := none, timer := none, awaits := {} }) ∧
    (¬TakenInUser t c e → t.mode = .firmware ∨ e.code = 0x17 → t.enter c e epc =
      { t with fstatus := BitVec.ofNat 64 t.mode.code, fepc := epc, fcause := BitVec.ofNat 64 e.code, mode := .firmware,
               pc := base4 c.ftvec, cond := .ready, slotTie := none, timer := none, awaits := {} }) ∧
    (¬TakenInUser t c e → t.mode ≠ .firmware → e.code ≠ 0x17 → ∃ x : Word,
      StatusTaken t.sstatus x (decide (t.mode = .supervisor)) ∧ t.enter c e epc =
        { t with sepc := base4 epc, scause := BitVec.ofBool e.int ++ BitVec.ofNat 63 e.code, saddr := e.addr,
                 sinfo := e.info, sstatus := x, mode := .supervisor, pc := base4 c.stvec, cond := .ready,
                 slotTie := none, timer := none, awaits := {} })

/-- R332: ECALL in each mode: the exception that it raises, with the address of the next instruction; it changes nothing else. -/
def Obligations.SystemCalls : Prop :=
  ∀ (s : State),
    (s.me.mode = .user → exec .ecall s = .next (s.take { code := 0x16 } (s.me.pc + 4))) ∧
    (s.me.mode = .supervisor → exec .ecall s = .next (s.take { code := 0x17 } (s.me.pc + 4))) ∧
    (s.me.mode = .firmware → exec .ecall s = Illegal s .ecall 4)

/-- R28, R118, R230, R329, R333, R334, R396: the other system instructions in each mode, an unassigned word, and TLBINV. -/
def Obligations.SystemForms : Prop := SystemWords ∧ TlbInvalidations

/-- R115, R116, R329: the CSR instructions: the order in which each is refused; otherwise g[d] becomes the old value and the CSR
takes the new one, and a write that ends UCAUSE.ACTIVE in user mode returns to UEPC. -/
def Obligations.CsrForms : Prop :=
  ∀ (s : State) (d a : Reg) (c : BitVec 12), ∀ f ∈ csrForms d a c,
    let n := c.toNat
    let writes := f.2.isSome
    let wrong := Csr.assigned n = false ∨ (writes = true ∧ Csr.readOnly n = true)
    let above := (s.me.mode = .user ∧ 0x100 ≤ n) ∨ (s.me.mode = .supervisor ∧ 0x200 ≤ n)
    let old := s.csrRead n
    let s1 := match f.2 with
      | none => s
      | some g => s.csrWrite n (g old (s.me.readG a))
    let returns := s.me.mode = .user ∧ n = 0x062 ∧ s.me.ucause.getLsbD 62 = true ∧ s1.me.ucause.getLsbD 62 = false
    (wrong → exec f.1 s = Illegal s f.1 3) ∧
    (¬wrong → above → exec f.1 s = Illegal s f.1 4) ∧
    (¬wrong → ¬above → Clear s (if writes then [a] else []) [d] →
      (¬returns → exec f.1 s = Ends s1 (s1.me.writeG d old)) ∧
      (returns → exec f.1 s = Goes s1 (s1.me.writeG d old) s1.me.uepc))

/-- R119, R198, R306, R335 to R339, R349, R366, R396, R402: the fields of the CSRs, and the writes with an effect of their own. -/
def Obligations.CsrRegisters : Prop :=
  CsrFields ∧ CsrEffects ∧ SlotWrites ∧ HeapCsrs ∧
  ∀ (s : State) (v : Word),
    (∀ x ∈ strandCsrs, s.csrRead x.1 = s.me.readUser x.1 ∧ s.csrWrite x.1 v = s.setMe (s.me.writeUser x.1 v)) ∧
    (∀ x ∈ strandSupCsrs, s.csrRead x.1 = s.me.readSup x.1 ∧ s.csrWrite x.1 v = s.setMe (s.me.writeSup x.1 v)) ∧
    (∀ x ∈ contextFields.take 4, s.csrRead x.1 = s.myCore.csrs.read x.1 ∧
      s.csrWrite x.1 v = s.setMyCore { s.myCore with csrs := s.myCore.csrs.write x.1 v }) ∧
    s.csrRead 0x020 = s.strandId ∧ (s.strandId.toNat % 8192 = s.cur % 8192) ∧
    s.csrRead 0x021 = BitVec.ofNat 64 (s.cur / 4) ∧ s.csrRead 0x065 = s.myCore.csrs.sdeleg ∧
    (∀ x ∈ [(0x101, s.myCore.stvec), (0x106, s.myCore.sscratch), (0x112, s.myCore.csrs.spadways), (0x113, s.myCore.csrs.prioceil),
        (0x130, s.myCore.switchat), (0x131, s.myCore.nextcid), (0x140, s.myCore.divbase), (0x141, s.myCore.divcount),
        (0x201, s.myCore.ftvec), (0x211, BitVec.ofNat 64 s.dbgctl)], s.csrRead x.1 = x.2) ∧
    exec (.spadwaysWrite s.myCoreNo v) s = .next (s.csrWrite 0x112 v) ∧
    exec (.prioceilWrite s.myCoreNo v) s = .next (s.csrWrite 0x113 v) ∧
    exec (.diversionTableWrite s.myCoreNo false v) s = .next (s.csrWrite 0x140 v) ∧
    exec (.diversionTableWrite s.myCoreNo true v) s = .next (s.csrWrite 0x141 v) ∧
    exec (.dbgctlWrite v) s = .next (s.csrWrite 0x211 v) ∧
    (let t := s.csrWrite 0x114 v
     t = s.setMyCore { s.myCore with slots := t.myCore.slots } ∧ t.csrRead 0x114 = v &&& 0xFFFFFFFFFFFFF001 ∧
     (∀ i, (h : i < 4) → i ≠ s.mySlotNo → t.myCore.slots[i] = s.myCore.slots[i]) ∧
     (∀ i, (h : i < 4) → i = s.mySlotNo → t.myCore.slots[i] = { s.myCore.slots[i] with tsavea := v &&& 0xFFFFFFFFFFFFF001 })) ∧
    s.csrWrite 0x131 v = s.setMyCore { s.myCore with nextcid := v &&& 0x800FFFFFFFFFFFFF } ∧
    s.csrWrite 0x101 v = s.setMyCore { s.myCore with stvec := base4 v } ∧
    s.csrWrite 0x106 v = s.setMyCore { s.myCore with sscratch := v } ∧
    s.csrWrite 0x130 v = s.setMyCore { s.myCore with switchat := v } ∧
    s.csrWrite 0x201 v = s.setMyCore { s.myCore with ftvec := base4 v }

namespace Sys2Proof.Claims

/-! ## Messages at their homes -/

/-- Message `m` is number `i` of the network, and may reach its home; it was refused there before, or not (R267, R272, R351).  One of
another module's copy carries the partition that owns its CID (R347). -/
def Arrives (s : State) (i : Nat) (m : Msg) (refused : Bool) : Prop :=
  ∃ x, s.net[i]? = some x ∧ s.mayArrive i = true ∧ x.refused = refused ∧ m = s.withPart x

/-- The message is for G-space, or for a core where a context of its partition is resident (R347). -/
def Received (s : State) (m : Msg) : Prop := m.home = none ∨ ∃ c, m.home = some c ∧ s.isHome c m.sender.part = true

/-- The state without message `i`, and with the acknowledgement of a counted message on its way to its sender (R203). -/
def Answered (s : State) (i : Nat) (m : Msg) : State :=
  { s with net := s.net.eraseIdx i,
           acks := if m.counted = true ∧ m.sender.dead = false then s.acks ++ [m.sender] else s.acks }

/-- The bytes of a message lie in memory that is there: in G-space, or within the carve in force (R199). -/
def InCarve (s : State) (m : Msg) (k n : Nat) : Prop := ∀ c, m.home = some c → s.carveHas c k n = true

/-- The strand that a message came from stands in its slot (R344). -/
def AtSender (s : State) (m : Msg) : Prop :=
  m.sender.dead = false ∧ s.senderLive m.sender = true ∧ s.senderWaits m.sender = false

/-- `u` with what a message may change at its home as `t` has it: memory, with the caches that hold its lines, and what the sending of
an answer changes (R203, R221, R359). -/
def atHome (u t : State) : State :=
  { u with mem := t.mem, poisoned := t.poisoned, l1 := t.l1, rdc := t.rdc, slices := t.slices, rim := t.rim, rimUses := t.rimUses,
           traffic := t.traffic, sent := t.sent, cores := t.cores, fresh := t.fresh }

/-- Nothing of the cores differs but when their ports are free again (R359). -/
def SameCores (s t : State) : Prop := ∀ c, { t.coreAt c with portFree := 0 } = { s.coreAt c with portFree := 0 }

/-- The home of message `m` has sent its sender a response of `n` flits, and, where it counts the message, an acknowledgement (R203,
R359). -/
def Replied (s t : State) (m : Msg) (n : Nat) : Prop :=
  SameCores s t ∧ ∃ a rest, t.traffic = s.traffic ++ a :: rest ∧ a.body = .packet n 0 1 0 ∧ a.source = m.dest ∧ a.dest = m.source ∧
    (m.counted = false → rest = [])

/-- The number of the strand that a message came from. -/
def senderKey (m : Msg) : Nat := m.sender.core * 4 + m.sender.slot

/-- The state `t` after message `i` has been performed and answered as the home of a write does it: nothing changes but what
`atHome` names, and the element-progress timer of the strand that a slotted message came from (R203, R212, R359). -/
def WriteDone (s t : State) (i : Nat) (m : Msg) : Prop :=
  let counted := m.counted = true ∧ m.sender.dead = false
  t = { atHome (Answered s i m) t with strands := t.strands } ∧
    (∀ k, { t.strandAt k with timer := none } = { s.strandAt k with timer := none }) ∧ (m.slotted = false → t.strands = s.strands) ∧
    (¬counted → t.cores = s.cores ∧ t.traffic = s.traffic ∧ t.sent = s.sent ∧ t.fresh = s.fresh) ∧
    (counted → SameCores s t ∧ ∃ a, t.traffic = s.traffic ++ [a] ∧ a.body = .packet 1 0 1 0 ∧ a.source = m.dest ∧ a.dest = m.source)

/-- R203, R224, R276, R301, R302, R304, R351, R359: a store or a RED is performed at its home, and acknowledged; a message that was
refused is performed by the retry as it would have been by its event; at memory its line is in its rim bank, under its tag. -/
def WriteArrivals : Prop :=
  ∀ (s : State) (i : Nat) (m : Msg) (refused : Bool), Arrives s i m refused → Received s m →
    let event := if refused then Instr.messageRetry i else Instr.remoteWriteArrival i
    (∀ cells, m.body = .store cells → (∀ c ∈ cells, InCarve s m c.1 1) → ∃ t, exec event s = .next t ∧ WriteDone s t i m ∧
      ∀ a, t.byteAt a = ((cells.reverse.find? fun c => c.1 == a).map (·.2)).getD (s.byteAt a)) ∧
    (∀ op w k v, m.body = .red op w k v → InCarve s m k (amoSize w) → ∃ t, exec event s = .next t ∧ WriteDone s t i m ∧
      (m.home = none → k < 2 ^ 40 → k % 64 + amoSize w ≤ 64 →
        ∃ x ∈ Tab.get [] t.rim (rimSetOf (k / 64)), x.line = k / 64 / 32 ∧ x.mark = m.tag) ∧
      (s.isPoisoned k (amoSize w) = true → t.mem = s.mem) ∧
      (s.isPoisoned k (amoSize w) = false → Stored s t k (amoSize w)
        (memResult op w (s.readMem k (amoSize w)) (v.toNat % 2 ^ (8 * amoSize w)) 0))) ∧
    (∀ op w items, m.body = .reds op w items → (∀ x ∈ items, InCarve s m x.1 (amoSize w)) → ∃ t, exec event s = .next t ∧
      WriteDone s t i m ∧ t.mem = (items.foldl (fun u x => (u.performOp op w x.1 x.2 0).1) s).mem)

/-- R92, R93, R272, R277, R302, R359: a load's data, or an AMO's value, is on its way to the register once it is performed; poisoned data
goes with its address; an acquiring AMO completes; a vector load that waits has what its read returned.  The response crosses the
network. -/
def ReadArrivals : Prop :=
  ∀ (s : State) (i : Nat) (m : Msg), Arrives s i m false → Received s m → AtSender s m → m.slotted = false →
    let u := s.strandAt (senderKey m)
    (∀ k n sg r, m.body = .load k n sg r false → InCarve s m k n → r ≠ 0 → u.mark r = .waiting .load → u.cond ≠ .acquire r →
      let poison := if s.isPoisoned k n then some (addrOfKey k) else none
      ∃ t, exec (.heldRead i) s = .next t ∧ Replied s t m 2 ∧
        t = { (Answered s i m).setStrand (senderKey m) (u.setMark r (.landing .load (extended n sg (s.readMem k n)) poison)) with
              rim := t.rim, rimUses := t.rimUses, traffic := t.traffic, sent := t.sent, cores := t.cores, fresh := t.fresh }) ∧
    (∀ k n, m.body = .vload k n → InCarve s m k n → ∃ t, exec (.heldRead i) s = .next t ∧ Replied s t m (1 + (n + 127) / 128) ∧
      t = { (Answered s i m).setStrand (senderKey m) { u with awaits := { u.awaits with
              got := { key := k, size := n, value := s.readMem k n, poison := s.isPoisoned k n } :: u.awaits.got } } with
            rim := t.rim, rimUses := t.rimUses, traffic := t.traffic, sent := t.sent, cores := t.cores, fresh := t.fresh }) ∧
    (∀ op w o k va v x r, m.body = .amo op w o k va v x r → InCarve s m k (amoSize w) → r ≠ 0 →
      ∃ t, t = atHome (Answered s i m) t ∧ Replied s t m 2 ∧
        let old := s.readMem k (amoSize w)
        let bad := s.isPoisoned k (amoSize w)
        let y := u.setMark r (.landing .load (amoReturn op w old) (if bad then some va else none))
        (bad = false → Stored s t k (amoSize w) (memResult op w old (v.toNat % 2 ^ (8 * amoSize w)) (x.toNat % 2 ^ (8 * amoSize w)))) ∧
        (bad = true → t.mem = s.mem) ∧
        (u.cond = .acquire r → exec (.amoArrival i) s = .next (t.setStrand (senderKey m) y.advance)) ∧
        (u.cond ≠ .acquire r → u.mark r = .waiting .load → exec (.amoArrival i) s = .next (t.setStrand (senderKey m) y)))

/-- R203, R256, R283, R287, R290, R296: acknowledgements, and the messages of barriers and lines, at their homes; a message aimed at a
barrier that is bound goes on to the home of its domain. -/
def UnitArrivals : Prop :=
  ∀ (s : State) (i : Nat),
    (∀ m, s.acks[i]? = some m → s.senderLive m = true → s.senderWaits m = false →
      let k := m.core * 4 + m.slot
      exec (.acknowledgement i) s = .next ({ s with acks := s.acks.eraseIdx i }.setStrand k
        { s.strandAt k with usc := (s.strandAt k).usc - 1 })) ∧
    (∀ m c, Arrives s i m false → m.home = some c → m.counted = false → m.slotted = false →
      let s1 := { s with net := s.net.eraseIdx i }
      (∀ l w add, m.body = .evsig l w add → ∃ x : Word,
        (exec (.eventLineUpdate i) s = .next (s1.setLine l x)) ∧
        x.extractLsb' 32 32 = (s.lineWord l).extractLsb' 32 32 + 1 ∧
        x.setWidth 32 = (if add then (s.lineWord l).setWidth 32 + w.setWidth 32 else w.setWidth 32)) ∧
      (s.isHome c m.sender.part = true →
        (∀ b p, m.body = .phase b p →
          exec (.phaseMessage i) s = .next (s1.setBarrier c b { s.barrierOf c b with phase := p })) ∧
        (∀ b, s.barrierHome c b ≠ c → m.origin = none →
          let h := s.barrierHome c b
          let onward := Host.Outcome.next (s1.post { m with origin := some c, home := some h, dest := h, user := false })
          (∀ n, m.body = .arrive b n → exec (.barrierArrival i) s = onward) ∧
          (∀ n, m.body = .subtract b n → exec (.byteSubtraction i) s = onward) ∧
          (∀ n arr r, m.body = .expect b n arr r → exec (.expectation i) s = onward)) ∧
        (∀ b, s.barrierHome c b = c ∨ m.origin.isSome →
          (∀ n, m.body = .arrive b n → exec (.barrierArrival i) s = .next (s1.arriveAt c b n)) ∧
          (∀ n, m.body = .subtract b n → exec (.byteSubtraction i) s = .next (s1.subtractAt c b n)) ∧
          (∀ n arr d a r, m.body = .expect b n arr (some r) → AtSender s m →
            (s.strandAt (senderKey m)).cond = .bexp d a none → ∃ t, exec (.expectation i) s =
              .next ((s1.expectAt c b n arr).1.setStrand (senderKey m) { s.strandAt (senderKey m) with cond := .bexp d a (some t) }) ∧
              t = match (s1.expectAt c b n arr).2 with
                | some p => .phase p
                | none => .overflow) ∧
          (∀ n arr, m.body = .expect b n arr none → exec (.expectation i) s = .next (match s1.expectAt c b n arr with
            | (t, some _) => t
            | (t, none) => t.setBarrier c b { t.barrierOf c b with err := true })))))

/-- R272, R290, R291, R295, R297, R299, R300: what wakes a strand that waits for a reply or sleeps, and what it then writes; it goes on
once its earlier loads are performed. -/
def Wakes : Prop :=
  ∀ (s : State) (k : Nat),
    let t := s.strandAt k
    let me := { s with cur := k }
    (∀ d a, (∀ p, t.cond = .bexp d a (some (.phase p)) →
        exec (.bexpReply k) s = .next (s.setStrand k (t.writeG d (bit p)).advance)) ∧
      (let b := (t.readG a).toNat % 2048
       let info := b + if (s.barrierOf (k / 4) b).bound then 2 ^ 11 else 0
       (t.cond = .bexp d a (some .overflow) → exec (.bexpReply k) s = .next (s.setStrand k
          (t.enter (s.coreAt (k / 4)) { code := 0x0F, info := BitVec.ofNat 64 info } t.pc))) ∧
       (t.cond = .bexp d a (some .discarded) → exec (.bexpReply k) s = .next (s.setStrand k
          (t.enter (s.coreAt (k / 4)) { code := 0x06, info := BitVec.ofNat 64 (info + 2 ^ 12) } t.pc))))) ∧
    (∀ d a, t.cond = .asleep (.bwait d a) → s.readBusy k = false →
      let p := (s.barrierOf (k / 4) ((t.readG a).toNat % 2048)).phase
      exec (.bwaitWake k) s = .next (if (t.readG d).getLsbD 0 = p then s else s.setStrand k (t.writeG d (bit p)).advance)) ∧
    (∀ d a l s1, t.cond = .asleep (.evwait d a) → Yields (M.lineOf false .load (t.readG a)) me l s1 → s1.me = t → s1.cur = k →
      s1.readBusy k = false → exec (.evwaitWake k) s = .next (if (s1.lineWord l).toNat / 2 ^ 32 = (t.readG d).toNat / 2 ^ 32 then s
        else { (s1.lineTraffic l true).setMe (t.writeG d (s1.lineWord l)).advance with cur := s.cur })) ∧
    (∀ d a n l s1, t.cond = .asleep (.evlock d a n) → Yields (M.lineOf true .amo (t.readG a)) me l s1 → s1.me = t → s1.cur = k →
      s1.readBusy k = false → exec (.evlockWake k) s = .next (if mutexServe (s1.lineWord l) = n then
        { ((s1.lineTraffic l true).setLine l (mutexWord (mutexNext (s1.lineWord l)) n s1.ownerWord)).setMe (t.writeG d 1).advance with
          cur := s.cur }
        else s)) ∧
    (∀ d a b m all c, t.cond = .asleep (.waitv d a b m all c) → ∀ (ps : List Place) (xs : List (Nat × Bool)) (s1 s2 : State),
      let els := waitElems me m
      Yields (els.mapM fun e => M.waitPlace (waitAddr me a e) e) me ps s1 → Yields (ps.mapM fun p => M.read p 8) s1 xs s2 →
      s2.cur = k → s2.readBusy k = false → ∃ met : List Nat, met.Sublist els ∧
        (∀ i < els.length, els.getD i 0 ∈ met ↔
          condHolds c (BitVec.ofNat 64 (xs.getD i (0, false)).1) (waitAddr me b (els.getD i 0))) ∧
        exec (.waitvWake k) s = .next (if (all = false ∧ (met ≠ [] ∨ els = [])) ∨ (all = true ∧ met = els) then
          { s2.setMe (s2.me.writeG d (BitVec.ofNat 64 ((met.map fun e => 2 ^ e).sum))).advance with cur := s.cur } else s))

/-! ## Messages for an absent context -/

/-- The event with which a message reaches its home, or is tried again (R276, R277, R287, R290, R301, R351). -/
noncomputable def arrivalOf (m : Msg) (refused : Bool) (i : Nat) : Instr :=
  if refused then .messageRetry i
  else match m.body with
    | .store .. | .red .. | .reds .. => .remoteWriteArrival i
    | .load .. | .vload .. => .heldRead i
    | .amo .. => .amoArrival i
    | .arrive .. => .barrierArrival i
    | .expect .. => .expectation i
    | .subtract .. => .byteSubtraction i
    | .phase .. => .phaseMessage i
    | .evsig .. | .packet .. => .eventLineUpdate i

/-- The carve offsets of the bytes that a message reads or writes at core `c`, or its barrier. -/
def touched (m : Msg) (c : Nat) : List Nat :=
  let bytes := fun (key n : Nat) => (List.range n).map fun j => key - scratchKey c 0 + j
  match m.body with
  | .store cells => cells.map fun x => x.1 - scratchKey c 0
  | .red _ w k _ => bytes k (amoSize w)
  | .reds _ w items => items.flatMap fun x => bytes x.1 (amoSize w)
  | .load k n _ _ _ | .vload k n => bytes k n
  | .amo _ w _ k _ _ _ _ => bytes k (amoSize w)
  | .arrive b _ | .expect b _ _ _ | .subtract b _ | .phase b _ => [b]
  | .evsig .. | .packet .. => []

/-- The message is bound for a barrier. -/
def ForBarrier (m : Msg) : Prop :=
  match m.body with
  | .arrive .. | .expect .. | .subtract .. | .phase .. => True
  | _ => False

/-- A diversion entry matches a message at core `c`: its partition, its kind, and all that the message touches (R349). -/
def Covers (e : DivEntry) (m : Msg) (c : Nat) : Prop :=
  (ForBarrier m → e.kind = 2) ∧ (¬ForBarrier m → e.kind = 1) ∧ m.sender.part = some e.part ∧ ∀ o ∈ touched m c, e.lo ≤ o ∧ o < e.hi

/-- It is the lowest-numbered entry that does (R349). -/
def MatchedBy (tab : List DivEntry) (m : Msg) (c : Nat) (e : DivEntry) : Prop :=
  ∃ pre post, tab = pre ++ e :: post ∧ Covers e m c ∧ ∀ x ∈ pre, ¬Covers x m c

/-- OP of a RED's record (R350). -/
def redNumber : MemOp → Nat
  | .add => 1
  | .min => 2
  | .max => 3
  | .fadd => 4
  | _ => 5

/-- The record of `n` bytes from a carve offset: its block, and a mask of exactly those bytes (R350). -/
def RecordOf (r : ShadowRec) (off n : Nat) : Prop :=
  r.target = off / 32 * 32 ∧ ∀ j, r.mask.testBit j = true ↔ off % 32 ≤ j ∧ j < off % 32 + n

/-- The shadow records of a message at core `c`, but for the tag of a load's or AMO's, which is the device's own (R350, log entry 16). -/
def RecordsOf (m : Msg) (c : Nat) (rs : List ShadowRec) : Prop :=
  let off := fun (key : Nat) => key - scratchKey c 0
  (∀ r ∈ rs, r.src = m.sender.core) ∧
  match m.body with
  | .arrive b n => ∃ r, rs = [r] ∧ r.op = 6 ∧ r.target = b ∧ r.value = n
  | .subtract b n => ∃ r, rs = [r] ∧ r.op = 8 ∧ r.target = b ∧ r.value = n
  | .phase b p => ∃ r, rs = [r] ∧ r.op = 9 ∧ r.target = b ∧ r.value = (if p then 1 else 0)
  | .expect b n arr _ => ∃ r x, rs = r :: (if arr then [x] else []) ∧ r.op = 7 ∧ r.target = b ∧ r.value = n ∧
      x.op = 6 ∧ x.target = b ∧ x.value = 1
  | .red op w k v => ∃ r, rs = [r] ∧ r.op = redNumber op ∧ r.width = widthCode w ∧ RecordOf r (off k) (amoSize w) ∧
      r.data = v.toNat % 2 ^ (8 * amoSize w) * 2 ^ (8 * (off k % 32))
  | .reds op w items => (∀ r ∈ rs, r.op = redNumber op ∧ r.width = widthCode w) ∧ ∀ x ∈ items, ∃ r ∈ rs,
      r.target = off x.1 / 32 * 32 ∧ (∀ j, off x.1 % 32 ≤ j → j < off x.1 % 32 + amoSize w → r.mask.testBit j = true) ∧
      r.data / 2 ^ (8 * (off x.1 % 32)) % 2 ^ (8 * amoSize w) = x.2.toNat % 2 ^ (8 * amoSize w)
  | .load k n _ _ _ => ∃ r, rs = [r] ∧ r.op = 10 ∧ RecordOf r (off k) n ∧ (n = 4 → r.width = 0) ∧ (n = 8 → r.width = 1) ∧
      (n = 1 ∨ n = 2 → r.width = 3)
  | .amo op w o k _ v x _ => ∃ r, rs = [r] ∧ r.op = 11 ∧ RecordOf r (off k) (amoSize w) ∧
      r.width = widthCode w + 4 * memOpCode op + 64 * (o % 4) ∧ r.data = v.toNat + x.toNat * 2 ^ 64
  | .store cells => (rs.map (·.target)).Pairwise (· < ·) ∧ (∀ b, b ∈ rs.map (·.target) ↔ ∃ x ∈ cells, b = off x.1 / 32 * 32) ∧
      ∀ r ∈ rs, r.op = 0 ∧ ∀ j < 32, (r.mask.testBit j = true ↔ ∃ x ∈ cells, off x.1 = r.target + j) ∧
        ∀ x, cells.reverse.find? (fun x => off x.1 == r.target + j) = some x → r.data / 2 ^ (8 * j) % 256 = x.2.toNat
  | .vload .. | .evsig .. | .packet .. => True

/-- The record of ORPHAN_WRITE after one more orphan (R352). -/
def orphaned (s : State) (m : Msg) (c : Nat) : Orphan :=
  match (s.coreAt c).pending.orphan with
  | some o => { o with count := min 0xFFFF (o.count + 1) }
  | none =>
    { addr := match m.body with
        | .arrive b _ | .expect b _ _ _ | .subtract b _ | .phase b _ => BitVec.ofNat 64 b
        | body => addrOfKey body.firstKey
      info := BitVec.ofNat 64 (m.sender.cid % 2 ^ 16 + m.sender.core % 2 ^ 16 * 2 ^ 16 + m.body.op % 16 * 2 ^ 32), count := 1 }

/-- The strand that a message came from has the answer: its BEXP's reply, or a poisoned value on its way to a register, where it waits for
one; no other strand changes (R290, R352). -/
def Refusal (s t : State) (m : Msg) (discarded : Bool) : Prop :=
  let u := s.strandAt (senderKey m)
  let answers := fun (P : Strand → Prop) => P (t.strandAt (senderKey m)) ∧ ∀ k, k ≠ senderKey m → t.strandAt k = s.strandAt k
  match m.body with
  | .expect b _ _ (some _) => ∀ d a, AtSender s m → u.cond = .bexp d a none → answers fun x => x = { u with
      cond := .bexp d a (some (if discarded then .discarded else .phase (s.barrierOf m.sender.core b).phase)) }
  | .load k _ _ r false => AtSender s m → r ≠ 0 → u.cond ≠ .acquire r → u.mark r = .waiting .load →
      answers fun x => ∃ v, x = u.setMark r (.landing .load v (some (addrOfKey k)))
  | .amo _ _ _ _ va _ _ r => AtSender s m → r ≠ 0 → u.cond ≠ .acquire r → u.mark r = .waiting .load →
      answers fun x => ∃ v, x = u.setMark r (.landing .load v (some va))
  | .load .. => True
  | _ => t.strands = s.strands

/-- R347 to R352, R355: a message to a core where no context of its partition is resident.  During the merge of one it is held.  One that
an entry of the diversion table covers is appended to the entry's shadow image, a load or AMO staying in the network until its record
is replayed; where its records do not fit it is refused, and the first refusal sets FULL and raises DIVERSION_FULL.  One that no entry
covers is discarded and counted as an orphan; it counts as acknowledged, and its answer is poisoned, or a refusal. -/
def DivertedMessages : Prop :=
  ∀ (s : State) (i : Nat) (m : Msg) (refused : Bool) (c : Nat), Arrives s i m refused → m.home = some c →
    (∀ k n, m.body ≠ .vload k n) → (∀ l v x, m.body ≠ .evsig l v x) → (∀ a b x y, m.body ≠ .packet a b x y) →
    (∀ k n x r y, m.body = .load k n x r y → 0 < n) →
    let core := s.coreAt c
    let event := arrivalOf m refused i
    let mine := m.sender.part = some core.part ∧ core.resident = true
    let reads := (∃ k n x r y, m.body = .load k n x r y) ∨ ∃ op w o k va v x r, m.body = .amo op w o k va v x r
    let asks := reads ∨ ∃ b n x r, m.body = .expect b n x (some r)
    (asks → AtSender s m ∨ m.sender.dead = true) →
    (mine → core.merging = true →
      exec event s = .next { s with net := s.net.eraseIdx i ++ [{ m with refused := false, held := true }] }) ∧
    (¬mine → ∀ e, MatchedBy core.divtab m c e → ∃ rs, RecordsOf m c rs ∧
      (e.used + rs.length ≤ e.size →
        let u := { s with net := s.net.eraseIdx i }.appendRecords c e rs
        (reads → exec event s = .next { u with net := s.net.set i { m with refused := false, diverted := true } }) ∧
        (¬reads → ∃ t, exec event s = .next t ∧ Refusal u t m false ∧ SameCores u t ∧
          t = { u with acks := (Answered s i m).acks, strands := t.strands, traffic := t.traffic, sent := t.sent, cores := t.cores,
                       fresh := t.fresh })) ∧
      (e.size < e.used + rs.length →
        let stays := { s with net := s.net.set i { m with refused := true } }
        (e.full = true → exec event s = .next stays) ∧
        (e.full = false →
          let u := stays.keepDivEntry c { e with full := true }
          let d := u.coreAt c
          let raised : Word × Word := (BitVec.ofNat 64 e.shadow, BitVec.ofNat 64 (e.index % 32 + e.cid % 2 ^ 16 * 2 ^ 16))
          exec event s = .next (u.setCore c { d with pending := { d.pending with divFull := d.pending.divFull ++ [raised] } })))) ∧
    (¬mine → (∀ e ∈ core.divtab, ¬Covers e m c) → ∃ t, exec event s = .next t ∧ Refusal s t m true ∧
      (t.coreAt c).pending = { core.pending with orphan := some (orphaned s m c) } ∧
      SameCores (s.setCore c { core with pending := (t.coreAt c).pending }) t ∧
      t = { Answered s i m with strands := t.strands, traffic := t.traffic, sent := t.sent, cores := t.cores, fresh := t.fresh })

/-- R349, R350: how records are appended: each at USED of its entry with the core's next sequence number, in its 64 bytes; an entry that
changes has its FULL and USED written back. -/
def ShadowImages : Prop :=
  ∀ (s : State) (c : Nat) (e : DivEntry),
    let core := s.coreAt c
    s.appendRecords c e [] = s ∧
    (∀ (r : ShadowRec) (rs : List ShadowRec) (k : Nat), locateHbm 0 (e.shadow + 64 * e.used) = some k →
      let next := { e with used := e.used + 1 }
      let bytes := bytesOf 8 core.arrival ++ bytesOf 4 r.target ++ bytesOf 2 r.src ++ bytesOf 1 r.op ++ bytesOf 1 r.width ++
        bytesOf 4 r.mask ++ bytesOf 4 r.tag ++ bytesOf 8 r.value ++ bytesOf 32 r.data
      s.appendRecords c e (r :: rs) =
        ((((s.writeBytes k bytes).setCore c { core with arrival := core.arrival + 1 }).keepDivEntry c next).appendRecords c next rs)) ∧
    (e.kind ≠ 0 → s.keepDivEntry c e =
      (((s.setCore c { core with divtab := core.divtab.map fun x => if x.index = e.index then e else x }).writePa (e.addr + 3) 1
        (if e.full then 1 else 0)).writePa (e.addr + 28) 4 e.used)) ∧
    (∀ cid kind, let xs := s.recordsOf c cid kind
      (xs.map (·.1)).Pairwise (· ≤ ·) ∧
      (∀ x, x ∈ xs ↔ ∃ y ∈ core.divtab, y.kind = kind ∧ y.cid = cid ∧ ∃ j < y.used, ∃ k, locateHbm 0 (y.shadow + 64 * j) = some k ∧
        x = (s.readMem k 8, s.shadowAt k, y.part)) ∧
      s.replayAll c cid kind = xs.foldl (fun s x => s.replay c x.2.2 x.2.1) s)

/-- R350, R352, R355: what replaying a record does: a store writes its bytes, the records of barriers are applied at the core's own
barriers, a load that waits in the network is answered, and a record whose bytes lie past the carve is an orphan.  At the end of the merge
the entries of the context are empty. -/
def Replays : Prop :=
  ∀ (s : State) (c part : Nat) (r : ShadowRec),
    let own := s.barrierHome c r.target = c
    let key := fun (j : Nat) => scratchKey c (r.target + j)
    (r.op = 0 → r.target + 32 ≤ s.carveSize c → ∃ t, s.replay c part r = t ∧
      t = { s with mem := t.mem, poisoned := t.poisoned, l1 := t.l1, rdc := t.rdc, slices := t.slices } ∧
      (∀ j < 32, t.byteAt (key j) = if r.mask.testBit j then BitVec.ofNat 8 (r.data / 2 ^ (8 * j)) else s.byteAt (key j)) ∧
      (∀ a, (∀ j < 32, a ≠ key j) → t.byteAt a = s.byteAt a)) ∧
    (r.op ≤ 5 → s.carveSize c ≤ r.target → ∃ t, s.replay c part r = t ∧ t = { s with cores := t.cores } ∧
      ∃ o, (t.coreAt c).pending.orphan = some o) ∧
    (own → (r.op = 6 → s.replay c part r = s.arriveAt c r.target r.value) ∧
      (r.op = 7 → s.replay c part r = match s.expectAt c r.target r.value false with
        | (t, some _) => t
        | (t, none) => t.setBarrier c r.target { t.barrierOf c r.target with err := true }) ∧
      (r.op = 8 → s.replay c part r = s.subtractAt c r.target r.value)) ∧
    (r.op = 9 → s.replay c part r = s.setBarrier c r.target { s.barrierOf c r.target with phase := decide (r.value % 2 = 1) }) ∧
    (∀ i m k n sg x, r.op = 10 → s.divertedOf c part r = some i → s.net[i]? = some m → m.body = .load k n sg x false →
      (r.toMsg c part).body = .load k n sg x false → 0 < n → AtSender s m → x ≠ 0 →
      (s.strandAt (senderKey m)).cond ≠ .acquire x → (s.strandAt (senderKey m)).mark x = .waiting .load →
      (∀ j < 32, r.mask.testBit j = true → r.target + j < s.carveSize c) → s.carveHas c k n = true →
      let poison := if s.isPoisoned k n then some (addrOfKey k) else none
      (s.replay c part r).net = s.net.eraseIdx i ∧ (s.replay c part r).mem = s.mem ∧
      (s.replay c part r).strandAt (senderKey m) =
        (s.strandAt (senderKey m)).setMark x (.landing .load (extended n sg (s.readMem k n)) poison)) ∧
    ((∀ m ∈ s.net, m.held = false) → ∀ e ∈ ((s.finishMerge c).coreAt c).divtab,
      e.cid = (s.coreAt c).csrs.cidtag.toNat % 65536 → e.kind ≠ 0 → e.used = 0 ∧ e.full = false)

/-! ## Ports and monitors -/

/-- The mesh and skip channels whose counts a monitor compares, and whether the greatest is at least `n`/4 of the mean (R361). -/
def Uneven (m : Monitor) (n : Nat) : Prop :=
  let xs := (m.counts.filter fun c => inDie c.1).map (·.2)
  0 < xs.sum ∧ n * xs.sum ≤ 4 * dieChannels * xs.foldl max 0

/-- R361, R364, R365, R367: the injection of a slotted message; which partitions are idle at a port, what a charge does to a bucket, and
the refill of the ports; and the end of a monitor's window.  A partition that was made since the last refill has not been found full. -/
def PortEvents : Prop :=
  ∀ (s : State),
    (∀ (core i : Nat) (x : Slotted), (s.coreAt core).slotPend[i]? = some x → x.slot < 4 → x.serial = none →
      let c := s.coreAt core
      let now := c.slotsAt s.gtime
      let k := core * 4 + x.slot
      let t := s.strandAt k
      (∀ j < i, ∀ y, c.slotPend[j]? = some y → y.serial ≠ none) →
      (slotOwned now s.gtime = true ∨ now.slotper.getLsbD 16 = false) → s.mayBegin s.packets x.msg = true →
      (s.net.filter fun m => m.slotted && m.sender.core == core).length < 16 → t.usc < 1024 →
      ∃ (u : State) (m : Msg), exec (.slottedInjection core) s = .next u ∧
        u.net = s.net ++ [m] ∧ u.sent = s.sent + 1 ∧ u.mem = s.mem ∧ m.body = x.msg.body ∧ m.serial = s.sent ∧ m.atPort = false ∧
        (∀ j, j ≠ k → u.strandAt j = s.strandAt j) ∧
        let more := ∃ j ≠ i, ∃ y, c.slotPend[j]? = some y ∧ y.slot = x.slot ∧ y.serial = none
        let ended := match x.settled with
          | none => { t with usc := t.usc + 1 }
          | some (e, f) => { t with usc := t.usc + 1, estart := e, fmask := f, vl := x.trim.getD t.vl }
        (more → { u.strandAt k with timer := none } = { t with usc := t.usc + 1, timer := none }) ∧
        (¬more → (u.coreAt core).slotPend = (c.slotPend.filter (·.slot != x.slot)) ∧
          u.strandAt k = match x.fault with
            | none => { ended with pc := t.pc + 4, cond := .ready, slotTie := none, timer := none, awaits := {} }
            | some (code, addr, info) => ended.enter c { code := code, addr := addr, info := info } t.pc)) ∧
    (∀ c p,
      let b := s.bucketAt c p
      (s.idleAt c p = true ↔ (∀ m ∈ s.packets, ¬(m.atPort = true ∧ m.source = c ∧ m.charged = some p)) ∧
        (s.presentAt c p = false ∨ (b.level = b.capacity ∧ (b.fullOnce = true ∨ b.idle = true)))) ∧
      (∀ n, (s.chargeBucket c p n).bucketAt c p = { b with level := b.level - n, idle := false, fullOnce := false }) ∧
      (Tab.get none ((s.coreAt c).buckets.map fun x => (x.1, some x.2)) p = none →
        b = { level := s.baseRefill p, capacity := s.baseRefill p, fullOnce := decide ((s.partAt p).born < s.refilled) })) ∧
    (s.refilled + 1024 ≤ s.gtime → (∀ m ∈ s.packets, m.atPort = false) → (s.cores.map (·.1)).Nodup →
      ∃ t, exec .shareRefill s = .next t ∧ t = { s with refilled := s.refilled + 1024, cores := t.cores } ∧
        (∀ c, c ∉ s.cores.map (·.1) → t.coreAt c = s.coreAt c) ∧
        (∀ c p, c ∈ s.cores.map (·.1) → p ∈ s.made →
          let q := 1024 * (s.partAt p).weight / s.weightSum
          let active := s.made.filter fun p => !s.idleAt c p
          let spare := ((s.made.filter (s.idleAt c)).map fun p => 1024 * (s.partAt p).weight / s.weightSum).sum
          let amount := q + spare * (s.partAt p).weight / (active.map fun p => (s.partAt p).weight).sum
          let b := s.bucketAt c p
          (t.bucketAt c p).idle = s.idleAt c p ∧ ((t.bucketAt c p).fullOnce = true ↔ s.idleAt c p = true ∨ b.level = b.capacity) ∧
          (s.idleAt c p = true → (t.bucketAt c p).level = q ∧ (t.bucketAt c p).capacity = q) ∧
          (s.idleAt c p = false → (t.bucketAt c p).level = min (b.level + amount) amount ∧
            (t.bucketAt c p).capacity = amount))) ∧
    (s.gtime < s.refilled + 1024 → exec .shareRefill s = .next s) ∧
    (∀ die, (s.monitorAt die).began + 4096 ≤ s.gtime → ∃ x : Monitor,
      exec (.loadMonitorWindow die) s = .next (s.setMonitor die x) ∧
        x.began = (s.monitorAt die).began + 4096 ∧ x.counts = [] ∧
        (Uneven (s.monitorAt die) 8 → x.twoPhase = true) ∧
        (¬Uneven (s.monitorAt die) 5 → x.calm = min ((s.monitorAt die).calm + 1) 4) ∧
        (Uneven (s.monitorAt die) 5 → x.calm = 0) ∧
        (¬Uneven (s.monitorAt die) 8 → x.twoPhase = ((s.monitorAt die).twoPhase && decide (x.calm < 4))))

/-! ## Events of cores -/

/-- The record of a pending event, and what stays pending: the lowest code goes first (R330, R331, R351, R352, R357, R395). -/
def FirstPending (p rest : Pending) (e : Exc) : Prop :=
  (∃ o, p.orphan = some o ∧
    e = { code := 0x10, int := true, addr := o.addr, info := o.info + BitVec.ofNat 64 (o.count % 2 ^ 16 * 2 ^ 48) } ∧
    rest = { p with orphan := none }) ∨
  (∃ x xs, p.orphan = none ∧ p.divFull = x :: xs ∧ e = { code := 0x12, int := true, addr := x.1, info := x.2 } ∧
    rest = { p with divFull := xs }) ∨
  (∃ t, p.orphan = none ∧ p.divFull = [] ∧ p.timer = some t ∧ e = { code := 0x40, int := true, info := t } ∧
    rest = { p with timer := none }) ∨
  (∃ m, p.orphan = none ∧ p.divFull = [] ∧ p.timer = none ∧ p.mail = some m ∧
    e = { code := if m.fromHost then 0x41 else 0x42, int := true,
          info := BitVec.ofNat 64 (m.value.toNat % 2 ^ 32 + m.sender % 2 ^ 16 * 2 ^ 32 + if m.lost then 2 ^ 48 else 0) } ∧
    rest = { p with mail := none })

/-- The strand is open to events (R330). -/
def OpenTo (t : Strand) : Prop := t.mode = .user ∨ (t.mode = .supervisor ∧ t.sstatus.getLsbD 4 = true)

/-- The core is clocked (R401, R402). -/
def Clocked (s : State) (core : Nat) : Prop :=
  (s.power = .active ∧ (isChiplet core = true ∨ s.secState ≠ .faultLocked ∧ (s.clusterAt (clusterOf core)).gated = false)) ∨
    (s.power = .retention ∧ core = 1024)

/-- A core of the module where a strand may take an event now: it is clocked, does not merge, and has no failed mill command (R194,
R330, R355, R401). -/
def Takes (s : State) (core : Nat) : Prop := Clocked s core ∧ (s.coreAt core).merging = false ∧ (s.coreAt core).halt = none

/-- A debugger at the intrusive level reaches the core (R402). -/
def Reached (s : State) (core : Nat) : Prop := s.dbg = 2 ∧ s.power = .active ∧ Clocked s core

/-- A set of strands without those of a core that are in `lease` or `slotted` waits: its core keeps no request of theirs (R195,
R367). -/
def Undisturbed (s : State) (core : Nat) : Prop := (s.coreAt core).leases = [] ∧ (s.coreAt core).slotPend = []

/-- R317, R330, R357, R401 to R404: TIMER, which reports the tick that it was set for; the taking of a pending event; what a debugger
does, at the intrusive level alone; a tamper event, which ends the compute cores' strands (log entry 41); and supply sags, the end of
which ends a stretched cycle.  A supervisor strand starts with PM 0 (log entry 36). -/
def CoreEvents : Prop :=
  ∀ (s : State) (core k : Nat),
    let c := s.coreAt core
    (let due := Clocked s core ∧ c.switchat ≠ BitVec.allOnes 64 ∧ c.switchat.toNat ≤ s.gtime ∧ c.nextcid.getLsbD 63 = true
     (due → exec (.timer core) s = .next (s.setCore core { c with
        switchat := BitVec.allOnes 64, pending := { c.pending with timer := some c.switchat } })) ∧
     (¬due → exec (.timer core) s = .next s)) ∧
    (∀ e rest, Takes s core → FirstPending c.pending rest e →
      (∀ i < 4, (∀ j < i, (s.strandAt (core * 4 + j)).kind = .none ∨ ¬OpenTo (s.strandAt (core * 4 + j))) →
        let u := s.strandAt (core * 4 + i)
        u.kind ≠ .none → OpenTo u → u.cond.between = true → Undisturbed s core → ∃ x : Word,
        StatusTaken u.sstatus x (decide (u.mode = .supervisor)) ∧ ∃ t, exec (.asyncEventTake core) s = .next t ∧
          t.coreAt core = { c with pending := rest } ∧
          t.strandAt (core * 4 + i) = { u with
            sepc := base4 u.pc, scause := BitVec.ofBool e.int ++ BitVec.ofNat 63 e.code, saddr := e.addr, sinfo := e.info,
            sstatus := x, mode := .supervisor, pc := base4 c.stvec, cond := .ready, slotTie := none, timer := none, awaits := {},
            age := 0 } ∧
          t = { s with strands := t.strands, cores := t.cores }) ∧
      ((∀ i < 4, (s.strandAt (core * 4 + i)).kind = .none) → core < 1024 →
        ∃ t, exec (.asyncEventTake core) s = .next t ∧ t.coreAt core = { c with pending := rest } ∧
          let cause := BitVec.ofBool e.int ++ BitVec.ofNat 63 e.code
          t.strandAt (core * 4) = { kind := .supervisor, mode := .supervisor, pc := base4 c.stvec, scause := cause,
                                    saddr := e.addr, sinfo := e.info })) ∧
    (let u := s.strandAt k
     let d := s.coreAt (k / 4)
     (Reached s (k / 4) → u.kind ≠ .none → u.cond.between = true → Undisturbed s (k / 4) →
       (d.switchat = BitVec.allOnes 64 ∨ s.gtime < d.switchat.toNat ∨ d.nextcid.getLsbD 63 = true) →
       ∃ t, exec (.debugHalt (.halt k)) s = .next t ∧ t.coreAt (k / 4) = d ∧ t.strandAt k = { u with
         fstatus := BitVec.ofNat 64 u.mode.code, fepc := u.pc, fcause := 0x18, mode := .firmware, pc := base4 d.ftvec,
         cond := .halted, slotTie := none, timer := none, awaits := {}, age := 0 } ∧
         t = { s with strands := t.strands, cores := t.cores }) ∧
     (Reached s (k / 4) → u.cond = .halted → ∀ (r : Reg) (m : MaskReg) (x : Word) (y : VWord) (z : MWord),
       exec (.debugHalt (.writeG k r x)) s = .next (s.setStrand k (u.writeG r x)) ∧
       exec (.debugHalt (.writeF k r x)) s = .next (s.setStrand k (u.writeF r x)) ∧
       exec (.debugHalt (.writeV k r y)) s = .next (s.setStrand k (u.writeV r y)) ∧
       exec (.debugHalt (.writeM k m z)) s = .next (s.setStrand k (u.writeM m z)) ∧
       exec (.debugHalt (.writePc k x)) s = .next (s.setStrand k { u with fepc := x })) ∧
     (∀ pa key b, Reached s 1024 → locateHbm 0 pa = some key → exec (.debugHalt (.writeMem pa b)) s = .next (s.writeByte key b)) ∧
     (∀ (r : Reg) (m : MaskReg) (x : Word) (y : VWord) (z : MWord), ∀ act ∈ [DebugAct.halt k, .writeG k r x, .writeF k r x,
         .writeV k r y, .writeM k m z, .writePc k x], ¬Reached s (k / 4) → exec (.debugHalt act) s = .next s) ∧
     (∀ pa b, ¬Reached s 1024 → exec (.debugHalt (.writeMem pa b)) s = .next s)) ∧
    (∃ t, exec (.tamper k) s = .next t ∧ t.secState = .faultLocked ∧ t.dbg = 0 ∧ t.grant = none ∧
      t.power = (if s.power = .off then .off else .active) ∧
      (∀ j < 4096, t.strandAt j = Strand.blank) ∧
      (4096 ≤ k → (s.strandAt k).kind ≠ .none → (t.strandAt k).mode = .firmware ∧ (t.strandAt k).fepc = (s.strandAt k).pc ∧
        (t.strandAt k).pc = base4 (s.coreAt (k / 4)).ftvec)) ∧
    (∀ n, exec (.supplySag n) s = .next (s.setCluster n { s.clusterAt n with sag := true }) ∧
      exec (.supplySagEnd n) s = .next (s.setCluster n { s.clusterAt n with
        sag := false, late := false, stretch := (s.clusterAt n).stretch + if (s.clusterAt n).late then 1 else 0 }))

/-- The strand that an image holds, as it is restored under a ceiling where the core keeps nothing of its own for it (R342 to R344,
R354): its pc, its registers and marks, its user and supervisor CSRs, and its place in a gang. -/
def RestoredFrom (s : State) (img ceil : Nat) (state : SlotState) (t : Strand) : Prop :=
  let w := fun off => s.imageWord (img + off)
  let csr := fun n => w (0x800 + 8 * n)
  t.pc = base4 (w 0) ∧ t.mode.code = min 2 ((w 8).toNat % 4) ∧ t.kind = (if state = .gangOccupied then .gang else .seed) ∧
  t.cond = .ready ∧ t.usc = (csr 0x004).toNat % 2048 ∧ t.prio = min ((csr 0x024).toNat % 16) ceil ∧
  t.adopted = (if (csr 0x018).getLsbD 63 then none else some ((csr 0x018).setWidth 32)) ∧
  t.gang = (csr 0x022).toNat % 2 ^ 16 ∧ t.member = (csr 0x022).toNat / 2 ^ 16 % 64 ∧ t.sizem1 = (csr 0x022).toNat / 2 ^ 24 % 64 ∧
  (∀ i : Fin 32, (0 < i.val → t.g[i] = w (0x100 + 8 * i)) ∧ t.f[i] = w (0x200 + 8 * i) ∧
    t.v[i] = BitVec.ofNat 8192 (s.imageNum (img + 0x8000 + 1024 * i) 1024)) ∧
  (∀ i : Fin 8, 0 < i.val → t.m[i] = BitVec.ofNat 1024 (s.imageNum (img + 0x300 + 128 * (i - 1)) 128)) ∧
  (∀ n ∈ strandCsrs.map (·.1) ++ [0x000, 0x001, 0x008, 0x009, 0x00A, 0x00B, 0x00C, 0x060] ++ (List.range 16).map (0x040 + ·),
    t.readUser n = (({} : Strand).writeUser n (csr n)).readUser n) ∧
  t.sepc = base4 (w 0x1010) ∧ t.scause = w 0x1018 &&& 0x80000000000000FF ∧ t.saddr = w 0x1020 ∧ t.sinfo = w 0x1028 ∧
  t.sstatus = w 0x1000 &&& 0x130 ∧
  (∀ i : Fin 32, 0 < i.val →
    let bit := fun off => (s.readPa (img + off) 8).testBit i
    (bit 0x10 = true → t.marks[i] = .waiting .load) ∧
    (bit 0x10 = false → bit 0x18 = true → ∃ a, t.marks[i] = .poison a) ∧
    (bit 0x10 = false → bit 0x18 = false → bit 0x20 = true → ∃ a x, t.marks[i] = .tokenFault a x) ∧
    (bit 0x10 = false → bit 0x18 = false → bit 0x20 = false → t.marks[i] = .clear))

/-- What a core holds of the context of a husk whose VALID is 1, after it has been restored from it (R342, R343, R355): its CSRs, its
slots and their strands, its barriers and domains, and its carve. -/
def Restored (s t : State) (core husk cid : Nat) : Prop :=
  let c := t.coreAt core
  let word := fun off => s.imageWord (husk + off)
  c.csrs.cidtag = BitVec.ofNat 64 cid ∧
  (∀ n ∈ contextCsrs, n ≠ 0x111 →
    c.csrs.read n = (({} : CtxCsrs).write n (word (0x40 + 8 * (n - 0x100)))).read n) ∧
  (∀ i : Fin 4, c.slots[i] = { state := SlotState.ofCode (s.readPa (husk + 0x300 + 8 * i) 8), top := word (0x320 + 8 * i),
                               tsavea := s.imageWord (imageAddr husk i + 0x10A0) &&& 0xFFFFFFFFFFFFF001 }) ∧
  (∀ b < 2048, t.barrierOf core b = Barrier.ofWords (word (0x8000 + 16 * b)) (word (0x8008 + 16 * b))) ∧
  (∀ j < 64, let n := s.readPa (husk + 0x20000 + 4096 * j) 2
    (Tab.get [] c.domains j).length = min n 1024 ∧
    ∀ i < min n 1024, (Tab.get [] c.domains j).getD i 0 = s.readPa (husk + 0x20002 + 4096 * j + 2 * i) 2) ∧
  (∀ o < 2 ^ 20, t.byteAt (scratchKey core o) =
    if o < c.csrs.spadways.toNat % 32 * 65536 then ((locateHbm 0 (husk + 0xA0000 + o)).map s.byteAt).getD 0 else 0)

/-- R340 to R345, R353, R355, R417: a span switch is made at its tick; the context that leaves is kept with its husk, and a core that it
leaves idle is at its idle set; a husk whose VALID is 0 comes in as a context of its partition with nothing in it (its PTIMERLIM is 0,
which is the model's reading: log entry 40), and one whose VALID is 1 is restored from its images; faults in its log start a supervisor
strand, and the core merges until it ends; a switch that is not due changes nothing, nor does one that comes while an issued instruction
of the context awaits its answer (log entry 34). -/
def SpanSwitches : Prop :=
  ∀ (s : State) (core : Nat),
    let c := s.coreAt core
    let due := Clocked s core ∧ core < 1024 ∧ c.switchat ≠ BitVec.allOnes 64 ∧ c.switchat.toNat ≤ s.gtime ∧
      c.nextcid.getLsbD 63 = false ∧ c.merging = false
    let answered := ∀ i < 4, (s.contextStrand core i).cond.awaitsAnswer = false
    (¬due ∨ ¬answered → exec (.spanSwitch core) s = .next s) ∧
    (due → answered → (∀ d ∈ c.departed, d.isIdle = false) → c.nextcid.toNat % 65536 = 0 →
      (c.resident = false → ∃ t, exec (.spanSwitch core) s = .next t ∧
        t.coreAt core = { c with switchat := BitVec.allOnes 64, idleCsrs := c.csrs, csrs := { c.csrs with cidtag := 0 } } ∧
        t = { s with cores := t.cores }) ∧
      (c.resident = true → c.leases = [] → c.part < 128 → (∀ i < 4, (s.strandAt (core * 4 + i)).kind ≠ .supervisor ∧
          (s.strandAt (core * 4 + i)).cond ≠ .stalled ∧ (s.strandAt (core * 4 + i)).cond ≠ .slotted ∧
          (s.strandAt (core * 4 + i)).timer = none) →
        ∃ t, exec (.spanSwitch core) s = .next t ∧
          (∀ i < 4, t.strandAt (core * 4 + i) = Strand.blank) ∧
          (∀ k, k / 4 ≠ core → t.strandAt k = s.strandAt k) ∧ (∀ k, k ≠ core → t.coreAt k = s.coreAt k) ∧
          (t.coreAt core).resident = false ∧ (t.coreAt core).csrs = { c.idleCsrs with cidtag := 0 } ∧
          (t.coreAt core).switchat = BitVec.allOnes 64 ∧ (t.coreAt core).slots = Vector.replicate 4 {} ∧
          (t.coreAt core).barriers = [] ∧ (t.coreAt core).domains = [] ∧ (t.coreAt core).queues = #v[[], [], []] ∧
          (t.coreAt core).q3 = c.q3.filter (·.part.isNone) ∧ (∃ d ∈ (t.coreAt core).departed, d.husk = c.husk ∧ d.part = c.part ∧
            d.cid = c.csrs.cidtag.toNat % 65536 ∧ d.queues = c.queues ∧ d.qseq = c.qseq ∧
            d.q3 = c.q3.filter (·.part.isSome) ∧ d.ptbase = c.csrs.ptbase ∧ d.ways = c.csrs.spadways.toNat % 32))) ∧
    (let n := c.nextcid.toNat % 65536
     let husk := c.nextcid.toNat / 65536 % 2 ^ 36 * 65536
     let head := s.readPa husk 8
     let log := (s.imageWord (husk + 0x4000)).toNat
     let part := head / 2 ^ 24 % 128
     due → answered → n ≠ 0 →
       c.resident = false → c.departed = [] → c.divtab = [] → (∀ m ∈ s.packets, m.held = false ∧ m.atPort = false) →
       (∀ i < 4, (s.strandAt (core * 4 + i)).kind ≠ .supervisor) →
       ∃ t, exec (.spanSwitch core) s = .next t ∧ (t.coreAt core).resident = true ∧
         (t.coreAt core).part = part ∧ (t.coreAt core).husk = husk ∧
         (t.coreAt core).idleCsrs = c.csrs ∧ (t.coreAt core).switchat = BitVec.allOnes 64 ∧
         (∀ k, k / 4 ≠ core → t.strandAt k = s.strandAt k) ∧ (∀ k, k ≠ core → t.coreAt k = s.coreAt k) ∧
         (head.testBit 16 = false →
           (t.coreAt core).merging = false ∧ (t.coreAt core).csrs = { cidtag := BitVec.ofNat 64 n, ptimerlim := 0 } ∧
           (t.coreAt core).slots = Vector.replicate 4 {} ∧ (∀ k, t.strandAt k = s.strandAt k) ∧
           (∀ o < 2 ^ 20, t.byteAt (scratchKey core o) = 0)) ∧
         (head.testBit 16 = true →
           Restored s t core husk n ∧ (t.partAt part).alloctrap = s.imageWord (husk + 0x2C0) &&& 1 ∧
           (t.partAt part).heapbase = s.imageWord (husk + 0x2C8) &&& 0xFFFFFFFFFFFFFF81 ∧
           let ceil := (t.coreAt core).csrs.prioceil.toNat % 16
           let state := fun (i : Nat) => ((t.coreAt core).slots.toList.getD i {}).state
           let taken := fun (i : Nat) => state i = .gangOccupied ∨ state i = .seedOccupied
           let restored := fun (i : Nat) (u : Strand) => RestoredFrom s (imageAddr husk i) ceil (state i) u
           let stands := fun (i : Nat) =>
             let u := t.strandAt (core * 4 + i)
             (taken i → restored i u) ∧ (¬taken i → u = s.strandAt (core * 4 + i))
           (∀ i < 4, 0 < i → stands i) ∧
           (log % 512 = 0 → (t.coreAt core).merging = false ∧ stands 0) ∧
           (log % 512 ≠ 0 → (t.coreAt core).merging = true ∧
             (taken 0 → ∃ u, (t.coreAt core).waiting0 = some u ∧ restored 0 u) ∧
             t.strandAt (core * 4) = { kind := .supervisor, mode := .supervisor, pc := base4 c.stvec, scause := 0x11,
                                       saddr := BitVec.ofNat 64 (husk + 0x4000), sinfo := s.imageWord (husk + 0x4000) })))

/-- R212 to R214, R367: the element-progress timer changes nothing where it is disabled, where its strand waits at no vector memory
instruction or string form, before its count has come to the limit, and where the event names another element or port than the strand
waits at; where it stops an instruction, what could be performed is, and PROGRESS is raised; a slotted instruction leaves its injected
messages standing, and ESTART names its first element that is not performed, or FMASK all of them in an indexed form.  That the event
names the element and the port is the model's form of it (log entry 33). -/
def ProgressTimer : Prop :=
  ∀ (s : State) (k elem kind port : Nat),
    let t := s.strandAt k
    let c := s.coreAt (k / 4)
    let named := s.awaited k = (elem, kind, port)
    let event := Instr.elementProgressTimer k elem kind port
    let limit := c.csrs.ptimerlim.toNat % 2 ^ 32
    let expired := ∃ x, t.timer = some x ∧ x.since + limit ≤ s.cyclesOf (k / 4)
    let waits := t.cond = .stalled ∨ t.cond = .slotted
    (limit = 0 ∨ ¬waits ∨ ¬expired ∨ ¬named → exec event s = .next s) ∧
    (t.cond = .stalled → s.awaited k = (t.awaits.elem, t.awaits.kind, t.awaits.port)) ∧
    (∀ (w : IWord) (x : VmemForm) (s1 s2 : State) (e : Exc), limit ≠ 0 → expired → named → t.cond = .stalled →
      Yields M.fetch { s with cur := k } w s1 → vmemForm w = some x → s1.me.busy x.gs = false → s1.me.vbusy x.vs = false →
      Traps (M.timed (x.work true)) s1 e s2 →
      exec event s = .next { s2.take e s2.me.pc with cur := s.cur }) ∧
    (limit ≠ 0 → expired → named → t.cond = .slotted → ∃ u, exec event s = .next u ∧ u.mem = s.mem ∧ u.net = s.net ∧
      (u.coreAt (k / 4)).slotPend = c.slotPend.filter (·.slot != k % 4) ∧
      ∀ x xs, c.slotPend.filter (·.slot == k % 4) = x :: xs →
        ((∀ y ∈ x :: xs, y.settled = none) →
          ∃ e : Exc, e.code = 0x09 ∧ u.strandAt k = t.enter c e t.pc) ∧
        (∀ (e0 j : Nat) (f0 : MWord) (y : Slotted) (va : Word), x.settled = some (e0, f0) → x.indexed = false → y ∈ x :: xs →
          s.unperformed y = true → (j, va) ∈ y.elems →
          (∀ z ∈ x :: xs, s.unperformed z = true → ∀ e ∈ z.elems, j ≤ e.1) →
          ∃ e : Exc, e.code = 0x09 ∧ u.strandAt k = { t with estart := j }.enter c e t.pc) ∧
        (∀ (e0 : Nat) (f0 : MWord), x.settled = some (e0, f0) → x.indexed = true → ∃ (e : Exc) (f : MWord), e.code = 0x09 ∧
          u.strandAt k = { t with estart := e0, fmask := f }.enter c e t.pc ∧
          ∀ i < 1024, (f.getLsbD i = true ↔ f0.getLsbD i = true ∨
            ∃ z ∈ x :: xs, s.unperformed z = true ∧ ∃ va, (i, va) ∈ z.elems)))

end Sys2Proof.Claims

/-- R92, R93, R203, R256, R272, R276, R277, R283, R287, R290, R296, R301: messages at their homes, and their answers. -/
def Sys2Proof.Claims.MessageEvents : Prop := WriteArrivals ∧ ReadArrivals ∧ UnitArrivals

/-- R290, R291, R295, R297, R299, R300: the events that wake a strand. -/
def Sys2Proof.Claims.WakeEvents : Prop := Wakes

/-- R92, R93, R203, R272, R276, R277, R287, R290, R291, R296, R301: messages at their homes and their answers, and the events that wake a
strand. -/
def Obligations.MessageAndWakeEvents : Prop := MessageEvents ∧ WakeEvents

/-- R347 to R352, R355: the messages for a context that is absent, their shadow records, and the replay of these. -/
def Obligations.AbsentMessages : Prop := DivertedMessages ∧ ShadowImages ∧ Replays

/-- R361, R364, R365, R367: the events of the network's ports and monitors. -/
def Obligations.NetworkEvents : Prop := PortEvents

/-- R212, R213, R330, R340, R341 to R345, R353, R355, R357, R402 to R404, R417: the events of a core: TIMER, the taking of a pending event, the debug halt,
a tamper event, supply sags, the span switch and the element-progress timer. -/
def Obligations.CoreEvents : Prop := Claims.CoreEvents ∧ SpanSwitches ∧ ProgressTimer

namespace Sys2Proof.Claims

/-! ## Hosts -/

/-- The module is active, and holds no write of a host (R401). -/
def Awake (s : State) : Prop := s.power = .active ∧ s.hostHeld = []

/-- The state with something sent to a host port. -/
def Sends (s : State) (p : Nat) (x : PortMsg) : State := s.setPort p { s.portAt p with sent := (s.portAt p).sent ++ [x] }

/-- The code of a host port as the owner of a semaphore cell, and its number (R394). -/
def hostCode (p : Nat) : BitVec 16 := BitVec.ofNat 16 (0xFFF0 + p)

/-- The host port is trained (R391). -/
def HostUp (s : State) (p : Nat) : Prop := p < 2 ∧ (s.portAt p).linkUp = true

/-- R313, R392: a record that reaches a seed window: it is queued, or counted as refused, in the window and in the scheduling block, and
so is a write of another size or alignment; a host reads the counts; what the windows refuse is an Unsupported Request. -/
def SeedWindows : Prop :=
  ∀ (s : State) (port p off : Nat) (bs : List Byte), Awake s → HostUp s port → p < 128 → off < 4096 →
    let part := s.partAt p
    let write := Instr.hostSeedWrite port (4096 * p + off) (.write bs)
    let refused := (s.setPart p { part with refused := part.refused + 1 }).countRefused p
    let record := bs.length = 64 ∧ off % 64 = 0 ∧ seedGood bs = true
    let x := seedOf bs (seedPrio bs) []
    (part.made = false → exec write s = .next s) ∧
    (part.made = true →
      (¬record → exec write s = .next refused) ∧
      (record → s.enqueueSeed p x = none → exec write s = .next refused) ∧
      (∀ t, record → s.enqueueSeed p x = some t →
        exec write s = .next (t.setPart p { t.partAt p with accepted := (t.partAt p).accepted + 1 }))) ∧
    exec (.hostSeedWrite port (4096 * p) (.read 8)) s = .next (Sends s port (.data
      (if part.made then BitVec.ofNat 64 (part.accepted % 2 ^ 32 * 2 ^ 32 + part.refused % 2 ^ 32) else 0))) ∧
    (∀ n, off ≠ 0 ∨ n ≠ 8 → exec (.hostSeedWrite port (4096 * p + off) (.read n)) s = .next (Sends s port .unsupported)) ∧
    (∀ o n, 0x89200 ≤ o → exec (.hostSeedWrite port o (.read n)) s = .next (Sends s port .unsupported) ∧
      exec (.hostSeedWrite port o (.write bs)) s = .next (Sends s port .unsupported))

/-- R392 to R395: a semaphore cell is taken where it is free and freed by its owner alone, and a message waits in its mailbox; a host
reaches them at their offsets in BAR0, and is refused at a cell or mailbox that does not exist. -/
def CellsAndMail : Prop :=
  ∀ (s : State) (agent : BitVec 16) (c core p : Nat) (v : Word), Awake s →
    let w := s.cellWord c
    let mine : Word := 1#1 ++ 0#47 ++ agent
    let taken := if w.getLsbD 63 then s else { s with cellsSem := Tab.set s.cellsSem c mine }
    let host := hostCode p
    let present := agent.toNat < 0xFFF0 ∨ ∃ p, HostUp s p ∧ agent = hostCode p
    let cell := 0x80000 + 64 * c
    let box := 0x81000 + 32 * core
    (c < 64 → agent.toNat < 0xFFF0 → exec (.semTake agent c) s = .next taken) ∧
    (c < 64 → HostUp s p → agent = host → exec (.semTake agent c) s = .next (Sends taken p (.data w)) ∧
      exec (.hostSeedWrite p cell (.read 8)) s = .next (Sends taken p (.data w)) ∧
      exec (.hostSeedWrite p (cell + 8) (.read 8)) s = .next (Sends s p (.data w)) ∧
      exec (.hostSeedWrite p cell (.write (bytesOf 8 v.toNat))) s = exec (.semRelease agent c v) s) ∧
    (64 ≤ c → HostUp s p → exec (.semTake host c) s = .next (Sends s p .unsupported) ∧
      exec (.semRelease host c v) s = .next (Sends s p .unsupported)) ∧
    (c < 64 → present → exec (.semRelease agent c v) s =
      .next (if v = 0 ∧ w = mine then { s with cellsSem := Tab.set s.cellsSem c 0 } else s)) ∧
    (core < 1040 → present →
      let x := s.coreAt core
      let host := decide (0xFFF0 ≤ agent.toNat)
      let mail : Mail := { value := v, sender := agent.toNat, fromHost := host, lost := x.pending.mail.isSome }
      exec (.mailboxWrite core agent v) s = .next (s.setCore core { x with pending := { x.pending with mail := some mail } })) ∧
    (core < 1040 → HostUp s p →
      exec (.hostSeedWrite p box (.write (bytesOf 8 v.toNat))) s = exec (.mailboxWrite core host v) s) ∧
    (1040 ≤ core → HostUp s p → exec (.mailboxWrite core host v) s = .next (Sends s p .unsupported)) ∧
    (∀ (o : Nat) (bs : List Byte), HostUp s p → 0x80000 ≤ o → bs.length ≠ 8 →
      exec (.hostSeedWrite p o (.write bs)) s = .next (Sends s p .unsupported))

/-- R293, R294: the barrier and line windows; a strand of no partition acts for the partition that is resident at the core (log entry
31). -/
def Windows : Prop :=
  ∀ (s : State) (core bar line : Nat) (v : Word), s.myCoreNo < 1040 →
    let n := v.toNat % 65536
    let part := (s.partitionOf s.cur).orElse fun _ => some (s.coreAt core).part
    (core < 1024 → bar < 2048 → n ≠ 0 → s.isHome core part = true → s.barrierHome core bar = core →
      let t := s.arriveAt core bar n
      exec (.barrierWindowArrive core bar v) s = .next { t with sent := t.sent + 1 }) ∧
    (core < 1024 → bar < 2048 → s.isHome core part = true → s.barrierHome core bar = core →
      let t := match s.expectAt core bar (v.toNat % 2 ^ 32) false with
        | (t, some _) => t
        | (t, none) => t.setBarrier core bar { t.barrierOf core bar with err := true }
      exec (.barrierWindowExpect core bar v) s = .next { t with sent := t.sent + 1 }) ∧
    (n = 0 → exec (.barrierWindowArrive core bar v) s = .next s) ∧
    (line < 2 ^ 22 → exec (.eventLineInit line v) s = .next (s.setLine line v)) ∧
    (line < 2 ^ 21 → ∃ x : Word, exec (.eventLineSignal line v) s = .next (s.setLine line x) ∧
      x.extractLsb' 32 32 = (s.lineWord line).extractLsb' 32 32 + 1 ∧ x.setWidth 32 = v.setWidth 32)

/-- R275, R391, R401: a host's reads and writes of its memory window, at a port that runs CXL; link training; an access that finds the
module in retention is held, and is performed when the module wakes; a port that is down brings nothing.  What an access past the end
of the window meets, and that a read is held as a write is, are the model's (log entry 31). -/
def HostMemory : Prop :=
  ∀ (s : State) (port off n : Nat) (bs : List Byte) (x : HostAccess),
    let key := fun (i : Nat) => locateHbm 0 (s.hdmBase + off + i)
    let reaches := HostUp s port ∧ (s.portAt port).cxl = true
    (Awake s → reaches → s.hdmSize < off + bs.length →
      exec (.hostHdmWrite port off (.write bs)) s = .next (Sends s port .unsupported)) ∧
    (Awake s → reaches → off + bs.length ≤ s.hdmSize → ∃ t, exec (.hostHdmWrite port off (.write bs)) s = .next t ∧
      t = { s with mem := t.mem, poisoned := t.poisoned, l1 := t.l1, rdc := t.rdc, slices := t.slices, rim := t.rim,
                   rimUses := t.rimUses, traffic := t.traffic, sent := t.sent } ∧
      (∀ i < bs.length, ∀ k, key i = some k → t.byteAt k = bs.getD i 0) ∧
      (∀ a, (∀ i < bs.length, key i ≠ some a) → t.byteAt a = s.byteAt a)) ∧
    (Awake s → reaches → s.hdmSize < off + n → exec (.hostHdmWrite port off (.read n)) s = .next (Sends s port .unsupported)) ∧
    (Awake s → reaches → off + n ≤ s.hdmSize → ∃ (t : State) (xs : List Byte) (bad : Bool),
      exec (.hostHdmWrite port off (.read n)) s = .next (Sends t port (.bytes xs bad)) ∧
      t = { s with slices := t.slices, rim := t.rim, rimUses := t.rimUses, traffic := t.traffic, sent := t.sent } ∧
      xs.length = n ∧ (∀ i < n, ∀ k, key i = some k → xs.getD i 0 = s.byteAt k) ∧
      (bad = true ↔ ∃ i < n, ∃ k, key i = some k ∧ k ∈ s.poisoned)) ∧
    (s.power = .retention →
      (reaches → exec (.hostHdmWrite port off x) s = .next { s with hostHeld := s.hostHeld ++ [.hdm port off x] }) ∧
      (HostUp s port → exec (.hostSeedWrite port off x) s = .next { s with hostHeld := s.hostHeld ++ [.bar port off x] }) ∧
      exec .powerWake s = .next (s.hostHeld.foldl State.performHost
        { s with power := .active, wakeAt := none, hostHeld := [] })) ∧
    (s.power = .off → exec .powerWake s = .next s ∧ exec (.hostHdmWrite port off x) s = .next s) ∧
    (¬HostUp s port → exec (.hostHdmWrite port off x) s = .next s ∧ exec (.hostSeedWrite port off x) s = .next s) ∧
    (port < 2 → s.power ≠ .off → ∃ x : Port, exec (.hostLinkTraining port) s = .next ({ s with fresh := s.fresh + 1 }.setPort port x) ∧
      x.spdm = (s.portAt port).spdm ∧ x.sent = (s.portAt port).sent ∧ x.width ∈ [1, 2, 4, 8, 16] ∧ 1 ≤ x.rate ∧ x.rate ≤ 6)

/-! ## SPDM -/

/-- The algorithms of a session are agreed (R400). -/
def agreedStates : List SpdmState := [.negotiated, .exchanging, .session]

/-- A measurement block, with its number: MEAS0 to MEAS3 are blocks 1 to 4, and SECSTAT is block 5 (R400). -/
def measured (s : State) (i : Nat) : List Byte :=
  bytesOf 1 i ++ (if i = 5 then bytesOf 8 s.secstat.toNat else bytesOf 64 (s.meas.toList.getD (i - 1) 0).toNat)

/-- All the blocks. -/
def allMeasured (s : State) : List Byte := measured s 1 ++ measured s 2 ++ measured s 3 ++ measured s 4 ++ measured s 5

/-- What a challenge is answered with, but for the signature: the digest of the certificate chain, the nonce and the blocks. -/
noncomputable def challengeBody (s : State) (nonce : BitVec 256) : List Byte :=
  bytesOf 64 (Config.sha3_512 (Config.spdmBytes 0x02)).toNat ++ bytesOf 32 nonce.toNat ++ allMeasured s

/-- The requests to a port's responder: the states in which each is answered, the state that follows, and the code of the answer
(R400); the states and codes are the model's, from SPDM 1.3 (log entry 23). -/
noncomputable def spdmForms (p slot off len : Nat) (nonce : BitVec 256) (block : BitVec 8) :
    List (Instr × List SpdmState × (SpdmState → SpdmState) × Nat) :=
  [(.getVersion p, .start :: .version :: .capabilities :: agreedStates, fun _ => .version, 0x04),
   (.getCapabilities p, [.version], fun _ => .capabilities, 0x61),
   (.negotiateAlgorithms p, [.capabilities], fun _ => .negotiated, 0x63),
   (.getDigests p, agreedStates, id, 0x01),
   (.getCertificate p slot off len, if slot = 0 then agreedStates else [], id, 0x02),
   (.challenge p nonce, agreedStates, id, 0x03),
   (.getMeasurements p { block, nonce }, if block.toNat ≤ 5 ∨ block = 0xFF then agreedStates else [], id, 0x60),
   (.keyExchange p, [.negotiated], fun _ => .exchanging, 0x64), (.finish p, [.exchanging], fun _ => .session, 0x65),
   (.endSession p, [.session], fun _ => .negotiated, 0x6C)]

/-- R400, R401: once the first boot stage has passed, each SPDM request is answered in the states that allow it, and with an error in
every other, in which the session stays; a challenge is answered with the nonce, MEAS0 to MEAS3 and SECSTAT, and a request for
measurements with the nonce and the blocks it names, under the device's signature; a request wakes the module from retention.  The
session's states, the codes and the layout of the answers are the model's (log entries 7 and 23). -/
def SpdmRequests : Prop :=
  ∀ (s : State) (p slot off len : Nat) (nonce : BitVec 256) (block : BitVec 8),
    let x := s.portAt p
    let u := if s.power = .retention then { s with power := .active, wakeAt := none } else s
    let signs := fun (code : Nat) (body : List Byte) =>
      Host.Outcome.next (Sends u p (.spdm code (body ++ Config.mlDsa87Sign body)))
    let measurements := fun (n : BitVec 8) (report : List Byte) =>
      exec (.getMeasurements p { block := n, nonce }) s = signs 0x60 (bytesOf 32 nonce.toNat ++ report)
    (s.power ≠ .off → HostUp s p → s.salhal = true →
      (∀ f ∈ spdmForms p slot off len nonce block,
        (x.spdm ∈ f.2.1 → ∃ body, exec f.1 s = .next (u.setPort p
          { x with spdm := f.2.2.1 x.spdm, sent := x.sent ++ [.spdm f.2.2.2 body] })) ∧
        (x.spdm ∉ f.2.1 → exec f.1 s = .next (Sends u p (.spdm 0x7F [])))) ∧
      (x.spdm ∈ agreedStates →
        exec (.challenge p nonce) s = signs 0x03 (challengeBody s nonce) ∧
        measurements 0 [5] ∧ measurements 0xFF (allMeasured s) ∧
        (1 ≤ block.toNat → block.toNat ≤ 5 → measurements block (measured s block.toNat)))) ∧
    (∀ f ∈ spdmForms p slot off len nonce block,
      (s.power = .off ∨ ¬HostUp s p ∨ (s.salhal = false ∧ s.power = .active)) → exec f.1 s = .next s)

/-! ## Firmware -/

/-- The registers that a firmware function reads (R397). -/
def fwReads (n : Nat) : List Reg := if n = 3 then [14, 15] else if n = 5 then [14, 16] else [14, 15, 16]

/-- Strand `k` has called firmware function `n`, which has not been answered, and awaits none of the registers that the function reads
(R92, R396, R397). -/
def Called (s : State) (k n : Nat) : Prop :=
  let t := s.strandAt k
  t.kind ≠ .none ∧ t.mode = .firmware ∧ t.fcause = 0x17 ∧ t.pc = base4 (s.coreAt (k / 4)).ftvec ∧ (t.readG 14).toNat = n ∧
    ∀ r ∈ fwReads n, (t.mark r).isPending = false

/-- The registers that the function reads hold good values: none is poisoned or faulted (R93, 13 R354). -/
def GoodArguments (s : State) (k n : Nat) : Prop := (s.strandAt k).badRead (fwReads n) = none

/-- Strand `k` has called firmware function `n` with good values. -/
def CalledWell (s : State) (k n : Nat) : Prop := Called s k n ∧ GoodArguments s k n

/-- The strand once its call is answered with a status: g14 holds the status, and firmware has returned (R396, R397). -/
def answeredStrand (t : Strand) (status : Nat) : Strand := (t.writeG 14 (BitVec.ofNat 64 status)).leaveFirmware

/-- The call is answered with a status and no other effect. -/
def Denies (s : State) (k status : Nat) : Out := .next (s.setStrand k (answeredStrand (s.strandAt k) status))

/-- The bytes of a partition's descriptor (R397). -/
def IsDescriptor (bs : List Byte) (x : Partition) : Prop :=
  x.made = true ∧ x.mask = BitVec.ofNat 128 (recField bs 0 16) ∧ x.weight = recField bs 16 8 ∧ x.sched = recField bs 24 8 ∧
    x.vtable = recField bs 32 8 ∧ x.tier.active = false ∧ x.nests = []

/-- R364, R397, R402: the functions on partitions.  Where a call breaks several conditions, the order 3, 1, 2 of the statuses is the
model's (log entry 22). -/
def PartitionCalls : Prop :=
  ∀ (s : State) (k : Nat),
    let t := s.strandAt k
    let p := (t.readG 15).toNat
    let a := (t.readG 16).toNat
    let free := fun (m : BitVec 128) => (∀ e ∈ s.parts, e.2.made = true → m &&& e.2.mask = 0) ∧ m &&& s.gatedMask = 0
    (CalledWell s k 1 → s.secState = .faultLocked → exec (.fwCreatePartition k) s = Denies s k 3) ∧
    (CalledWell s k 1 → s.secState ≠ .faultLocked → (s.bytesPa a 64 = none → exec (.fwCreatePartition k) s = Denies s k 1) ∧
      (∀ bs, s.bytesPa a 64 = some bs → ∀ x, IsDescriptor bs x →
        let good := p < 128 ∧ x.mask ≠ 0 ∧ 1 ≤ x.weight ∧ x.weight ≤ 255 ∧ x.sched % 256 = 0 ∧ x.vtable % 256 = 0 ∧
          recField bs 40 24 = 0
        (¬good → exec (.fwCreatePartition k) s = Denies s k 1) ∧
        (good → ((s.partAt p).made = true ∨ ¬free x.mask) → exec (.fwCreatePartition k) s = Denies s k 2) ∧
        (good → (s.partAt p).made = false → free x.mask → ∃ u y, exec (.fwCreatePartition k) s = .next u ∧ IsDescriptor bs y ∧
          y.born = s.gtime ∧
          u.parts = Tab.set s.parts p y ∧ u.strandAt k = answeredStrand t 0 ∧ u.mem = s.mem))) ∧
    (CalledWell s k 2 →
      (((s.partAt p).made = false ∨ a = 0 ∨ 255 < a) → exec (.fwSetShareWeight k) s = Denies s k 1) ∧
      ((s.partAt p).made = true → 1 ≤ a → a ≤ 255 → ∃ u, exec (.fwSetShareWeight k) s = .next u ∧
        u.parts = Tab.set s.parts p { s.partAt p with weight := a } ∧ u.strandAt k = answeredStrand t 0)) ∧
    (CalledWell s k 3 →
      ((s.partAt p).made = false → exec (.fwDestroyPartition k) s = Denies s k 1) ∧
      ((s.partAt p).made = true → s.partitionBusy p = true → exec (.fwDestroyPartition k) s = Denies s k 2) ∧
      ((s.partAt p).made = true → s.partitionBusy p = false → ∃ u, exec (.fwDestroyPartition k) s = .next u ∧
        (u.partAt p).made = false ∧ (∀ q, q ≠ p → u.partAt q = s.partAt q) ∧ u.strandAt k = answeredStrand t 0))

/-- R399, R401, R402: the functions on power, debug grants and chiplet cores.  The numbers of the power states and the layout of a grant
are the model's (log entry 21), so are the order of the statuses (log entry 22), and that state 1 ungates the clusters outside its mask
(log entry 41).  A grant holds until the next reset, so a lower one takes nothing from it. -/
def PowerCalls : Prop :=
  ∀ (s : State) (k : Nat), 4096 ≤ k →
    let t := s.strandAt k
    let a := (t.readG 15).toNat
    let b := (t.readG 16).toNat
    (CalledWell s k 4 → a = 0 → ∃ u, exec (.fwSetPowerState k) s = .next u ∧ u.power = .active ∧ u.mem = s.mem ∧
      (∀ i < 128, (u.clusterAt i).gated = false) ∧ u.strandAt k = answeredStrand t 0) ∧
    (CalledWell s k 4 → a = 1 → s.secState ≠ .faultLocked → ∀ bs, s.bytesPa b 16 = some bs →
      let m : BitVec 128 := BitVec.ofNat 128 (natOfBytes bs)
      ((∃ e ∈ s.parts, e.2.made = true ∧ m &&& e.2.mask ≠ 0) → exec (.fwSetPowerState k) s = Denies s k 2) ∧
      ((∀ e ∈ s.parts, e.2.made = true → m &&& e.2.mask = 0) → ∃ u, exec (.fwSetPowerState k) s = .next u ∧
        (∀ i < 128, (u.clusterAt i).gated = m.getLsbD i) ∧ u.strandAt k = answeredStrand t 0 ∧
        (∀ j < 4096, m.getLsbD (clusterOf (j / 4)) = true → u.strandAt j = Strand.blank))) ∧
    (CalledWell s k 4 → a = 2 → s.secState ≠ .faultLocked →
      (s.spansRemain = true → exec (.fwSetPowerState k) s = Denies s k 2) ∧
      (s.spansRemain = false → exec (.fwSetPowerState k) s =
        .next ({ s with power := .retention, wakeAt := some b }.setStrand k (answeredStrand t 0)))) ∧
    (CalledWell s k 4 → a = 3 → ∃ u, exec (.fwSetPowerState k) s = .next u ∧ u.power = .off ∧ u.strands = [] ∧
      u.mem = [] ∧ u.gtime = 0 ∧ u.ports = []) ∧
    (CalledWell s k 4 → (a = 1 ∨ a = 2) → s.secState = .faultLocked → exec (.fwSetPowerState k) s = Denies s k 3) ∧
    (CalledWell s k 4 → 3 < a → exec (.fwSetPowerState k) s = Denies s k 1) ∧
    (CalledWell s k 5 → ∀ bs, s.bytesPa b 4699 = some bs →
      let good := Config.mlDsa87Verify Config.grantKey (bs.take 72) (bs.drop 72) = true ∧ recField bs 8 64 = s.ident.toNat ∧
        (recField bs 0 8 = 1 ∨ recField bs 0 8 = 2)
      (s.secState = .faultLocked → exec (.fwDebugGrant k) s = Denies s k 3) ∧
      (s.secState = .production → exec (.fwDebugGrant k) s =
        if good then
          let grant := some (max (recField bs 0 8) (s.grant.getD 0))
          .next ({ s with grant, secState := .granted }.setStrand k (answeredStrand t 0))
        else .next ({ s with fresh := s.fresh + 1 }.setStrand k
          (answeredStrand t (if (Config.freeValue s.fresh).getLsbD 0 then 1 else 3))))) ∧
    (CalledWell s k 6 →
      ((a = 0 ∨ 15 < a ∨ b % 4 ≠ 0) → exec (.fwStartChipletCore k) s = Denies s k 1) ∧
      (1 ≤ a → a ≤ 15 → b % 4 = 0 →
        let j := (1024 + a) * 4
        ((s.strandAt j).kind ≠ .none → exec (.fwStartChipletCore k) s = Denies s k 2) ∧
        ((s.strandAt j).kind = .none → ∃ u, exec (.fwStartChipletCore k) s = .next u ∧
          u.strandAt k = answeredStrand t 0 ∧ u.strandAt j = { kind := .chiplet, mode := .supervisor, pc := t.readG 16,
                                                               g := (Vector.replicate 32 0).set 14 (t.readG 15) } ∧
          (u.coreAt (1024 + a)).csrs.ptbase = (s.coreAt (k / 4)).csrs.ptbase ∧
          (u.coreAt (1024 + a)).csrs.cidtag = (s.coreAt (k / 4)).csrs.cidtag)))

/-- The functions of firmware, by their numbers (R397). -/
noncomputable def fwForms (k : Nat) : List (Nat × Instr) :=
  [(1, .fwCreatePartition k), (2, .fwSetShareWeight k), (3, .fwDestroyPartition k), (4, .fwSetPowerState k), (5, .fwDebugGrant k),
   (6, .fwStartChipletCore k)]

/-- R92, R397: a call that has not been made, or that waits for a register, is not answered; a poisoned argument is a bad one (log entry
22). -/
def UncalledFunctions : Prop :=
  ∀ (s : State) (k : Nat),
    (∀ f ∈ fwForms k, Called s k f.1 → ¬GoodArguments s k f.1 → exec f.2 s = Denies s k 1) ∧
    (¬Called s k 1 → exec (.fwCreatePartition k) s = .next s) ∧ (¬Called s k 2 → exec (.fwSetShareWeight k) s = .next s) ∧
    (¬Called s k 3 → exec (.fwDestroyPartition k) s = .next s) ∧ (¬Called s k 4 → exec (.fwSetPowerState k) s = .next s) ∧
    (¬Called s k 5 → exec (.fwDebugGrant k) s = .next s) ∧ (¬Called s k 6 → exec (.fwStartChipletCore k) s = .next s)

/-! ## Words and steps -/

/-- Words of the spec's tables of encoded instructions, and the instructions that they are (R42 to R49 and the tables of the
chapters). -/
noncomputable def knownWords : List (IWord × Instr) :=
  [(0x04A63800, .add 5 6 7), (0x06CE7B1B, .lea 22 14 15 3), (0x1D29008C, .sari 9 9 12), (0x74E30010, .sw 7 3 16),
   (0x34A0FFFD, .bne 5 0 (-3)), (0x2AD78011, .laddrNear 22 23 1 1), (0x8C221900, .fadd 1 2 3 .rne .f32),
   (0x8C853045, .fma 4 5 6 .dyn .f64), (0x90221840, .vadd 1 2 3 0 .b32), (0x948532C5, .vfma 4 5 6 2 .f32),
   (0x98611142, .vcmplt 3 1 2 1 .b32), (0x9DC1004C, .vredsum 14 1 0 0 .b32), (0xA0253041, .vlds 1 5 6 0 .b32),
   (0xA8453781, .tld 2 5 6 15), (0xAC2006E4, .mma 1 0 0 true true 7), (0xB1CF84D1, .amoadd 14 15 16 .module true true .w64)]

/-- More of these words. -/
noncomputable def moreWords : List (IWord × Instr) :=
  [(0xB4053490, .redadd 5 6 .module true .w64), (0xBA0F0012, .bexp 16 15 true), (0xB9C2198A, .waitv 14 2 3 1 true .eq),
   (0xBE340001, .cpqt 17 20), (0xBC000032, .qfence 3), (0xC00001D0, .fence false true true .system), (0xC5CF0000, .seedput 14 15),
   (0xCDCF81A0, .pin 14 15 16 3 2), (0xD0000000, .ecall), (0xD1C00013, .csrrd 14 1), (0xD00E0057, .tlbinvPage 14 .system),
   (0xD4811065, .vstrcmp 4 1 2 0), (0xD9C02585, .setvli 14 300 .b16)]

/-- The strand takes the exception of a word that does not decode (R28). -/
def Undecoded (s : State) (w : IWord) (reason : Nat) : State :=
  s.take { code := 1, info := BitVec.ofNat 64 (reason * 2 ^ 32 + w.toNat) } s.me.pc

end Sys2Proof.Claims

/-- R275, R293, R294, R313, R391 to R395, R400, R401: what hosts and devices do to the module.  Log entries 7, 23 and 31 name what of
it is the model's. -/
def Obligations.HostEvents : Prop := SeedWindows ∧ CellsAndMail ∧ Windows ∧ HostMemory ∧ SpdmRequests

/-- R364, R396, R397, R399, R401, R402: the functions of firmware.  Log entries 21, 22 and 41 name what of it is the model's. -/
def Obligations.FirmwareCalls : Prop := PartitionCalls ∧ PowerCalls ∧ UncalledFunctions

/-- Boot stage `i` passes (R398): its version is new enough, and its signature verifies over the hash of its image with a key whose hash
is one of the four fused ones and is not revoked. -/
def Sys2Proof.Claims.StagePasses (s : State) (i : Nat) : Prop :=
  s.minsvn ≤ Config.stageVersion i ∧
    (∃ j < 4, Config.keyHash j = Config.sha3_512 (Config.stageKey i) ∧ Config.keyRevoked j = false) ∧
    Config.mlDsa87Verify (Config.stageKey i) (bytesOf 64 (Config.sha3_512 (Config.stageImage i)).toNat) (Config.stageSignature i) = true

/-- R398, R399: a reset runs the boot stages in their order: each that passes is measured, and the first that fails is the last; where
every stage passes, chiplet core 0 alone begins the module operating system, in supervisor mode (its addresses are the model's, log
entry 2); otherwise the module is fault-locked and nothing runs but Salhal, where the first stage passed (R400).  That a reset keeps
GTIME is the model's (log entry 3). -/
def Obligations.Boot : Prop :=
  ∀ (s : State), ∃ t, exec .reset s = .next t ∧
    let good := ∀ i < 4, StagePasses s i
    t.booted = true ∧ t.gtime = s.gtime ∧ t.net = [] ∧ t.traffic = [] ∧ t.parts = [] ∧ t.tlb = [] ∧ t.grant = none ∧ t.dbg = 0 ∧
    t.power = .active ∧
    (t.salhal = true ↔ StagePasses s 0) ∧
    (∀ i < 4, ((∀ j ≤ i, StagePasses s j) → t.meas.toList.getD i 0 =
        Config.sha3_512 (bytesOf 64 0 ++ bytesOf 64 (Config.sha3_512 (Config.stageImage i)).toNat)) ∧
      (¬(∀ j ≤ i, StagePasses s j) → t.meas.toList.getD i 0 = 0)) ∧
    (good → t.strands = [(4096, bootStrand)] ∧ t.cores = [(1024, bootCore)] ∧
      t.secState = (if s.prodFuse then .production else .factoryOpen) ∧ (∀ r, r ≠ 3 → r ≠ 14 → bootStrand.readG r = 0) ∧
      bootStrand.mode = .supervisor ∧ bootStrand.readG 14 = BitVec.ofNat 64 bootRecord) ∧
    (¬good → t.strands = [] ∧ t.cores = [] ∧ t.secState = .faultLocked)

/-- R61, R87, R119, R336: what a strand and a core hold at reset where the spec says so: FSTAT, the NFMT registers, PTIMERLIM and
SWITCHAT; and that nothing runs and memory lists nothing. -/
def Obligations.ResetValues : Prop :=
  Strand.blank.fstat = 1 ∧ Strand.blank.nfmt = #v[0x8000000000010214, 0x8000000002070418, 0x80000000010F0518, 0x8000000000030316] ∧
    Strand.blank.vl = 0 ∧ Strand.blank.adopted = none ∧ Core.released.csrs.ptimerlim = 0x00100000 ∧
    Core.released.switchat = BitVec.allOnes 64 ∧ State.reset.strands = [] ∧ State.reset.cores = [] ∧ State.reset.mem = [] ∧
    State.reset.net = [] ∧ State.reset.traffic = [] ∧ State.reset.parts = [] ∧ Memory.wf State.reset = true

/-- The words of the spec's tables decode to the instructions beside them, and these encode as the words. -/
def Obligations.KnownWords : Prop :=
  (∀ x ∈ knownWords, decode x.1 = .ok x.2 ∧ encode x.2 = some x.1) ∧
  (∀ x ∈ moreWords, decode x.1 = .ok x.2 ∧ encode x.2 = some x.1)

/-- The decoder gives back every well-formed instruction from its word, whatever its operands. -/
def Obligations.DecodeEncode : Prop := ∀ (i : Instr) (w : IWord), i.wf = true → encode i = some w → decode w = .ok i

/-- A word that decodes is the word of its instruction: no bit of a word is ignored; the word is well formed unless it is an unassigned
one, and a word that does not decode is refused with reason code 2 or 3 (R28). -/
def Obligations.EncodeDecode : Prop :=
  ∀ (w : IWord), (∀ i, decode w = .ok i → encode i = some w ∧ (i.wf = true ∨ i = .unassignedInstructionWord w)) ∧
    (∀ e, decode w = .error e → e.reason = 2 ∨ e.reason = 3)

/-- R26, R28, R228: a strand that issues runs the instruction that its word decodes to; a word that does not decode raises ILLEGAL; a
fetch that fails raises its exception.  Time moves on afterwards, and the ages of the core's strands change, whatever is run. -/
def Sys2Proof.Claims.InstructionSteps : Prop :=
  ∀ (s : State) (k : Nat), s.nextAction = .issue k →
    let s0 := { s.chosen with cur := k }
    let after := fun (t : State) => (t.aged s.chosen k).passTime
    (∀ w s1 i, Yields M.fetch s0 w s1 → decode w = .ok i → ∀ t, exec i s1 = .next t → step s = .next (after t)) ∧
    (∀ w s1 e, Yields M.fetch s0 w s1 → decode w = .error e → step s = .next (after (Undecoded s1 w e.reason))) ∧
    (∀ e s1, Traps M.fetch s0 e s1 → step s = .next (after (s1.take e s1.me.pc)))

/-- A step performs the event, or answers the call, that is chosen next. -/
def Sys2Proof.Claims.EventSteps : Prop :=
  ∀ (s : State),
    (∀ i t, s.nextAction = .event i → exec i s.chosen = .next t → step s = .next t.passTime) ∧
    (∀ k t, s.nextAction = .firmware k → s.chosen.firmware k = .next t → step s = .next t.passTime) ∧
    (s.nextAction = .idle → step s = .next s.chosen.passTime) ∧
    (∀ i is, s.dueEvents = [] → s.agenda = i :: is → s.nextAction = .event i ∧ s.chosen = { s with agenda := is })

/-- R26, R28, R228: what a step does: a strand that issues runs the instruction that its word decodes to, raises ILLEGAL for a word that
does not decode and the exception of a fetch that fails; and a step performs the event, or answers the call, that is chosen next. -/
def Obligations.StepRuns : Prop := InstructionSteps ∧ EventSteps

/-- No instruction stops the machine: whatever the state, every instruction answers a next state, and so does every step. -/
def Obligations.NothingStops : Prop :=
  (∀ (i : Instr) (s : State), ∃ t, exec i s = .next t) ∧ (∀ (s : State), ∃ t, step s = .next t)

/-- R218, R224: a use of a line of local HBM at its rim bank.  A hit keeps the lines of the set and the order of their fills, and the
line takes the mark of the access; a miss fills an invalid way where there is one, and otherwise evicts the least recently filled
evict-first line, the least recently used ordinary line, or the least recently used protected line, the first of these that the set
holds.  Protected are the most recently used of the lines pinned for a partition, as many as its ways.  No other set changes. -/
def Obligations.RimReplacement : Prop :=
  ∀ (s : State) (line : Nat) (mark : RimMark), line * 64 < 2 ^ 40 →
    let set := Tab.get [] s.rim (rimSetOf line)
    let t := s.rimUse line (some mark)
    let now := Tab.get [] t.rim (rimSetOf line)
    let filled : RimLine := { line := line / 32, mark, filled := s.rimUses, used := s.rimUses }
    let evictFirst := fun (x : RimLine) => ∃ p r, x.mark = .evictFirst p r
    let safe := fun (x : RimLine) => ∃ p, x.pinnedFor = some p ∧
      (set.filter fun y => y.pinnedFor == some p && decide (x.used < y.used)).length < s.pinWays p
    t = { s with rim := t.rim, rimUses := s.rimUses + 1 } ∧
    (∀ j, j ≠ rimSetOf line → Tab.get [] t.rim j = Tab.get [] s.rim j) ∧
    ((∃ x ∈ set, x.line = line / 32) → now.map (·.line) = set.map (·.line) ∧ now.map (·.filled) = set.map (·.filled) ∧
      ∀ x ∈ now, (x.line = line / 32 → x.mark = mark ∧ x.used = s.rimUses) ∧ (x.line ≠ line / 32 → x ∈ set)) ∧
    ((∀ x ∈ set, x.line ≠ line / 32) →
      (set.length < 16 → now = filled :: set) ∧
      (16 ≤ set.length → ∃ v ∈ set, now = filled :: set.filter (·.line != v.line) ∧
        ((∃ x ∈ set, evictFirst x) → evictFirst v ∧ ∀ x ∈ set, evictFirst x → v.filled ≤ x.filled) ∧
        ((∀ x ∈ set, ¬evictFirst x) → (∃ x ∈ set, ¬safe x) → ¬safe v ∧ ∀ x ∈ set, ¬safe x → v.used ≤ x.used) ∧
        ((∀ x ∈ set, safe x) → ∀ x ∈ set, v.used ≤ x.used)))

/-- R316, R362: of the packets at the heads of their virtual channels, a router's output port that sends nothing chooses exactly one:
by saturated age, then the earliest injection and the lowest input port; then slotted messages; then the highest priority; then
in turn over the input ports after the one last served.  A port that sends chooses none.  An age advances by 1 for each 16 ticks of
waiting, to 255 at most. -/
def Obligations.PortArbitration : Prop :=
  (∀ (s : State),
    let ws := s.waitingPackets
    let free := fun (w : Waiting) => w ∈ ws ∧ w.busy = false ∧ w.isHead ws = true
    let same := fun (a b : Waiting) => a.x = b.x ∧ a.y = b.y ∧ a.port = b.port
    let turn := fun (w : Waiting) => (w.inPort + 7 - Tab.get 7 s.served (portKey w.x w.y w.port)) % 8
    (∀ a ∈ s.chosenPackets, free a ∧ (∀ b ∈ ws, same a b → b.busy = false) ∧
      ∀ b, free b → same a b → b.serial ≠ a.serial →
        b ∉ s.chosenPackets ∧
        (255 ≤ b.age → 255 ≤ a.age ∧ (a.injected < b.injected ∨ (a.injected = b.injected ∧ a.inPort ≤ b.inPort))) ∧
        (a.age < 255 → (b.slotted = true → a.slotted = true) ∧
          (a.slotted = b.slotted → b.prio ≤ a.prio ∧ (a.prio = b.prio → turn a ≤ turn b)))) ∧
    (∀ b, free b → (∀ c ∈ ws, same b c → c.busy = false) → ∃ a ∈ s.chosenPackets, same a b)) ∧
  (∀ (t : Travel), t.blocked = 0 →
    (∀ n < 16, (Nat.repeat Travel.waited n t).age = t.age) ∧
    Nat.repeat Travel.waited 16 t = { t with age := min 255 (t.age + 1) })

/-- Every step keeps memory in its canonical form. -/
def Obligations.MemoryForm : Prop := ∀ (s t : State), Memory.wf s = true → step s = .next t → Memory.wf t = true

end
end

