-- ==== Sys2Proof/Laws/State.lean ====
section
/-!
SUPPORT. Laws/State.lean: what each update of the state and of a strand leaves as it was, and the laws of the sparse tables.
-/

namespace Sys2Proof.Laws

open Sys2Proof.Machine

/-! ## Tables -/

theorem Tab_get_place_same {α : Type} (d x : α) (k : Nat) (t : Tab α) (h : ∀ e ∈ t, e.1 ≠ k) :
    Tab.get d (Tab.place k x t) k = x := by
  induction t with
  | nil => simp [Tab.place, Tab.get]
  | cons e t ih =>
    have he : e.1 ≠ k := h e (by simp)
    simp only [Tab.place]
    split
    · simp [Tab.get]
    · simp only [Tab.get, if_neg he]
      exact ih fun e' h' => h e' (by simp [h'])

theorem Tab_get_place_ne {α : Type} (d x : α) {j k : Nat} (hjk : j ≠ k) (t : Tab α) :
    Tab.get d (Tab.place k x t) j = Tab.get d t j := by
  induction t with
  | nil => simp [Tab.place, Tab.get, hjk.symm]
  | cons e t ih =>
    simp only [Tab.place]
    split
    · simp [Tab.get, hjk.symm]
    · simp only [Tab.get, ih]

theorem Tab_get_drop_ne {α : Type} (d : α) {j k : Nat} (hjk : j ≠ k) (t : Tab α) :
    Tab.get d (Tab.drop k t) j = Tab.get d t j := by
  induction t with
  | nil => rfl
  | cons e t ih =>
    by_cases h : e.1 = k
    · have : e.1 ≠ j := fun hj => hjk (hj ▸ h)
      simp [Tab.drop, h, Tab.get, ih, hjk.symm]
    · simp only [Tab.drop, if_neg h, Tab.get, ih]

theorem Tab_drop_fst {α : Type} (k : Nat) (t : Tab α) : ∀ e ∈ Tab.drop k t, e.1 ≠ k := by
  induction t with
  | nil => simp [Tab.drop]
  | cons e t ih =>
    by_cases h : e.1 = k
    · simpa [Tab.drop, h] using ih
    · simp only [Tab.drop, if_neg h, List.forall_mem_cons]
      exact ⟨h, ih⟩

theorem Tab_drop_of_absent {α : Type} (k : Nat) (t : Tab α) (h : ∀ e ∈ t, e.1 ≠ k) : Tab.drop k t = t := by
  induction t with
  | nil => rfl
  | cons e t ih => simp [Tab.drop, h e (by simp), ih fun e' h' => h e' (by simp [h'])]

theorem Tab_drop_place {α : Type} (k : Nat) (x : α) (t : Tab α) (h : ∀ e ∈ t, e.1 ≠ k) :
    Tab.drop k (Tab.place k x t) = t := by
  induction t with
  | nil => simp [Tab.place, Tab.drop]
  | cons e t ih =>
    have he : e.1 ≠ k := h e (by simp)
    have ht : ∀ e' ∈ t, e'.1 ≠ k := fun e' h' => h e' (by simp [h'])
    simp only [Tab.place]
    split
    · simp [Tab.drop, he, Tab_drop_of_absent k t ht]
    · simp [Tab.drop, he, ih ht]

/-- Reading a table where it was just written. -/
@[simp] theorem Tab_get_set_same {α : Type} (d x : α) (t : Tab α) (k : Nat) : Tab.get d (Tab.set t k x) k = x :=
  Tab_get_place_same d x k _ (Tab_drop_fst k t)

/-- Reading a table elsewhere. -/
theorem Tab_get_set_ne {α : Type} (d x : α) (t : Tab α) {j k : Nat} (h : j ≠ k) :
    Tab.get d (Tab.set t k x) j = Tab.get d t j :=
  (Tab_get_place_ne d x h _).trans (Tab_get_drop_ne d h t)

/-- The later of two writes at one number stands. -/
@[simp] theorem Tab_set_set {α : Type} (t : Tab α) (k : Nat) (x y : α) : Tab.set (Tab.set t k x) k y = Tab.set t k y := by
  simp only [Tab.set, Tab_drop_place k x _ (Tab_drop_fst k t)]

/-! ## Records of the state -/
@[simp] theorem strandAt_setStrand_same (s : State) (k : Nat) (x : Strand) : (s.setStrand k x).strandAt k = x :=
  Tab_get_set_same _ _ _ _
theorem strandAt_setStrand_ne (s : State) {j k : Nat} (x : Strand) (h : j ≠ k) : (s.setStrand k x).strandAt j = s.strandAt j :=
  Tab_get_set_ne _ _ _ h
@[simp] theorem setStrand_setStrand (s : State) (k : Nat) (x y : Strand) : (s.setStrand k x).setStrand k y = s.setStrand k y := by
  simp [State.setStrand]
@[simp] theorem coreAt_setCore_same (s : State) (k : Nat) (x : Core) : (s.setCore k x).coreAt k = x :=
  Tab_get_set_same _ _ _ _
theorem coreAt_setCore_ne (s : State) {j k : Nat} (x : Core) (h : j ≠ k) : (s.setCore k x).coreAt j = s.coreAt j :=
  Tab_get_set_ne _ _ _ h
@[simp] theorem setCore_setCore (s : State) (k : Nat) (x y : Core) : (s.setCore k x).setCore k y = s.setCore k y := by
  simp [State.setCore]
@[simp] theorem clusterAt_setCluster_same (s : State) (k : Nat) (x : Cluster) : (s.setCluster k x).clusterAt k = x :=
  Tab_get_set_same _ _ _ _
theorem clusterAt_setCluster_ne (s : State) {j k : Nat} (x : Cluster) (h : j ≠ k) : (s.setCluster k x).clusterAt j = s.clusterAt j :=
  Tab_get_set_ne _ _ _ h
@[simp] theorem setCluster_setCluster (s : State) (k : Nat) (x y : Cluster) : (s.setCluster k x).setCluster k y = s.setCluster k y := by
  simp [State.setCluster]
@[simp] theorem partAt_setPart_same (s : State) (k : Nat) (x : Partition) : (s.setPart k x).partAt k = x :=
  Tab_get_set_same _ _ _ _
theorem partAt_setPart_ne (s : State) {j k : Nat} (x : Partition) (h : j ≠ k) : (s.setPart k x).partAt j = s.partAt j :=
  Tab_get_set_ne _ _ _ h
@[simp] theorem setPart_setPart (s : State) (k : Nat) (x y : Partition) : (s.setPart k x).setPart k y = s.setPart k y := by
  simp [State.setPart]
@[simp] theorem portAt_setPort_same (s : State) (k : Nat) (x : Port) : (s.setPort k x).portAt k = x :=
  Tab_get_set_same _ _ _ _
theorem portAt_setPort_ne (s : State) {j k : Nat} (x : Port) (h : j ≠ k) : (s.setPort k x).portAt j = s.portAt j :=
  Tab_get_set_ne _ _ _ h
@[simp] theorem setPort_setPort (s : State) (k : Nat) (x y : Port) : (s.setPort k x).setPort k y = s.setPort k y := by
  simp [State.setPort]
@[simp] theorem monitorAt_setMonitor_same (s : State) (k : Nat) (x : Monitor) : (s.setMonitor k x).monitorAt k = x :=
  Tab_get_set_same _ _ _ _
theorem monitorAt_setMonitor_ne (s : State) {j k : Nat} (x : Monitor) (h : j ≠ k) : (s.setMonitor k x).monitorAt j = s.monitorAt j :=
  Tab_get_set_ne _ _ _ h
@[simp] theorem setMonitor_setMonitor (s : State) (k : Nat) (x y : Monitor) : (s.setMonitor k x).setMonitor k y = s.setMonitor k y := by
  simp [State.setMonitor]
@[simp] theorem coreAt_setStrand (s : State) (k j : Nat) (x : Strand) : (s.setStrand k x).coreAt j = s.coreAt j := rfl
@[simp] theorem clusterAt_setStrand (s : State) (k j : Nat) (x : Strand) : (s.setStrand k x).clusterAt j = s.clusterAt j := rfl
@[simp] theorem partAt_setStrand (s : State) (k j : Nat) (x : Strand) : (s.setStrand k x).partAt j = s.partAt j := rfl
@[simp] theorem portAt_setStrand (s : State) (k j : Nat) (x : Strand) : (s.setStrand k x).portAt j = s.portAt j := rfl
@[simp] theorem monitorAt_setStrand (s : State) (k j : Nat) (x : Strand) : (s.setStrand k x).monitorAt j = s.monitorAt j := rfl
@[simp] theorem strandAt_setCore (s : State) (k j : Nat) (x : Core) : (s.setCore k x).strandAt j = s.strandAt j := rfl
@[simp] theorem clusterAt_setCore (s : State) (k j : Nat) (x : Core) : (s.setCore k x).clusterAt j = s.clusterAt j := rfl
@[simp] theorem partAt_setCore (s : State) (k j : Nat) (x : Core) : (s.setCore k x).partAt j = s.partAt j := rfl
@[simp] theorem portAt_setCore (s : State) (k j : Nat) (x : Core) : (s.setCore k x).portAt j = s.portAt j := rfl
@[simp] theorem monitorAt_setCore (s : State) (k j : Nat) (x : Core) : (s.setCore k x).monitorAt j = s.monitorAt j := rfl
@[simp] theorem strandAt_setCluster (s : State) (k j : Nat) (x : Cluster) : (s.setCluster k x).strandAt j = s.strandAt j := rfl
@[simp] theorem coreAt_setCluster (s : State) (k j : Nat) (x : Cluster) : (s.setCluster k x).coreAt j = s.coreAt j := rfl
@[simp] theorem partAt_setCluster (s : State) (k j : Nat) (x : Cluster) : (s.setCluster k x).partAt j = s.partAt j := rfl
@[simp] theorem portAt_setCluster (s : State) (k j : Nat) (x : Cluster) : (s.setCluster k x).portAt j = s.portAt j := rfl
@[simp] theorem monitorAt_setCluster (s : State) (k j : Nat) (x : Cluster) : (s.setCluster k x).monitorAt j = s.monitorAt j := rfl
@[simp] theorem strandAt_setPart (s : State) (k j : Nat) (x : Partition) : (s.setPart k x).strandAt j = s.strandAt j := rfl
@[simp] theorem coreAt_setPart (s : State) (k j : Nat) (x : Partition) : (s.setPart k x).coreAt j = s.coreAt j := rfl
@[simp] theorem clusterAt_setPart (s : State) (k j : Nat) (x : Partition) : (s.setPart k x).clusterAt j = s.clusterAt j := rfl
@[simp] theorem portAt_setPart (s : State) (k j : Nat) (x : Partition) : (s.setPart k x).portAt j = s.portAt j := rfl
@[simp] theorem monitorAt_setPart (s : State) (k j : Nat) (x : Partition) : (s.setPart k x).monitorAt j = s.monitorAt j := rfl
@[simp] theorem strandAt_setPort (s : State) (k j : Nat) (x : Port) : (s.setPort k x).strandAt j = s.strandAt j := rfl
@[simp] theorem coreAt_setPort (s : State) (k j : Nat) (x : Port) : (s.setPort k x).coreAt j = s.coreAt j := rfl
@[simp] theorem clusterAt_setPort (s : State) (k j : Nat) (x : Port) : (s.setPort k x).clusterAt j = s.clusterAt j := rfl
@[simp] theorem partAt_setPort (s : State) (k j : Nat) (x : Port) : (s.setPort k x).partAt j = s.partAt j := rfl
@[simp] theorem monitorAt_setPort (s : State) (k j : Nat) (x : Port) : (s.setPort k x).monitorAt j = s.monitorAt j := rfl
@[simp] theorem strandAt_setMonitor (s : State) (k j : Nat) (x : Monitor) : (s.setMonitor k x).strandAt j = s.strandAt j := rfl
@[simp] theorem coreAt_setMonitor (s : State) (k j : Nat) (x : Monitor) : (s.setMonitor k x).coreAt j = s.coreAt j := rfl
@[simp] theorem clusterAt_setMonitor (s : State) (k j : Nat) (x : Monitor) : (s.setMonitor k x).clusterAt j = s.clusterAt j := rfl
@[simp] theorem partAt_setMonitor (s : State) (k j : Nat) (x : Monitor) : (s.setMonitor k x).partAt j = s.partAt j := rfl
@[simp] theorem portAt_setMonitor (s : State) (k j : Nat) (x : Monitor) : (s.setMonitor k x).portAt j = s.portAt j := rfl

@[simp] theorem me_setMe (s : State) (t : Strand) : (s.setMe t).me = t := Tab_get_set_same _ _ _ _
@[simp] theorem setMe_setMe (s : State) (t u : Strand) : (s.setMe t).setMe u = s.setMe u := setStrand_setStrand s s.cur t u
@[simp] theorem myCoreNo_setMe (s : State) (t : Strand) : (s.setMe t).myCoreNo = s.myCoreNo := rfl
@[simp] theorem mySlotNo_setMe (s : State) (t : Strand) : (s.setMe t).mySlotNo = s.mySlotNo := rfl
@[simp] theorem myCore_setMe (s : State) (t : Strand) : (s.setMe t).myCore = s.myCore := rfl
@[simp] theorem coreAt_setMe (s : State) (t : Strand) (c : Nat) : (s.setMe t).coreAt c = s.coreAt c := rfl
@[simp] theorem byteAt_setMe (s : State) (t : Strand) (a : Nat) : (s.setMe t).byteAt a = s.byteAt a := rfl
@[simp] theorem byteAt_setStrand (s : State) (k : Nat) (t : Strand) (a : Nat) : (s.setStrand k t).byteAt a = s.byteAt a := rfl
@[simp] theorem byteAt_setCore (s : State) (k : Nat) (x : Core) (a : Nat) : (s.setCore k x).byteAt a = s.byteAt a := rfl

/-! ## Fields of the state -/
@[simp] theorem setStrand_mem (s : State) (k : Nat) (x : Strand) : (s.setStrand k x).mem = s.mem := rfl
@[simp] theorem setStrand_poisoned (s : State) (k : Nat) (x : Strand) : (s.setStrand k x).poisoned = s.poisoned := rfl
@[simp] theorem setStrand_gtime (s : State) (k : Nat) (x : Strand) : (s.setStrand k x).gtime = s.gtime := rfl
@[simp] theorem setStrand_cycles (s : State) (k : Nat) (x : Strand) : (s.setStrand k x).cycles = s.cycles := rfl
@[simp] theorem setStrand_cores (s : State) (k : Nat) (x : Strand) : (s.setStrand k x).cores = s.cores := rfl
@[simp] theorem setStrand_clusters (s : State) (k : Nat) (x : Strand) : (s.setStrand k x).clusters = s.clusters := rfl
@[simp] theorem setStrand_parts (s : State) (k : Nat) (x : Strand) : (s.setStrand k x).parts = s.parts := rfl
@[simp] theorem setStrand_monitors (s : State) (k : Nat) (x : Strand) : (s.setStrand k x).monitors = s.monitors := rfl
@[simp] theorem setStrand_ports (s : State) (k : Nat) (x : Strand) : (s.setStrand k x).ports = s.ports := rfl
@[simp] theorem setStrand_net (s : State) (k : Nat) (x : Strand) : (s.setStrand k x).net = s.net := rfl
@[simp] theorem setStrand_sent (s : State) (k : Nat) (x : Strand) : (s.setStrand k x).sent = s.sent := rfl
@[simp] theorem setStrand_acks (s : State) (k : Nat) (x : Strand) : (s.setStrand k x).acks = s.acks := rfl
@[simp] theorem setStrand_tlb (s : State) (k : Nat) (x : Strand) : (s.setStrand k x).tlb = s.tlb := rfl
@[simp] theorem setStrand_tlbinv (s : State) (k : Nat) (x : Strand) : (s.setStrand k x).tlbinv = s.tlbinv := rfl
@[simp] theorem setStrand_gangs (s : State) (k : Nat) (x : Strand) : (s.setStrand k x).gangs = s.gangs := rfl
@[simp] theorem setStrand_lines (s : State) (k : Nat) (x : Strand) : (s.setStrand k x).lines = s.lines := rfl
@[simp] theorem setStrand_cellsSem (s : State) (k : Nat) (x : Strand) : (s.setStrand k x).cellsSem = s.cellsSem := rfl
@[simp] theorem setStrand_domain (s : State) (k : Nat) (x : Strand) : (s.setStrand k x).domain = s.domain := rfl
@[simp] theorem setStrand_modules (s : State) (k : Nat) (x : Strand) : (s.setStrand k x).modules = s.modules := rfl
@[simp] theorem setStrand_hdmBase (s : State) (k : Nat) (x : Strand) : (s.setStrand k x).hdmBase = s.hdmBase := rfl
@[simp] theorem setStrand_hdmSize (s : State) (k : Nat) (x : Strand) : (s.setStrand k x).hdmSize = s.hdmSize := rfl
@[simp] theorem setStrand_prodFuse (s : State) (k : Nat) (x : Strand) : (s.setStrand k x).prodFuse = s.prodFuse := rfl
@[simp] theorem setStrand_secState (s : State) (k : Nat) (x : Strand) : (s.setStrand k x).secState = s.secState := rfl
@[simp] theorem setStrand_dbg (s : State) (k : Nat) (x : Strand) : (s.setStrand k x).dbg = s.dbg := rfl
@[simp] theorem setStrand_dbgctl (s : State) (k : Nat) (x : Strand) : (s.setStrand k x).dbgctl = s.dbgctl := rfl
@[simp] theorem setStrand_grant (s : State) (k : Nat) (x : Strand) : (s.setStrand k x).grant = s.grant := rfl
@[simp] theorem setStrand_minsvn (s : State) (k : Nat) (x : Strand) : (s.setStrand k x).minsvn = s.minsvn := rfl
@[simp] theorem setStrand_ident (s : State) (k : Nat) (x : Strand) : (s.setStrand k x).ident = s.ident := rfl
@[simp] theorem setStrand_served (s : State) (k : Nat) (x : Strand) : (s.setStrand k x).served = s.served := rfl
@[simp] theorem setStrand_l1 (s : State) (k : Nat) (x : Strand) : (s.setStrand k x).l1 = s.l1 := rfl
@[simp] theorem setStrand_rdc (s : State) (k : Nat) (x : Strand) : (s.setStrand k x).rdc = s.rdc := rfl
@[simp] theorem setStrand_slices (s : State) (k : Nat) (x : Strand) : (s.setStrand k x).slices = s.slices := rfl
@[simp] theorem setStrand_rim (s : State) (k : Nat) (x : Strand) : (s.setStrand k x).rim = s.rim := rfl
@[simp] theorem setStrand_rimUses (s : State) (k : Nat) (x : Strand) : (s.setStrand k x).rimUses = s.rimUses := rfl
@[simp] theorem setStrand_meas (s : State) (k : Nat) (x : Strand) : (s.setStrand k x).meas = s.meas := rfl
@[simp] theorem setStrand_booted (s : State) (k : Nat) (x : Strand) : (s.setStrand k x).booted = s.booted := rfl
@[simp] theorem setStrand_power (s : State) (k : Nat) (x : Strand) : (s.setStrand k x).power = s.power := rfl
@[simp] theorem setStrand_wakeAt (s : State) (k : Nat) (x : Strand) : (s.setStrand k x).wakeAt = s.wakeAt := rfl
@[simp] theorem setStrand_hostHeld (s : State) (k : Nat) (x : Strand) : (s.setStrand k x).hostHeld = s.hostHeld := rfl
@[simp] theorem setStrand_slept (s : State) (k : Nat) (x : Strand) : (s.setStrand k x).slept = s.slept := rfl
@[simp] theorem setStrand_traffic (s : State) (k : Nat) (x : Strand) : (s.setStrand k x).traffic = s.traffic := rfl
@[simp] theorem setStrand_salhal (s : State) (k : Nat) (x : Strand) : (s.setStrand k x).salhal = s.salhal := rfl
@[simp] theorem setStrand_cur (s : State) (k : Nat) (x : Strand) : (s.setStrand k x).cur = s.cur := rfl
@[simp] theorem setStrand_agenda (s : State) (k : Nat) (x : Strand) : (s.setStrand k x).agenda = s.agenda := rfl
@[simp] theorem setStrand_turns (s : State) (k : Nat) (x : Strand) : (s.setStrand k x).turns = s.turns := rfl
@[simp] theorem setStrand_ticks (s : State) (k : Nat) (x : Strand) : (s.setStrand k x).ticks = s.ticks := rfl
@[simp] theorem setStrand_lags (s : State) (k : Nat) (x : Strand) : (s.setStrand k x).lags = s.lags := rfl
@[simp] theorem setStrand_fresh (s : State) (k : Nat) (x : Strand) : (s.setStrand k x).fresh = s.fresh := rfl
@[simp] theorem setStrand_refilled (s : State) (k : Nat) (x : Strand) : (s.setStrand k x).refilled = s.refilled := rfl
@[simp] theorem setStrand_lastTurn (s : State) (k : Nat) (x : Strand) : (s.setStrand k x).lastTurn = s.lastTurn := rfl
@[simp] theorem setCore_mem (s : State) (k : Nat) (x : Core) : (s.setCore k x).mem = s.mem := rfl
@[simp] theorem setCore_poisoned (s : State) (k : Nat) (x : Core) : (s.setCore k x).poisoned = s.poisoned := rfl
@[simp] theorem setCore_gtime (s : State) (k : Nat) (x : Core) : (s.setCore k x).gtime = s.gtime := rfl
@[simp] theorem setCore_cycles (s : State) (k : Nat) (x : Core) : (s.setCore k x).cycles = s.cycles := rfl
@[simp] theorem setCore_strands (s : State) (k : Nat) (x : Core) : (s.setCore k x).strands = s.strands := rfl
@[simp] theorem setCore_clusters (s : State) (k : Nat) (x : Core) : (s.setCore k x).clusters = s.clusters := rfl
@[simp] theorem setCore_parts (s : State) (k : Nat) (x : Core) : (s.setCore k x).parts = s.parts := rfl
@[simp] theorem setCore_monitors (s : State) (k : Nat) (x : Core) : (s.setCore k x).monitors = s.monitors := rfl
@[simp] theorem setCore_ports (s : State) (k : Nat) (x : Core) : (s.setCore k x).ports = s.ports := rfl
@[simp] theorem setCore_net (s : State) (k : Nat) (x : Core) : (s.setCore k x).net = s.net := rfl
@[simp] theorem setCore_sent (s : State) (k : Nat) (x : Core) : (s.setCore k x).sent = s.sent := rfl
@[simp] theorem setCore_acks (s : State) (k : Nat) (x : Core) : (s.setCore k x).acks = s.acks := rfl
@[simp] theorem setCore_tlb (s : State) (k : Nat) (x : Core) : (s.setCore k x).tlb = s.tlb := rfl
@[simp] theorem setCore_tlbinv (s : State) (k : Nat) (x : Core) : (s.setCore k x).tlbinv = s.tlbinv := rfl
@[simp] theorem setCore_gangs (s : State) (k : Nat) (x : Core) : (s.setCore k x).gangs = s.gangs := rfl
@[simp] theorem setCore_lines (s : State) (k : Nat) (x : Core) : (s.setCore k x).lines = s.lines := rfl
@[simp] theorem setCore_cellsSem (s : State) (k : Nat) (x : Core) : (s.setCore k x).cellsSem = s.cellsSem := rfl
@[simp] theorem setCore_domain (s : State) (k : Nat) (x : Core) : (s.setCore k x).domain = s.domain := rfl
@[simp] theorem setCore_modules (s : State) (k : Nat) (x : Core) : (s.setCore k x).modules = s.modules := rfl
@[simp] theorem setCore_hdmBase (s : State) (k : Nat) (x : Core) : (s.setCore k x).hdmBase = s.hdmBase := rfl
@[simp] theorem setCore_hdmSize (s : State) (k : Nat) (x : Core) : (s.setCore k x).hdmSize = s.hdmSize := rfl
@[simp] theorem setCore_prodFuse (s : State) (k : Nat) (x : Core) : (s.setCore k x).prodFuse = s.prodFuse := rfl
@[simp] theorem setCore_secState (s : State) (k : Nat) (x : Core) : (s.setCore k x).secState = s.secState := rfl
@[simp] theorem setCore_dbg (s : State) (k : Nat) (x : Core) : (s.setCore k x).dbg = s.dbg := rfl
@[simp] theorem setCore_dbgctl (s : State) (k : Nat) (x : Core) : (s.setCore k x).dbgctl = s.dbgctl := rfl
@[simp] theorem setCore_grant (s : State) (k : Nat) (x : Core) : (s.setCore k x).grant = s.grant := rfl
@[simp] theorem setCore_minsvn (s : State) (k : Nat) (x : Core) : (s.setCore k x).minsvn = s.minsvn := rfl
@[simp] theorem setCore_ident (s : State) (k : Nat) (x : Core) : (s.setCore k x).ident = s.ident := rfl
@[simp] theorem setCore_served (s : State) (k : Nat) (x : Core) : (s.setCore k x).served = s.served := rfl
@[simp] theorem setCore_l1 (s : State) (k : Nat) (x : Core) : (s.setCore k x).l1 = s.l1 := rfl
@[simp] theorem setCore_rdc (s : State) (k : Nat) (x : Core) : (s.setCore k x).rdc = s.rdc := rfl
@[simp] theorem setCore_slices (s : State) (k : Nat) (x : Core) : (s.setCore k x).slices = s.slices := rfl
@[simp] theorem setCore_rim (s : State) (k : Nat) (x : Core) : (s.setCore k x).rim = s.rim := rfl
@[simp] theorem setCore_rimUses (s : State) (k : Nat) (x : Core) : (s.setCore k x).rimUses = s.rimUses := rfl
@[simp] theorem setCore_meas (s : State) (k : Nat) (x : Core) : (s.setCore k x).meas = s.meas := rfl
@[simp] theorem setCore_booted (s : State) (k : Nat) (x : Core) : (s.setCore k x).booted = s.booted := rfl
@[simp] theorem setCore_power (s : State) (k : Nat) (x : Core) : (s.setCore k x).power = s.power := rfl
@[simp] theorem setCore_wakeAt (s : State) (k : Nat) (x : Core) : (s.setCore k x).wakeAt = s.wakeAt := rfl
@[simp] theorem setCore_hostHeld (s : State) (k : Nat) (x : Core) : (s.setCore k x).hostHeld = s.hostHeld := rfl
@[simp] theorem setCore_slept (s : State) (k : Nat) (x : Core) : (s.setCore k x).slept = s.slept := rfl
@[simp] theorem setCore_traffic (s : State) (k : Nat) (x : Core) : (s.setCore k x).traffic = s.traffic := rfl
@[simp] theorem setCore_salhal (s : State) (k : Nat) (x : Core) : (s.setCore k x).salhal = s.salhal := rfl
@[simp] theorem setCore_cur (s : State) (k : Nat) (x : Core) : (s.setCore k x).cur = s.cur := rfl
@[simp] theorem setCore_agenda (s : State) (k : Nat) (x : Core) : (s.setCore k x).agenda = s.agenda := rfl
@[simp] theorem setCore_turns (s : State) (k : Nat) (x : Core) : (s.setCore k x).turns = s.turns := rfl
@[simp] theorem setCore_ticks (s : State) (k : Nat) (x : Core) : (s.setCore k x).ticks = s.ticks := rfl
@[simp] theorem setCore_lags (s : State) (k : Nat) (x : Core) : (s.setCore k x).lags = s.lags := rfl
@[simp] theorem setCore_fresh (s : State) (k : Nat) (x : Core) : (s.setCore k x).fresh = s.fresh := rfl
@[simp] theorem setCore_refilled (s : State) (k : Nat) (x : Core) : (s.setCore k x).refilled = s.refilled := rfl
@[simp] theorem setCore_lastTurn (s : State) (k : Nat) (x : Core) : (s.setCore k x).lastTurn = s.lastTurn := rfl
@[simp] theorem setCluster_mem (s : State) (k : Nat) (x : Cluster) : (s.setCluster k x).mem = s.mem := rfl
@[simp] theorem setCluster_poisoned (s : State) (k : Nat) (x : Cluster) : (s.setCluster k x).poisoned = s.poisoned := rfl
@[simp] theorem setCluster_gtime (s : State) (k : Nat) (x : Cluster) : (s.setCluster k x).gtime = s.gtime := rfl
@[simp] theorem setCluster_cycles (s : State) (k : Nat) (x : Cluster) : (s.setCluster k x).cycles = s.cycles := rfl
@[simp] theorem setCluster_strands (s : State) (k : Nat) (x : Cluster) : (s.setCluster k x).strands = s.strands := rfl
@[simp] theorem setCluster_cores (s : State) (k : Nat) (x : Cluster) : (s.setCluster k x).cores = s.cores := rfl
@[simp] theorem setCluster_parts (s : State) (k : Nat) (x : Cluster) : (s.setCluster k x).parts = s.parts := rfl
@[simp] theorem setCluster_monitors (s : State) (k : Nat) (x : Cluster) : (s.setCluster k x).monitors = s.monitors := rfl
@[simp] theorem setCluster_ports (s : State) (k : Nat) (x : Cluster) : (s.setCluster k x).ports = s.ports := rfl
@[simp] theorem setCluster_net (s : State) (k : Nat) (x : Cluster) : (s.setCluster k x).net = s.net := rfl
@[simp] theorem setCluster_sent (s : State) (k : Nat) (x : Cluster) : (s.setCluster k x).sent = s.sent := rfl
@[simp] theorem setCluster_acks (s : State) (k : Nat) (x : Cluster) : (s.setCluster k x).acks = s.acks := rfl
@[simp] theorem setCluster_tlb (s : State) (k : Nat) (x : Cluster) : (s.setCluster k x).tlb = s.tlb := rfl
@[simp] theorem setCluster_tlbinv (s : State) (k : Nat) (x : Cluster) : (s.setCluster k x).tlbinv = s.tlbinv := rfl
@[simp] theorem setCluster_gangs (s : State) (k : Nat) (x : Cluster) : (s.setCluster k x).gangs = s.gangs := rfl
@[simp] theorem setCluster_lines (s : State) (k : Nat) (x : Cluster) : (s.setCluster k x).lines = s.lines := rfl
@[simp] theorem setCluster_cellsSem (s : State) (k : Nat) (x : Cluster) : (s.setCluster k x).cellsSem = s.cellsSem := rfl
@[simp] theorem setCluster_domain (s : State) (k : Nat) (x : Cluster) : (s.setCluster k x).domain = s.domain := rfl
@[simp] theorem setCluster_modules (s : State) (k : Nat) (x : Cluster) : (s.setCluster k x).modules = s.modules := rfl
@[simp] theorem setCluster_hdmBase (s : State) (k : Nat) (x : Cluster) : (s.setCluster k x).hdmBase = s.hdmBase := rfl
@[simp] theorem setCluster_hdmSize (s : State) (k : Nat) (x : Cluster) : (s.setCluster k x).hdmSize = s.hdmSize := rfl
@[simp] theorem setCluster_prodFuse (s : State) (k : Nat) (x : Cluster) : (s.setCluster k x).prodFuse = s.prodFuse := rfl
@[simp] theorem setCluster_secState (s : State) (k : Nat) (x : Cluster) : (s.setCluster k x).secState = s.secState := rfl
@[simp] theorem setCluster_dbg (s : State) (k : Nat) (x : Cluster) : (s.setCluster k x).dbg = s.dbg := rfl
@[simp] theorem setCluster_dbgctl (s : State) (k : Nat) (x : Cluster) : (s.setCluster k x).dbgctl = s.dbgctl := rfl
@[simp] theorem setCluster_grant (s : State) (k : Nat) (x : Cluster) : (s.setCluster k x).grant = s.grant := rfl
@[simp] theorem setCluster_minsvn (s : State) (k : Nat) (x : Cluster) : (s.setCluster k x).minsvn = s.minsvn := rfl
@[simp] theorem setCluster_ident (s : State) (k : Nat) (x : Cluster) : (s.setCluster k x).ident = s.ident := rfl
@[simp] theorem setCluster_served (s : State) (k : Nat) (x : Cluster) : (s.setCluster k x).served = s.served := rfl
@[simp] theorem setCluster_l1 (s : State) (k : Nat) (x : Cluster) : (s.setCluster k x).l1 = s.l1 := rfl
@[simp] theorem setCluster_rdc (s : State) (k : Nat) (x : Cluster) : (s.setCluster k x).rdc = s.rdc := rfl
@[simp] theorem setCluster_slices (s : State) (k : Nat) (x : Cluster) : (s.setCluster k x).slices = s.slices := rfl
@[simp] theorem setCluster_rim (s : State) (k : Nat) (x : Cluster) : (s.setCluster k x).rim = s.rim := rfl
@[simp] theorem setCluster_rimUses (s : State) (k : Nat) (x : Cluster) : (s.setCluster k x).rimUses = s.rimUses := rfl
@[simp] theorem setCluster_meas (s : State) (k : Nat) (x : Cluster) : (s.setCluster k x).meas = s.meas := rfl
@[simp] theorem setCluster_booted (s : State) (k : Nat) (x : Cluster) : (s.setCluster k x).booted = s.booted := rfl
@[simp] theorem setCluster_power (s : State) (k : Nat) (x : Cluster) : (s.setCluster k x).power = s.power := rfl
@[simp] theorem setCluster_wakeAt (s : State) (k : Nat) (x : Cluster) : (s.setCluster k x).wakeAt = s.wakeAt := rfl
@[simp] theorem setCluster_hostHeld (s : State) (k : Nat) (x : Cluster) : (s.setCluster k x).hostHeld = s.hostHeld := rfl
@[simp] theorem setCluster_slept (s : State) (k : Nat) (x : Cluster) : (s.setCluster k x).slept = s.slept := rfl
@[simp] theorem setCluster_traffic (s : State) (k : Nat) (x : Cluster) : (s.setCluster k x).traffic = s.traffic := rfl
@[simp] theorem setCluster_salhal (s : State) (k : Nat) (x : Cluster) : (s.setCluster k x).salhal = s.salhal := rfl
@[simp] theorem setCluster_cur (s : State) (k : Nat) (x : Cluster) : (s.setCluster k x).cur = s.cur := rfl
@[simp] theorem setCluster_agenda (s : State) (k : Nat) (x : Cluster) : (s.setCluster k x).agenda = s.agenda := rfl
@[simp] theorem setCluster_turns (s : State) (k : Nat) (x : Cluster) : (s.setCluster k x).turns = s.turns := rfl
@[simp] theorem setCluster_ticks (s : State) (k : Nat) (x : Cluster) : (s.setCluster k x).ticks = s.ticks := rfl
@[simp] theorem setCluster_lags (s : State) (k : Nat) (x : Cluster) : (s.setCluster k x).lags = s.lags := rfl
@[simp] theorem setCluster_fresh (s : State) (k : Nat) (x : Cluster) : (s.setCluster k x).fresh = s.fresh := rfl
@[simp] theorem setCluster_refilled (s : State) (k : Nat) (x : Cluster) : (s.setCluster k x).refilled = s.refilled := rfl
@[simp] theorem setCluster_lastTurn (s : State) (k : Nat) (x : Cluster) : (s.setCluster k x).lastTurn = s.lastTurn := rfl
@[simp] theorem setPart_mem (s : State) (k : Nat) (x : Partition) : (s.setPart k x).mem = s.mem := rfl
@[simp] theorem setPart_poisoned (s : State) (k : Nat) (x : Partition) : (s.setPart k x).poisoned = s.poisoned := rfl
@[simp] theorem setPart_gtime (s : State) (k : Nat) (x : Partition) : (s.setPart k x).gtime = s.gtime := rfl
@[simp] theorem setPart_cycles (s : State) (k : Nat) (x : Partition) : (s.setPart k x).cycles = s.cycles := rfl
@[simp] theorem setPart_strands (s : State) (k : Nat) (x : Partition) : (s.setPart k x).strands = s.strands := rfl
@[simp] theorem setPart_cores (s : State) (k : Nat) (x : Partition) : (s.setPart k x).cores = s.cores := rfl
@[simp] theorem setPart_clusters (s : State) (k : Nat) (x : Partition) : (s.setPart k x).clusters = s.clusters := rfl
@[simp] theorem setPart_monitors (s : State) (k : Nat) (x : Partition) : (s.setPart k x).monitors = s.monitors := rfl
@[simp] theorem setPart_ports (s : State) (k : Nat) (x : Partition) : (s.setPart k x).ports = s.ports := rfl
@[simp] theorem setPart_net (s : State) (k : Nat) (x : Partition) : (s.setPart k x).net = s.net := rfl
@[simp] theorem setPart_sent (s : State) (k : Nat) (x : Partition) : (s.setPart k x).sent = s.sent := rfl
@[simp] theorem setPart_acks (s : State) (k : Nat) (x : Partition) : (s.setPart k x).acks = s.acks := rfl
@[simp] theorem setPart_tlb (s : State) (k : Nat) (x : Partition) : (s.setPart k x).tlb = s.tlb := rfl
@[simp] theorem setPart_tlbinv (s : State) (k : Nat) (x : Partition) : (s.setPart k x).tlbinv = s.tlbinv := rfl
@[simp] theorem setPart_gangs (s : State) (k : Nat) (x : Partition) : (s.setPart k x).gangs = s.gangs := rfl
@[simp] theorem setPart_lines (s : State) (k : Nat) (x : Partition) : (s.setPart k x).lines = s.lines := rfl
@[simp] theorem setPart_cellsSem (s : State) (k : Nat) (x : Partition) : (s.setPart k x).cellsSem = s.cellsSem := rfl
@[simp] theorem setPart_domain (s : State) (k : Nat) (x : Partition) : (s.setPart k x).domain = s.domain := rfl
@[simp] theorem setPart_modules (s : State) (k : Nat) (x : Partition) : (s.setPart k x).modules = s.modules := rfl
@[simp] theorem setPart_hdmBase (s : State) (k : Nat) (x : Partition) : (s.setPart k x).hdmBase = s.hdmBase := rfl
@[simp] theorem setPart_hdmSize (s : State) (k : Nat) (x : Partition) : (s.setPart k x).hdmSize = s.hdmSize := rfl
@[simp] theorem setPart_prodFuse (s : State) (k : Nat) (x : Partition) : (s.setPart k x).prodFuse = s.prodFuse := rfl
@[simp] theorem setPart_secState (s : State) (k : Nat) (x : Partition) : (s.setPart k x).secState = s.secState := rfl
@[simp] theorem setPart_dbg (s : State) (k : Nat) (x : Partition) : (s.setPart k x).dbg = s.dbg := rfl
@[simp] theorem setPart_dbgctl (s : State) (k : Nat) (x : Partition) : (s.setPart k x).dbgctl = s.dbgctl := rfl
@[simp] theorem setPart_grant (s : State) (k : Nat) (x : Partition) : (s.setPart k x).grant = s.grant := rfl
@[simp] theorem setPart_minsvn (s : State) (k : Nat) (x : Partition) : (s.setPart k x).minsvn = s.minsvn := rfl
@[simp] theorem setPart_ident (s : State) (k : Nat) (x : Partition) : (s.setPart k x).ident = s.ident := rfl
@[simp] theorem setPart_served (s : State) (k : Nat) (x : Partition) : (s.setPart k x).served = s.served := rfl
@[simp] theorem setPart_l1 (s : State) (k : Nat) (x : Partition) : (s.setPart k x).l1 = s.l1 := rfl
@[simp] theorem setPart_rdc (s : State) (k : Nat) (x : Partition) : (s.setPart k x).rdc = s.rdc := rfl
@[simp] theorem setPart_slices (s : State) (k : Nat) (x : Partition) : (s.setPart k x).slices = s.slices := rfl
@[simp] theorem setPart_rim (s : State) (k : Nat) (x : Partition) : (s.setPart k x).rim = s.rim := rfl
@[simp] theorem setPart_rimUses (s : State) (k : Nat) (x : Partition) : (s.setPart k x).rimUses = s.rimUses := rfl
@[simp] theorem setPart_meas (s : State) (k : Nat) (x : Partition) : (s.setPart k x).meas = s.meas := rfl
@[simp] theorem setPart_booted (s : State) (k : Nat) (x : Partition) : (s.setPart k x).booted = s.booted := rfl
@[simp] theorem setPart_power (s : State) (k : Nat) (x : Partition) : (s.setPart k x).power = s.power := rfl
@[simp] theorem setPart_wakeAt (s : State) (k : Nat) (x : Partition) : (s.setPart k x).wakeAt = s.wakeAt := rfl
@[simp] theorem setPart_hostHeld (s : State) (k : Nat) (x : Partition) : (s.setPart k x).hostHeld = s.hostHeld := rfl
@[simp] theorem setPart_slept (s : State) (k : Nat) (x : Partition) : (s.setPart k x).slept = s.slept := rfl
@[simp] theorem setPart_traffic (s : State) (k : Nat) (x : Partition) : (s.setPart k x).traffic = s.traffic := rfl
@[simp] theorem setPart_salhal (s : State) (k : Nat) (x : Partition) : (s.setPart k x).salhal = s.salhal := rfl
@[simp] theorem setPart_cur (s : State) (k : Nat) (x : Partition) : (s.setPart k x).cur = s.cur := rfl
@[simp] theorem setPart_agenda (s : State) (k : Nat) (x : Partition) : (s.setPart k x).agenda = s.agenda := rfl
@[simp] theorem setPart_turns (s : State) (k : Nat) (x : Partition) : (s.setPart k x).turns = s.turns := rfl
@[simp] theorem setPart_ticks (s : State) (k : Nat) (x : Partition) : (s.setPart k x).ticks = s.ticks := rfl
@[simp] theorem setPart_lags (s : State) (k : Nat) (x : Partition) : (s.setPart k x).lags = s.lags := rfl
@[simp] theorem setPart_fresh (s : State) (k : Nat) (x : Partition) : (s.setPart k x).fresh = s.fresh := rfl
@[simp] theorem setPart_refilled (s : State) (k : Nat) (x : Partition) : (s.setPart k x).refilled = s.refilled := rfl
@[simp] theorem setPart_lastTurn (s : State) (k : Nat) (x : Partition) : (s.setPart k x).lastTurn = s.lastTurn := rfl
@[simp] theorem setPort_mem (s : State) (k : Nat) (x : Port) : (s.setPort k x).mem = s.mem := rfl
@[simp] theorem setPort_poisoned (s : State) (k : Nat) (x : Port) : (s.setPort k x).poisoned = s.poisoned := rfl
@[simp] theorem setPort_gtime (s : State) (k : Nat) (x : Port) : (s.setPort k x).gtime = s.gtime := rfl
@[simp] theorem setPort_cycles (s : State) (k : Nat) (x : Port) : (s.setPort k x).cycles = s.cycles := rfl
@[simp] theorem setPort_strands (s : State) (k : Nat) (x : Port) : (s.setPort k x).strands = s.strands := rfl
@[simp] theorem setPort_cores (s : State) (k : Nat) (x : Port) : (s.setPort k x).cores = s.cores := rfl
@[simp] theorem setPort_clusters (s : State) (k : Nat) (x : Port) : (s.setPort k x).clusters = s.clusters := rfl
@[simp] theorem setPort_parts (s : State) (k : Nat) (x : Port) : (s.setPort k x).parts = s.parts := rfl
@[simp] theorem setPort_monitors (s : State) (k : Nat) (x : Port) : (s.setPort k x).monitors = s.monitors := rfl
@[simp] theorem setPort_net (s : State) (k : Nat) (x : Port) : (s.setPort k x).net = s.net := rfl
@[simp] theorem setPort_sent (s : State) (k : Nat) (x : Port) : (s.setPort k x).sent = s.sent := rfl
@[simp] theorem setPort_acks (s : State) (k : Nat) (x : Port) : (s.setPort k x).acks = s.acks := rfl
@[simp] theorem setPort_tlb (s : State) (k : Nat) (x : Port) : (s.setPort k x).tlb = s.tlb := rfl
@[simp] theorem setPort_tlbinv (s : State) (k : Nat) (x : Port) : (s.setPort k x).tlbinv = s.tlbinv := rfl
@[simp] theorem setPort_gangs (s : State) (k : Nat) (x : Port) : (s.setPort k x).gangs = s.gangs := rfl
@[simp] theorem setPort_lines (s : State) (k : Nat) (x : Port) : (s.setPort k x).lines = s.lines := rfl
@[simp] theorem setPort_cellsSem (s : State) (k : Nat) (x : Port) : (s.setPort k x).cellsSem = s.cellsSem := rfl
@[simp] theorem setPort_domain (s : State) (k : Nat) (x : Port) : (s.setPort k x).domain = s.domain := rfl
@[simp] theorem setPort_modules (s : State) (k : Nat) (x : Port) : (s.setPort k x).modules = s.modules := rfl
@[simp] theorem setPort_hdmBase (s : State) (k : Nat) (x : Port) : (s.setPort k x).hdmBase = s.hdmBase := rfl
@[simp] theorem setPort_hdmSize (s : State) (k : Nat) (x : Port) : (s.setPort k x).hdmSize = s.hdmSize := rfl
@[simp] theorem setPort_prodFuse (s : State) (k : Nat) (x : Port) : (s.setPort k x).prodFuse = s.prodFuse := rfl
@[simp] theorem setPort_secState (s : State) (k : Nat) (x : Port) : (s.setPort k x).secState = s.secState := rfl
@[simp] theorem setPort_dbg (s : State) (k : Nat) (x : Port) : (s.setPort k x).dbg = s.dbg := rfl
@[simp] theorem setPort_dbgctl (s : State) (k : Nat) (x : Port) : (s.setPort k x).dbgctl = s.dbgctl := rfl
@[simp] theorem setPort_grant (s : State) (k : Nat) (x : Port) : (s.setPort k x).grant = s.grant := rfl
@[simp] theorem setPort_minsvn (s : State) (k : Nat) (x : Port) : (s.setPort k x).minsvn = s.minsvn := rfl
@[simp] theorem setPort_ident (s : State) (k : Nat) (x : Port) : (s.setPort k x).ident = s.ident := rfl
@[simp] theorem setPort_served (s : State) (k : Nat) (x : Port) : (s.setPort k x).served = s.served := rfl
@[simp] theorem setPort_l1 (s : State) (k : Nat) (x : Port) : (s.setPort k x).l1 = s.l1 := rfl
@[simp] theorem setPort_rdc (s : State) (k : Nat) (x : Port) : (s.setPort k x).rdc = s.rdc := rfl
@[simp] theorem setPort_slices (s : State) (k : Nat) (x : Port) : (s.setPort k x).slices = s.slices := rfl
@[simp] theorem setPort_rim (s : State) (k : Nat) (x : Port) : (s.setPort k x).rim = s.rim := rfl
@[simp] theorem setPort_rimUses (s : State) (k : Nat) (x : Port) : (s.setPort k x).rimUses = s.rimUses := rfl
@[simp] theorem setPort_meas (s : State) (k : Nat) (x : Port) : (s.setPort k x).meas = s.meas := rfl
@[simp] theorem setPort_booted (s : State) (k : Nat) (x : Port) : (s.setPort k x).booted = s.booted := rfl
@[simp] theorem setPort_power (s : State) (k : Nat) (x : Port) : (s.setPort k x).power = s.power := rfl
@[simp] theorem setPort_wakeAt (s : State) (k : Nat) (x : Port) : (s.setPort k x).wakeAt = s.wakeAt := rfl
@[simp] theorem setPort_hostHeld (s : State) (k : Nat) (x : Port) : (s.setPort k x).hostHeld = s.hostHeld := rfl
@[simp] theorem setPort_slept (s : State) (k : Nat) (x : Port) : (s.setPort k x).slept = s.slept := rfl
@[simp] theorem setPort_traffic (s : State) (k : Nat) (x : Port) : (s.setPort k x).traffic = s.traffic := rfl
@[simp] theorem setPort_salhal (s : State) (k : Nat) (x : Port) : (s.setPort k x).salhal = s.salhal := rfl
@[simp] theorem setPort_cur (s : State) (k : Nat) (x : Port) : (s.setPort k x).cur = s.cur := rfl
@[simp] theorem setPort_agenda (s : State) (k : Nat) (x : Port) : (s.setPort k x).agenda = s.agenda := rfl
@[simp] theorem setPort_turns (s : State) (k : Nat) (x : Port) : (s.setPort k x).turns = s.turns := rfl
@[simp] theorem setPort_ticks (s : State) (k : Nat) (x : Port) : (s.setPort k x).ticks = s.ticks := rfl
@[simp] theorem setPort_lags (s : State) (k : Nat) (x : Port) : (s.setPort k x).lags = s.lags := rfl
@[simp] theorem setPort_fresh (s : State) (k : Nat) (x : Port) : (s.setPort k x).fresh = s.fresh := rfl
@[simp] theorem setPort_refilled (s : State) (k : Nat) (x : Port) : (s.setPort k x).refilled = s.refilled := rfl
@[simp] theorem setPort_lastTurn (s : State) (k : Nat) (x : Port) : (s.setPort k x).lastTurn = s.lastTurn := rfl
@[simp] theorem setMonitor_mem (s : State) (k : Nat) (x : Monitor) : (s.setMonitor k x).mem = s.mem := rfl
@[simp] theorem setMonitor_poisoned (s : State) (k : Nat) (x : Monitor) : (s.setMonitor k x).poisoned = s.poisoned := rfl
@[simp] theorem setMonitor_gtime (s : State) (k : Nat) (x : Monitor) : (s.setMonitor k x).gtime = s.gtime := rfl
@[simp] theorem setMonitor_cycles (s : State) (k : Nat) (x : Monitor) : (s.setMonitor k x).cycles = s.cycles := rfl
@[simp] theorem setMonitor_strands (s : State) (k : Nat) (x : Monitor) : (s.setMonitor k x).strands = s.strands := rfl
@[simp] theorem setMonitor_cores (s : State) (k : Nat) (x : Monitor) : (s.setMonitor k x).cores = s.cores := rfl
@[simp] theorem setMonitor_clusters (s : State) (k : Nat) (x : Monitor) : (s.setMonitor k x).clusters = s.clusters := rfl
@[simp] theorem setMonitor_parts (s : State) (k : Nat) (x : Monitor) : (s.setMonitor k x).parts = s.parts := rfl
@[simp] theorem setMonitor_ports (s : State) (k : Nat) (x : Monitor) : (s.setMonitor k x).ports = s.ports := rfl
@[simp] theorem setMonitor_net (s : State) (k : Nat) (x : Monitor) : (s.setMonitor k x).net = s.net := rfl
@[simp] theorem setMonitor_sent (s : State) (k : Nat) (x : Monitor) : (s.setMonitor k x).sent = s.sent := rfl
@[simp] theorem setMonitor_acks (s : State) (k : Nat) (x : Monitor) : (s.setMonitor k x).acks = s.acks := rfl
@[simp] theorem setMonitor_tlb (s : State) (k : Nat) (x : Monitor) : (s.setMonitor k x).tlb = s.tlb := rfl
@[simp] theorem setMonitor_tlbinv (s : State) (k : Nat) (x : Monitor) : (s.setMonitor k x).tlbinv = s.tlbinv := rfl
@[simp] theorem setMonitor_gangs (s : State) (k : Nat) (x : Monitor) : (s.setMonitor k x).gangs = s.gangs := rfl
@[simp] theorem setMonitor_lines (s : State) (k : Nat) (x : Monitor) : (s.setMonitor k x).lines = s.lines := rfl
@[simp] theorem setMonitor_cellsSem (s : State) (k : Nat) (x : Monitor) : (s.setMonitor k x).cellsSem = s.cellsSem := rfl
@[simp] theorem setMonitor_domain (s : State) (k : Nat) (x : Monitor) : (s.setMonitor k x).domain = s.domain := rfl
@[simp] theorem setMonitor_modules (s : State) (k : Nat) (x : Monitor) : (s.setMonitor k x).modules = s.modules := rfl
@[simp] theorem setMonitor_hdmBase (s : State) (k : Nat) (x : Monitor) : (s.setMonitor k x).hdmBase = s.hdmBase := rfl
@[simp] theorem setMonitor_hdmSize (s : State) (k : Nat) (x : Monitor) : (s.setMonitor k x).hdmSize = s.hdmSize := rfl
@[simp] theorem setMonitor_prodFuse (s : State) (k : Nat) (x : Monitor) : (s.setMonitor k x).prodFuse = s.prodFuse := rfl
@[simp] theorem setMonitor_secState (s : State) (k : Nat) (x : Monitor) : (s.setMonitor k x).secState = s.secState := rfl
@[simp] theorem setMonitor_dbg (s : State) (k : Nat) (x : Monitor) : (s.setMonitor k x).dbg = s.dbg := rfl
@[simp] theorem setMonitor_dbgctl (s : State) (k : Nat) (x : Monitor) : (s.setMonitor k x).dbgctl = s.dbgctl := rfl
@[simp] theorem setMonitor_grant (s : State) (k : Nat) (x : Monitor) : (s.setMonitor k x).grant = s.grant := rfl
@[simp] theorem setMonitor_minsvn (s : State) (k : Nat) (x : Monitor) : (s.setMonitor k x).minsvn = s.minsvn := rfl
@[simp] theorem setMonitor_ident (s : State) (k : Nat) (x : Monitor) : (s.setMonitor k x).ident = s.ident := rfl
@[simp] theorem setMonitor_served (s : State) (k : Nat) (x : Monitor) : (s.setMonitor k x).served = s.served := rfl
@[simp] theorem setMonitor_l1 (s : State) (k : Nat) (x : Monitor) : (s.setMonitor k x).l1 = s.l1 := rfl
@[simp] theorem setMonitor_rdc (s : State) (k : Nat) (x : Monitor) : (s.setMonitor k x).rdc = s.rdc := rfl
@[simp] theorem setMonitor_slices (s : State) (k : Nat) (x : Monitor) : (s.setMonitor k x).slices = s.slices := rfl
@[simp] theorem setMonitor_rim (s : State) (k : Nat) (x : Monitor) : (s.setMonitor k x).rim = s.rim := rfl
@[simp] theorem setMonitor_rimUses (s : State) (k : Nat) (x : Monitor) : (s.setMonitor k x).rimUses = s.rimUses := rfl
@[simp] theorem setMonitor_meas (s : State) (k : Nat) (x : Monitor) : (s.setMonitor k x).meas = s.meas := rfl
@[simp] theorem setMonitor_booted (s : State) (k : Nat) (x : Monitor) : (s.setMonitor k x).booted = s.booted := rfl
@[simp] theorem setMonitor_power (s : State) (k : Nat) (x : Monitor) : (s.setMonitor k x).power = s.power := rfl
@[simp] theorem setMonitor_wakeAt (s : State) (k : Nat) (x : Monitor) : (s.setMonitor k x).wakeAt = s.wakeAt := rfl
@[simp] theorem setMonitor_hostHeld (s : State) (k : Nat) (x : Monitor) : (s.setMonitor k x).hostHeld = s.hostHeld := rfl
@[simp] theorem setMonitor_slept (s : State) (k : Nat) (x : Monitor) : (s.setMonitor k x).slept = s.slept := rfl
@[simp] theorem setMonitor_traffic (s : State) (k : Nat) (x : Monitor) : (s.setMonitor k x).traffic = s.traffic := rfl
@[simp] theorem setMonitor_salhal (s : State) (k : Nat) (x : Monitor) : (s.setMonitor k x).salhal = s.salhal := rfl
@[simp] theorem setMonitor_cur (s : State) (k : Nat) (x : Monitor) : (s.setMonitor k x).cur = s.cur := rfl
@[simp] theorem setMonitor_agenda (s : State) (k : Nat) (x : Monitor) : (s.setMonitor k x).agenda = s.agenda := rfl
@[simp] theorem setMonitor_turns (s : State) (k : Nat) (x : Monitor) : (s.setMonitor k x).turns = s.turns := rfl
@[simp] theorem setMonitor_ticks (s : State) (k : Nat) (x : Monitor) : (s.setMonitor k x).ticks = s.ticks := rfl
@[simp] theorem setMonitor_lags (s : State) (k : Nat) (x : Monitor) : (s.setMonitor k x).lags = s.lags := rfl
@[simp] theorem setMonitor_fresh (s : State) (k : Nat) (x : Monitor) : (s.setMonitor k x).fresh = s.fresh := rfl
@[simp] theorem setMonitor_refilled (s : State) (k : Nat) (x : Monitor) : (s.setMonitor k x).refilled = s.refilled := rfl
@[simp] theorem setMonitor_lastTurn (s : State) (k : Nat) (x : Monitor) : (s.setMonitor k x).lastTurn = s.lastTurn := rfl
@[simp] theorem setMe_mem (s : State) (t : Strand) : (s.setMe t).mem = s.mem := rfl
@[simp] theorem setMe_poisoned (s : State) (t : Strand) : (s.setMe t).poisoned = s.poisoned := rfl
@[simp] theorem setMe_gtime (s : State) (t : Strand) : (s.setMe t).gtime = s.gtime := rfl
@[simp] theorem setMe_cycles (s : State) (t : Strand) : (s.setMe t).cycles = s.cycles := rfl
@[simp] theorem setMe_cores (s : State) (t : Strand) : (s.setMe t).cores = s.cores := rfl
@[simp] theorem setMe_clusters (s : State) (t : Strand) : (s.setMe t).clusters = s.clusters := rfl
@[simp] theorem setMe_parts (s : State) (t : Strand) : (s.setMe t).parts = s.parts := rfl
@[simp] theorem setMe_monitors (s : State) (t : Strand) : (s.setMe t).monitors = s.monitors := rfl
@[simp] theorem setMe_ports (s : State) (t : Strand) : (s.setMe t).ports = s.ports := rfl
@[simp] theorem setMe_net (s : State) (t : Strand) : (s.setMe t).net = s.net := rfl
@[simp] theorem setMe_sent (s : State) (t : Strand) : (s.setMe t).sent = s.sent := rfl
@[simp] theorem setMe_acks (s : State) (t : Strand) : (s.setMe t).acks = s.acks := rfl
@[simp] theorem setMe_tlb (s : State) (t : Strand) : (s.setMe t).tlb = s.tlb := rfl
@[simp] theorem setMe_tlbinv (s : State) (t : Strand) : (s.setMe t).tlbinv = s.tlbinv := rfl
@[simp] theorem setMe_gangs (s : State) (t : Strand) : (s.setMe t).gangs = s.gangs := rfl
@[simp] theorem setMe_lines (s : State) (t : Strand) : (s.setMe t).lines = s.lines := rfl
@[simp] theorem setMe_cellsSem (s : State) (t : Strand) : (s.setMe t).cellsSem = s.cellsSem := rfl
@[simp] theorem setMe_domain (s : State) (t : Strand) : (s.setMe t).domain = s.domain := rfl
@[simp] theorem setMe_modules (s : State) (t : Strand) : (s.setMe t).modules = s.modules := rfl
@[simp] theorem setMe_hdmBase (s : State) (t : Strand) : (s.setMe t).hdmBase = s.hdmBase := rfl
@[simp] theorem setMe_hdmSize (s : State) (t : Strand) : (s.setMe t).hdmSize = s.hdmSize := rfl
@[simp] theorem setMe_prodFuse (s : State) (t : Strand) : (s.setMe t).prodFuse = s.prodFuse := rfl
@[simp] theorem setMe_secState (s : State) (t : Strand) : (s.setMe t).secState = s.secState := rfl
@[simp] theorem setMe_dbg (s : State) (t : Strand) : (s.setMe t).dbg = s.dbg := rfl
@[simp] theorem setMe_dbgctl (s : State) (t : Strand) : (s.setMe t).dbgctl = s.dbgctl := rfl
@[simp] theorem setMe_grant (s : State) (t : Strand) : (s.setMe t).grant = s.grant := rfl
@[simp] theorem setMe_minsvn (s : State) (t : Strand) : (s.setMe t).minsvn = s.minsvn := rfl
@[simp] theorem setMe_ident (s : State) (t : Strand) : (s.setMe t).ident = s.ident := rfl
@[simp] theorem setMe_served (s : State) (t : Strand) : (s.setMe t).served = s.served := rfl
@[simp] theorem setMe_l1 (s : State) (t : Strand) : (s.setMe t).l1 = s.l1 := rfl
@[simp] theorem setMe_rdc (s : State) (t : Strand) : (s.setMe t).rdc = s.rdc := rfl
@[simp] theorem setMe_slices (s : State) (t : Strand) : (s.setMe t).slices = s.slices := rfl
@[simp] theorem setMe_rim (s : State) (t : Strand) : (s.setMe t).rim = s.rim := rfl
@[simp] theorem setMe_rimUses (s : State) (t : Strand) : (s.setMe t).rimUses = s.rimUses := rfl
@[simp] theorem setMe_meas (s : State) (t : Strand) : (s.setMe t).meas = s.meas := rfl
@[simp] theorem setMe_booted (s : State) (t : Strand) : (s.setMe t).booted = s.booted := rfl
@[simp] theorem setMe_power (s : State) (t : Strand) : (s.setMe t).power = s.power := rfl
@[simp] theorem setMe_wakeAt (s : State) (t : Strand) : (s.setMe t).wakeAt = s.wakeAt := rfl
@[simp] theorem setMe_hostHeld (s : State) (t : Strand) : (s.setMe t).hostHeld = s.hostHeld := rfl
@[simp] theorem setMe_slept (s : State) (t : Strand) : (s.setMe t).slept = s.slept := rfl
@[simp] theorem setMe_traffic (s : State) (t : Strand) : (s.setMe t).traffic = s.traffic := rfl
@[simp] theorem setMe_salhal (s : State) (t : Strand) : (s.setMe t).salhal = s.salhal := rfl
@[simp] theorem setMe_cur (s : State) (t : Strand) : (s.setMe t).cur = s.cur := rfl
@[simp] theorem setMe_agenda (s : State) (t : Strand) : (s.setMe t).agenda = s.agenda := rfl
@[simp] theorem setMe_turns (s : State) (t : Strand) : (s.setMe t).turns = s.turns := rfl
@[simp] theorem setMe_ticks (s : State) (t : Strand) : (s.setMe t).ticks = s.ticks := rfl
@[simp] theorem setMe_lags (s : State) (t : Strand) : (s.setMe t).lags = s.lags := rfl
@[simp] theorem setMe_fresh (s : State) (t : Strand) : (s.setMe t).fresh = s.fresh := rfl
@[simp] theorem setMe_refilled (s : State) (t : Strand) : (s.setMe t).refilled = s.refilled := rfl
@[simp] theorem setMe_lastTurn (s : State) (t : Strand) : (s.setMe t).lastTurn = s.lastTurn := rfl
@[simp] theorem writeByte_gtime (s : State) (a : Nat) (x : Byte) : (s.writeByte a x).gtime = s.gtime := rfl
@[simp] theorem writeByte_cycles (s : State) (a : Nat) (x : Byte) : (s.writeByte a x).cycles = s.cycles := rfl
@[simp] theorem writeByte_strands (s : State) (a : Nat) (x : Byte) : (s.writeByte a x).strands = s.strands := rfl
@[simp] theorem writeByte_cores (s : State) (a : Nat) (x : Byte) : (s.writeByte a x).cores = s.cores := rfl
@[simp] theorem writeByte_clusters (s : State) (a : Nat) (x : Byte) : (s.writeByte a x).clusters = s.clusters := rfl
@[simp] theorem writeByte_parts (s : State) (a : Nat) (x : Byte) : (s.writeByte a x).parts = s.parts := rfl
@[simp] theorem writeByte_monitors (s : State) (a : Nat) (x : Byte) : (s.writeByte a x).monitors = s.monitors := rfl
@[simp] theorem writeByte_ports (s : State) (a : Nat) (x : Byte) : (s.writeByte a x).ports = s.ports := rfl
@[simp] theorem writeByte_net (s : State) (a : Nat) (x : Byte) : (s.writeByte a x).net = s.net := rfl
@[simp] theorem writeByte_sent (s : State) (a : Nat) (x : Byte) : (s.writeByte a x).sent = s.sent := rfl
@[simp] theorem writeByte_acks (s : State) (a : Nat) (x : Byte) : (s.writeByte a x).acks = s.acks := rfl
@[simp] theorem writeByte_tlb (s : State) (a : Nat) (x : Byte) : (s.writeByte a x).tlb = s.tlb := rfl
@[simp] theorem writeByte_tlbinv (s : State) (a : Nat) (x : Byte) : (s.writeByte a x).tlbinv = s.tlbinv := rfl
@[simp] theorem writeByte_gangs (s : State) (a : Nat) (x : Byte) : (s.writeByte a x).gangs = s.gangs := rfl
@[simp] theorem writeByte_lines (s : State) (a : Nat) (x : Byte) : (s.writeByte a x).lines = s.lines := rfl
@[simp] theorem writeByte_cellsSem (s : State) (a : Nat) (x : Byte) : (s.writeByte a x).cellsSem = s.cellsSem := rfl
@[simp] theorem writeByte_domain (s : State) (a : Nat) (x : Byte) : (s.writeByte a x).domain = s.domain := rfl
@[simp] theorem writeByte_modules (s : State) (a : Nat) (x : Byte) : (s.writeByte a x).modules = s.modules := rfl
@[simp] theorem writeByte_hdmBase (s : State) (a : Nat) (x : Byte) : (s.writeByte a x).hdmBase = s.hdmBase := rfl
@[simp] theorem writeByte_hdmSize (s : State) (a : Nat) (x : Byte) : (s.writeByte a x).hdmSize = s.hdmSize := rfl
@[simp] theorem writeByte_prodFuse (s : State) (a : Nat) (x : Byte) : (s.writeByte a x).prodFuse = s.prodFuse := rfl
@[simp] theorem writeByte_secState (s : State) (a : Nat) (x : Byte) : (s.writeByte a x).secState = s.secState := rfl
@[simp] theorem writeByte_dbg (s : State) (a : Nat) (x : Byte) : (s.writeByte a x).dbg = s.dbg := rfl
@[simp] theorem writeByte_dbgctl (s : State) (a : Nat) (x : Byte) : (s.writeByte a x).dbgctl = s.dbgctl := rfl
@[simp] theorem writeByte_grant (s : State) (a : Nat) (x : Byte) : (s.writeByte a x).grant = s.grant := rfl
@[simp] theorem writeByte_minsvn (s : State) (a : Nat) (x : Byte) : (s.writeByte a x).minsvn = s.minsvn := rfl
@[simp] theorem writeByte_ident (s : State) (a : Nat) (x : Byte) : (s.writeByte a x).ident = s.ident := rfl
@[simp] theorem writeByte_served (s : State) (a : Nat) (x : Byte) : (s.writeByte a x).served = s.served := rfl
@[simp] theorem writeByte_rim (s : State) (a : Nat) (x : Byte) : (s.writeByte a x).rim = s.rim := rfl
@[simp] theorem writeByte_rimUses (s : State) (a : Nat) (x : Byte) : (s.writeByte a x).rimUses = s.rimUses := rfl
@[simp] theorem writeByte_meas (s : State) (a : Nat) (x : Byte) : (s.writeByte a x).meas = s.meas := rfl
@[simp] theorem writeByte_booted (s : State) (a : Nat) (x : Byte) : (s.writeByte a x).booted = s.booted := rfl
@[simp] theorem writeByte_power (s : State) (a : Nat) (x : Byte) : (s.writeByte a x).power = s.power := rfl
@[simp] theorem writeByte_wakeAt (s : State) (a : Nat) (x : Byte) : (s.writeByte a x).wakeAt = s.wakeAt := rfl
@[simp] theorem writeByte_hostHeld (s : State) (a : Nat) (x : Byte) : (s.writeByte a x).hostHeld = s.hostHeld := rfl
@[simp] theorem writeByte_slept (s : State) (a : Nat) (x : Byte) : (s.writeByte a x).slept = s.slept := rfl
@[simp] theorem writeByte_traffic (s : State) (a : Nat) (x : Byte) : (s.writeByte a x).traffic = s.traffic := rfl
@[simp] theorem writeByte_salhal (s : State) (a : Nat) (x : Byte) : (s.writeByte a x).salhal = s.salhal := rfl
@[simp] theorem writeByte_cur (s : State) (a : Nat) (x : Byte) : (s.writeByte a x).cur = s.cur := rfl
@[simp] theorem writeByte_agenda (s : State) (a : Nat) (x : Byte) : (s.writeByte a x).agenda = s.agenda := rfl
@[simp] theorem writeByte_turns (s : State) (a : Nat) (x : Byte) : (s.writeByte a x).turns = s.turns := rfl
@[simp] theorem writeByte_ticks (s : State) (a : Nat) (x : Byte) : (s.writeByte a x).ticks = s.ticks := rfl
@[simp] theorem writeByte_lags (s : State) (a : Nat) (x : Byte) : (s.writeByte a x).lags = s.lags := rfl
@[simp] theorem writeByte_fresh (s : State) (a : Nat) (x : Byte) : (s.writeByte a x).fresh = s.fresh := rfl
@[simp] theorem writeByte_refilled (s : State) (a : Nat) (x : Byte) : (s.writeByte a x).refilled = s.refilled := rfl
@[simp] theorem writeByte_lastTurn (s : State) (a : Nat) (x : Byte) : (s.writeByte a x).lastTurn = s.lastTurn := rfl

/-! ## Fields of a strand -/
@[simp] theorem advance_kind (t : Strand) : (t.advance).kind = t.kind := rfl
@[simp] theorem advance_g (t : Strand) : (t.advance).g = t.g := rfl
@[simp] theorem advance_f (t : Strand) : (t.advance).f = t.f := rfl
@[simp] theorem advance_v (t : Strand) : (t.advance).v = t.v := rfl
@[simp] theorem advance_m (t : Strand) : (t.advance).m = t.m := rfl
@[simp] theorem advance_mode (t : Strand) : (t.advance).mode = t.mode := rfl
@[simp] theorem advance_fstat (t : Strand) : (t.advance).fstat = t.fstat := rfl
@[simp] theorem advance_vl (t : Strand) : (t.advance).vl = t.vl := rfl
@[simp] theorem advance_estart (t : Strand) : (t.advance).estart = t.estart := rfl
@[simp] theorem advance_usc (t : Strand) : (t.advance).usc = t.usc := rfl
@[simp] theorem advance_nfmt (t : Strand) : (t.advance).nfmt = t.nfmt := rfl
@[simp] theorem advance_mxblk (t : Strand) : (t.advance).mxblk = t.mxblk := rfl
@[simp] theorem advance_rngkey (t : Strand) : (t.advance).rngkey = t.rngkey := rfl
@[simp] theorem advance_rngctr (t : Strand) : (t.advance).rngctr = t.rngctr := rfl
@[simp] theorem advance_adopted (t : Strand) : (t.advance).adopted = t.adopted := rfl
@[simp] theorem advance_gang (t : Strand) : (t.advance).gang = t.gang := rfl
@[simp] theorem advance_member (t : Strand) : (t.advance).member = t.member := rfl
@[simp] theorem advance_sizem1 (t : Strand) : (t.advance).sizem1 = t.sizem1 := rfl
@[simp] theorem advance_prio (t : Strand) : (t.advance).prio = t.prio := rfl
@[simp] theorem advance_fmask (t : Strand) : (t.advance).fmask = t.fmask := rfl
@[simp] theorem advance_utvec (t : Strand) : (t.advance).utvec = t.utvec := rfl
@[simp] theorem advance_uepc (t : Strand) : (t.advance).uepc = t.uepc := rfl
@[simp] theorem advance_ucause (t : Strand) : (t.advance).ucause = t.ucause := rfl
@[simp] theorem advance_uaddr (t : Strand) : (t.advance).uaddr = t.uaddr := rfl
@[simp] theorem advance_uinfo (t : Strand) : (t.advance).uinfo = t.uinfo := rfl
@[simp] theorem advance_sstatus (t : Strand) : (t.advance).sstatus = t.sstatus := rfl
@[simp] theorem advance_sepc (t : Strand) : (t.advance).sepc = t.sepc := rfl
@[simp] theorem advance_scause (t : Strand) : (t.advance).scause = t.scause := rfl
@[simp] theorem advance_saddr (t : Strand) : (t.advance).saddr = t.saddr := rfl
@[simp] theorem advance_sinfo (t : Strand) : (t.advance).sinfo = t.sinfo := rfl
@[simp] theorem advance_fstatus (t : Strand) : (t.advance).fstatus = t.fstatus := rfl
@[simp] theorem advance_fepc (t : Strand) : (t.advance).fepc = t.fepc := rfl
@[simp] theorem advance_fcause (t : Strand) : (t.advance).fcause = t.fcause := rfl
@[simp] theorem advance_marks (t : Strand) : (t.advance).marks = t.marks := rfl
@[simp] theorem advance_vpend (t : Strand) : (t.advance).vpend = t.vpend := rfl
@[simp] theorem advance_vland (t : Strand) : (t.advance).vland = t.vland := rfl
@[simp] theorem advance_harvest (t : Strand) : (t.advance).harvest = t.harvest := rfl
@[simp] theorem advance_age (t : Strand) : (t.advance).age = t.age := rfl
@[simp] theorem advance_timer (t : Strand) : (t.advance).timer = t.timer := rfl
@[simp] theorem advance_fetched (t : Strand) : (t.advance).fetched = t.fetched := rfl
@[simp] theorem advance_fenced (t : Strand) : (t.advance).fenced = t.fenced := rfl
@[simp] theorem advance_nextIssue (t : Strand) : (t.advance).nextIssue = t.nextIssue := rfl
@[simp] theorem addFlags_kind (t : Strand) (fl : BitVec 8) : (t.addFlags fl).kind = t.kind := rfl
@[simp] theorem addFlags_pc (t : Strand) (fl : BitVec 8) : (t.addFlags fl).pc = t.pc := rfl
@[simp] theorem addFlags_g (t : Strand) (fl : BitVec 8) : (t.addFlags fl).g = t.g := rfl
@[simp] theorem addFlags_f (t : Strand) (fl : BitVec 8) : (t.addFlags fl).f = t.f := rfl
@[simp] theorem addFlags_v (t : Strand) (fl : BitVec 8) : (t.addFlags fl).v = t.v := rfl
@[simp] theorem addFlags_m (t : Strand) (fl : BitVec 8) : (t.addFlags fl).m = t.m := rfl
@[simp] theorem addFlags_mode (t : Strand) (fl : BitVec 8) : (t.addFlags fl).mode = t.mode := rfl
@[simp] theorem addFlags_vl (t : Strand) (fl : BitVec 8) : (t.addFlags fl).vl = t.vl := rfl
@[simp] theorem addFlags_estart (t : Strand) (fl : BitVec 8) : (t.addFlags fl).estart = t.estart := rfl
@[simp] theorem addFlags_usc (t : Strand) (fl : BitVec 8) : (t.addFlags fl).usc = t.usc := rfl
@[simp] theorem addFlags_nfmt (t : Strand) (fl : BitVec 8) : (t.addFlags fl).nfmt = t.nfmt := rfl
@[simp] theorem addFlags_mxblk (t : Strand) (fl : BitVec 8) : (t.addFlags fl).mxblk = t.mxblk := rfl
@[simp] theorem addFlags_rngkey (t : Strand) (fl : BitVec 8) : (t.addFlags fl).rngkey = t.rngkey := rfl
@[simp] theorem addFlags_rngctr (t : Strand) (fl : BitVec 8) : (t.addFlags fl).rngctr = t.rngctr := rfl
@[simp] theorem addFlags_adopted (t : Strand) (fl : BitVec 8) : (t.addFlags fl).adopted = t.adopted := rfl
@[simp] theorem addFlags_gang (t : Strand) (fl : BitVec 8) : (t.addFlags fl).gang = t.gang := rfl
@[simp] theorem addFlags_member (t : Strand) (fl : BitVec 8) : (t.addFlags fl).member = t.member := rfl
@[simp] theorem addFlags_sizem1 (t : Strand) (fl : BitVec 8) : (t.addFlags fl).sizem1 = t.sizem1 := rfl
@[simp] theorem addFlags_prio (t : Strand) (fl : BitVec 8) : (t.addFlags fl).prio = t.prio := rfl
@[simp] theorem addFlags_fmask (t : Strand) (fl : BitVec 8) : (t.addFlags fl).fmask = t.fmask := rfl
@[simp] theorem addFlags_utvec (t : Strand) (fl : BitVec 8) : (t.addFlags fl).utvec = t.utvec := rfl
@[simp] theorem addFlags_uepc (t : Strand) (fl : BitVec 8) : (t.addFlags fl).uepc = t.uepc := rfl
@[simp] theorem addFlags_ucause (t : Strand) (fl : BitVec 8) : (t.addFlags fl).ucause = t.ucause := rfl
@[simp] theorem addFlags_uaddr (t : Strand) (fl : BitVec 8) : (t.addFlags fl).uaddr = t.uaddr := rfl
@[simp] theorem addFlags_uinfo (t : Strand) (fl : BitVec 8) : (t.addFlags fl).uinfo = t.uinfo := rfl
@[simp] theorem addFlags_sstatus (t : Strand) (fl : BitVec 8) : (t.addFlags fl).sstatus = t.sstatus := rfl
@[simp] theorem addFlags_sepc (t : Strand) (fl : BitVec 8) : (t.addFlags fl).sepc = t.sepc := rfl
@[simp] theorem addFlags_scause (t : Strand) (fl : BitVec 8) : (t.addFlags fl).scause = t.scause := rfl
@[simp] theorem addFlags_saddr (t : Strand) (fl : BitVec 8) : (t.addFlags fl).saddr = t.saddr := rfl
@[simp] theorem addFlags_sinfo (t : Strand) (fl : BitVec 8) : (t.addFlags fl).sinfo = t.sinfo := rfl
@[simp] theorem addFlags_fstatus (t : Strand) (fl : BitVec 8) : (t.addFlags fl).fstatus = t.fstatus := rfl
@[simp] theorem addFlags_fepc (t : Strand) (fl : BitVec 8) : (t.addFlags fl).fepc = t.fepc := rfl
@[simp] theorem addFlags_fcause (t : Strand) (fl : BitVec 8) : (t.addFlags fl).fcause = t.fcause := rfl
@[simp] theorem addFlags_marks (t : Strand) (fl : BitVec 8) : (t.addFlags fl).marks = t.marks := rfl
@[simp] theorem addFlags_vpend (t : Strand) (fl : BitVec 8) : (t.addFlags fl).vpend = t.vpend := rfl
@[simp] theorem addFlags_vland (t : Strand) (fl : BitVec 8) : (t.addFlags fl).vland = t.vland := rfl
@[simp] theorem addFlags_harvest (t : Strand) (fl : BitVec 8) : (t.addFlags fl).harvest = t.harvest := rfl
@[simp] theorem addFlags_cond (t : Strand) (fl : BitVec 8) : (t.addFlags fl).cond = t.cond := rfl
@[simp] theorem addFlags_age (t : Strand) (fl : BitVec 8) : (t.addFlags fl).age = t.age := rfl
@[simp] theorem addFlags_timer (t : Strand) (fl : BitVec 8) : (t.addFlags fl).timer = t.timer := rfl
@[simp] theorem addFlags_awaits (t : Strand) (fl : BitVec 8) : (t.addFlags fl).awaits = t.awaits := rfl
@[simp] theorem addFlags_slotTie (t : Strand) (fl : BitVec 8) : (t.addFlags fl).slotTie = t.slotTie := rfl
@[simp] theorem addFlags_fetched (t : Strand) (fl : BitVec 8) : (t.addFlags fl).fetched = t.fetched := rfl
@[simp] theorem addFlags_fenced (t : Strand) (fl : BitVec 8) : (t.addFlags fl).fenced = t.fenced := rfl
@[simp] theorem addFlags_nextIssue (t : Strand) (fl : BitVec 8) : (t.addFlags fl).nextIssue = t.nextIssue := rfl
@[simp] theorem writeF_kind (t : Strand) (r : Reg) (x : Word) : (t.writeF r x).kind = t.kind := rfl
@[simp] theorem writeF_pc (t : Strand) (r : Reg) (x : Word) : (t.writeF r x).pc = t.pc := rfl
@[simp] theorem writeF_g (t : Strand) (r : Reg) (x : Word) : (t.writeF r x).g = t.g := rfl
@[simp] theorem writeF_v (t : Strand) (r : Reg) (x : Word) : (t.writeF r x).v = t.v := rfl
@[simp] theorem writeF_m (t : Strand) (r : Reg) (x : Word) : (t.writeF r x).m = t.m := rfl
@[simp] theorem writeF_mode (t : Strand) (r : Reg) (x : Word) : (t.writeF r x).mode = t.mode := rfl
@[simp] theorem writeF_fstat (t : Strand) (r : Reg) (x : Word) : (t.writeF r x).fstat = t.fstat := rfl
@[simp] theorem writeF_vl (t : Strand) (r : Reg) (x : Word) : (t.writeF r x).vl = t.vl := rfl
@[simp] theorem writeF_estart (t : Strand) (r : Reg) (x : Word) : (t.writeF r x).estart = t.estart := rfl
@[simp] theorem writeF_usc (t : Strand) (r : Reg) (x : Word) : (t.writeF r x).usc = t.usc := rfl
@[simp] theorem writeF_nfmt (t : Strand) (r : Reg) (x : Word) : (t.writeF r x).nfmt = t.nfmt := rfl
@[simp] theorem writeF_mxblk (t : Strand) (r : Reg) (x : Word) : (t.writeF r x).mxblk = t.mxblk := rfl
@[simp] theorem writeF_rngkey (t : Strand) (r : Reg) (x : Word) : (t.writeF r x).rngkey = t.rngkey := rfl
@[simp] theorem writeF_rngctr (t : Strand) (r : Reg) (x : Word) : (t.writeF r x).rngctr = t.rngctr := rfl
@[simp] theorem writeF_adopted (t : Strand) (r : Reg) (x : Word) : (t.writeF r x).adopted = t.adopted := rfl
@[simp] theorem writeF_gang (t : Strand) (r : Reg) (x : Word) : (t.writeF r x).gang = t.gang := rfl
@[simp] theorem writeF_member (t : Strand) (r : Reg) (x : Word) : (t.writeF r x).member = t.member := rfl
@[simp] theorem writeF_sizem1 (t : Strand) (r : Reg) (x : Word) : (t.writeF r x).sizem1 = t.sizem1 := rfl
@[simp] theorem writeF_prio (t : Strand) (r : Reg) (x : Word) : (t.writeF r x).prio = t.prio := rfl
@[simp] theorem writeF_fmask (t : Strand) (r : Reg) (x : Word) : (t.writeF r x).fmask = t.fmask := rfl
@[simp] theorem writeF_utvec (t : Strand) (r : Reg) (x : Word) : (t.writeF r x).utvec = t.utvec := rfl
@[simp] theorem writeF_uepc (t : Strand) (r : Reg) (x : Word) : (t.writeF r x).uepc = t.uepc := rfl
@[simp] theorem writeF_ucause (t : Strand) (r : Reg) (x : Word) : (t.writeF r x).ucause = t.ucause := rfl
@[simp] theorem writeF_uaddr (t : Strand) (r : Reg) (x : Word) : (t.writeF r x).uaddr = t.uaddr := rfl
@[simp] theorem writeF_uinfo (t : Strand) (r : Reg) (x : Word) : (t.writeF r x).uinfo = t.uinfo := rfl
@[simp] theorem writeF_sstatus (t : Strand) (r : Reg) (x : Word) : (t.writeF r x).sstatus = t.sstatus := rfl
@[simp] theorem writeF_sepc (t : Strand) (r : Reg) (x : Word) : (t.writeF r x).sepc = t.sepc := rfl
@[simp] theorem writeF_scause (t : Strand) (r : Reg) (x : Word) : (t.writeF r x).scause = t.scause := rfl
@[simp] theorem writeF_saddr (t : Strand) (r : Reg) (x : Word) : (t.writeF r x).saddr = t.saddr := rfl
@[simp] theorem writeF_sinfo (t : Strand) (r : Reg) (x : Word) : (t.writeF r x).sinfo = t.sinfo := rfl
@[simp] theorem writeF_fstatus (t : Strand) (r : Reg) (x : Word) : (t.writeF r x).fstatus = t.fstatus := rfl
@[simp] theorem writeF_fepc (t : Strand) (r : Reg) (x : Word) : (t.writeF r x).fepc = t.fepc := rfl
@[simp] theorem writeF_fcause (t : Strand) (r : Reg) (x : Word) : (t.writeF r x).fcause = t.fcause := rfl
@[simp] theorem writeF_marks (t : Strand) (r : Reg) (x : Word) : (t.writeF r x).marks = t.marks := rfl
@[simp] theorem writeF_vpend (t : Strand) (r : Reg) (x : Word) : (t.writeF r x).vpend = t.vpend := rfl
@[simp] theorem writeF_vland (t : Strand) (r : Reg) (x : Word) : (t.writeF r x).vland = t.vland := rfl
@[simp] theorem writeF_harvest (t : Strand) (r : Reg) (x : Word) : (t.writeF r x).harvest = t.harvest := rfl
@[simp] theorem writeF_cond (t : Strand) (r : Reg) (x : Word) : (t.writeF r x).cond = t.cond := rfl
@[simp] theorem writeF_age (t : Strand) (r : Reg) (x : Word) : (t.writeF r x).age = t.age := rfl
@[simp] theorem writeF_timer (t : Strand) (r : Reg) (x : Word) : (t.writeF r x).timer = t.timer := rfl
@[simp] theorem writeF_awaits (t : Strand) (r : Reg) (x : Word) : (t.writeF r x).awaits = t.awaits := rfl
@[simp] theorem writeF_slotTie (t : Strand) (r : Reg) (x : Word) : (t.writeF r x).slotTie = t.slotTie := rfl
@[simp] theorem writeF_fetched (t : Strand) (r : Reg) (x : Word) : (t.writeF r x).fetched = t.fetched := rfl
@[simp] theorem writeF_fenced (t : Strand) (r : Reg) (x : Word) : (t.writeF r x).fenced = t.fenced := rfl
@[simp] theorem writeF_nextIssue (t : Strand) (r : Reg) (x : Word) : (t.writeF r x).nextIssue = t.nextIssue := rfl
@[simp] theorem writeV_kind (t : Strand) (r : Reg) (x : VWord) : (t.writeV r x).kind = t.kind := rfl
@[simp] theorem writeV_pc (t : Strand) (r : Reg) (x : VWord) : (t.writeV r x).pc = t.pc := rfl
@[simp] theorem writeV_g (t : Strand) (r : Reg) (x : VWord) : (t.writeV r x).g = t.g := rfl
@[simp] theorem writeV_f (t : Strand) (r : Reg) (x : VWord) : (t.writeV r x).f = t.f := rfl
@[simp] theorem writeV_m (t : Strand) (r : Reg) (x : VWord) : (t.writeV r x).m = t.m := rfl
@[simp] theorem writeV_mode (t : Strand) (r : Reg) (x : VWord) : (t.writeV r x).mode = t.mode := rfl
@[simp] theorem writeV_fstat (t : Strand) (r : Reg) (x : VWord) : (t.writeV r x).fstat = t.fstat := rfl
@[simp] theorem writeV_vl (t : Strand) (r : Reg) (x : VWord) : (t.writeV r x).vl = t.vl := rfl
@[simp] theorem writeV_estart (t : Strand) (r : Reg) (x : VWord) : (t.writeV r x).estart = t.estart := rfl
@[simp] theorem writeV_usc (t : Strand) (r : Reg) (x : VWord) : (t.writeV r x).usc = t.usc := rfl
@[simp] theorem writeV_nfmt (t : Strand) (r : Reg) (x : VWord) : (t.writeV r x).nfmt = t.nfmt := rfl
@[simp] theorem writeV_mxblk (t : Strand) (r : Reg) (x : VWord) : (t.writeV r x).mxblk = t.mxblk := rfl
@[simp] theorem writeV_rngkey (t : Strand) (r : Reg) (x : VWord) : (t.writeV r x).rngkey = t.rngkey := rfl
@[simp] theorem writeV_rngctr (t : Strand) (r : Reg) (x : VWord) : (t.writeV r x).rngctr = t.rngctr := rfl
@[simp] theorem writeV_adopted (t : Strand) (r : Reg) (x : VWord) : (t.writeV r x).adopted = t.adopted := rfl
@[simp] theorem writeV_gang (t : Strand) (r : Reg) (x : VWord) : (t.writeV r x).gang = t.gang := rfl
@[simp] theorem writeV_member (t : Strand) (r : Reg) (x : VWord) : (t.writeV r x).member = t.member := rfl
@[simp] theorem writeV_sizem1 (t : Strand) (r : Reg) (x : VWord) : (t.writeV r x).sizem1 = t.sizem1 := rfl
@[simp] theorem writeV_prio (t : Strand) (r : Reg) (x : VWord) : (t.writeV r x).prio = t.prio := rfl
@[simp] theorem writeV_fmask (t : Strand) (r : Reg) (x : VWord) : (t.writeV r x).fmask = t.fmask := rfl
@[simp] theorem writeV_utvec (t : Strand) (r : Reg) (x : VWord) : (t.writeV r x).utvec = t.utvec := rfl
@[simp] theorem writeV_uepc (t : Strand) (r : Reg) (x : VWord) : (t.writeV r x).uepc = t.uepc := rfl
@[simp] theorem writeV_ucause (t : Strand) (r : Reg) (x : VWord) : (t.writeV r x).ucause = t.ucause := rfl
@[simp] theorem writeV_uaddr (t : Strand) (r : Reg) (x : VWord) : (t.writeV r x).uaddr = t.uaddr := rfl
@[simp] theorem writeV_uinfo (t : Strand) (r : Reg) (x : VWord) : (t.writeV r x).uinfo = t.uinfo := rfl
@[simp] theorem writeV_sstatus (t : Strand) (r : Reg) (x : VWord) : (t.writeV r x).sstatus = t.sstatus := rfl
@[simp] theorem writeV_sepc (t : Strand) (r : Reg) (x : VWord) : (t.writeV r x).sepc = t.sepc := rfl
@[simp] theorem writeV_scause (t : Strand) (r : Reg) (x : VWord) : (t.writeV r x).scause = t.scause := rfl
@[simp] theorem writeV_saddr (t : Strand) (r : Reg) (x : VWord) : (t.writeV r x).saddr = t.saddr := rfl
@[simp] theorem writeV_sinfo (t : Strand) (r : Reg) (x : VWord) : (t.writeV r x).sinfo = t.sinfo := rfl
@[simp] theorem writeV_fstatus (t : Strand) (r : Reg) (x : VWord) : (t.writeV r x).fstatus = t.fstatus := rfl
@[simp] theorem writeV_fepc (t : Strand) (r : Reg) (x : VWord) : (t.writeV r x).fepc = t.fepc := rfl
@[simp] theorem writeV_fcause (t : Strand) (r : Reg) (x : VWord) : (t.writeV r x).fcause = t.fcause := rfl
@[simp] theorem writeV_marks (t : Strand) (r : Reg) (x : VWord) : (t.writeV r x).marks = t.marks := rfl
@[simp] theorem writeV_vpend (t : Strand) (r : Reg) (x : VWord) : (t.writeV r x).vpend = t.vpend := rfl
@[simp] theorem writeV_vland (t : Strand) (r : Reg) (x : VWord) : (t.writeV r x).vland = t.vland := rfl
@[simp] theorem writeV_harvest (t : Strand) (r : Reg) (x : VWord) : (t.writeV r x).harvest = t.harvest := rfl
@[simp] theorem writeV_cond (t : Strand) (r : Reg) (x : VWord) : (t.writeV r x).cond = t.cond := rfl
@[simp] theorem writeV_age (t : Strand) (r : Reg) (x : VWord) : (t.writeV r x).age = t.age := rfl
@[simp] theorem writeV_timer (t : Strand) (r : Reg) (x : VWord) : (t.writeV r x).timer = t.timer := rfl
@[simp] theorem writeV_awaits (t : Strand) (r : Reg) (x : VWord) : (t.writeV r x).awaits = t.awaits := rfl
@[simp] theorem writeV_slotTie (t : Strand) (r : Reg) (x : VWord) : (t.writeV r x).slotTie = t.slotTie := rfl
@[simp] theorem writeV_fetched (t : Strand) (r : Reg) (x : VWord) : (t.writeV r x).fetched = t.fetched := rfl
@[simp] theorem writeV_fenced (t : Strand) (r : Reg) (x : VWord) : (t.writeV r x).fenced = t.fenced := rfl
@[simp] theorem writeV_nextIssue (t : Strand) (r : Reg) (x : VWord) : (t.writeV r x).nextIssue = t.nextIssue := rfl
@[simp] theorem writeG_kind (t : Strand) (r : Reg) (x : Word) : (t.writeG r x).kind = t.kind := by
  unfold Strand.writeG; split <;> rfl
@[simp] theorem writeG_pc (t : Strand) (r : Reg) (x : Word) : (t.writeG r x).pc = t.pc := by
  unfold Strand.writeG; split <;> rfl
@[simp] theorem writeG_f (t : Strand) (r : Reg) (x : Word) : (t.writeG r x).f = t.f := by
  unfold Strand.writeG; split <;> rfl
@[simp] theorem writeG_v (t : Strand) (r : Reg) (x : Word) : (t.writeG r x).v = t.v := by
  unfold Strand.writeG; split <;> rfl
@[simp] theorem writeG_m (t : Strand) (r : Reg) (x : Word) : (t.writeG r x).m = t.m := by
  unfold Strand.writeG; split <;> rfl
@[simp] theorem writeG_mode (t : Strand) (r : Reg) (x : Word) : (t.writeG r x).mode = t.mode := by
  unfold Strand.writeG; split <;> rfl
@[simp] theorem writeG_fstat (t : Strand) (r : Reg) (x : Word) : (t.writeG r x).fstat = t.fstat := by
  unfold Strand.writeG; split <;> rfl
@[simp] theorem writeG_vl (t : Strand) (r : Reg) (x : Word) : (t.writeG r x).vl = t.vl := by
  unfold Strand.writeG; split <;> rfl
@[simp] theorem writeG_estart (t : Strand) (r : Reg) (x : Word) : (t.writeG r x).estart = t.estart := by
  unfold Strand.writeG; split <;> rfl
@[simp] theorem writeG_usc (t : Strand) (r : Reg) (x : Word) : (t.writeG r x).usc = t.usc := by
  unfold Strand.writeG; split <;> rfl
@[simp] theorem writeG_nfmt (t : Strand) (r : Reg) (x : Word) : (t.writeG r x).nfmt = t.nfmt := by
  unfold Strand.writeG; split <;> rfl
@[simp] theorem writeG_mxblk (t : Strand) (r : Reg) (x : Word) : (t.writeG r x).mxblk = t.mxblk := by
  unfold Strand.writeG; split <;> rfl
@[simp] theorem writeG_rngkey (t : Strand) (r : Reg) (x : Word) : (t.writeG r x).rngkey = t.rngkey := by
  unfold Strand.writeG; split <;> rfl
@[simp] theorem writeG_rngctr (t : Strand) (r : Reg) (x : Word) : (t.writeG r x).rngctr = t.rngctr := by
  unfold Strand.writeG; split <;> rfl
@[simp] theorem writeG_adopted (t : Strand) (r : Reg) (x : Word) : (t.writeG r x).adopted = t.adopted := by
  unfold Strand.writeG; split <;> rfl
@[simp] theorem writeG_gang (t : Strand) (r : Reg) (x : Word) : (t.writeG r x).gang = t.gang := by
  unfold Strand.writeG; split <;> rfl
@[simp] theorem writeG_member (t : Strand) (r : Reg) (x : Word) : (t.writeG r x).member = t.member := by
  unfold Strand.writeG; split <;> rfl
@[simp] theorem writeG_sizem1 (t : Strand) (r : Reg) (x : Word) : (t.writeG r x).sizem1 = t.sizem1 := by
  unfold Strand.writeG; split <;> rfl
@[simp] theorem writeG_prio (t : Strand) (r : Reg) (x : Word) : (t.writeG r x).prio = t.prio := by
  unfold Strand.writeG; split <;> rfl
@[simp] theorem writeG_fmask (t : Strand) (r : Reg) (x : Word) : (t.writeG r x).fmask = t.fmask := by
  unfold Strand.writeG; split <;> rfl
@[simp] theorem writeG_utvec (t : Strand) (r : Reg) (x : Word) : (t.writeG r x).utvec = t.utvec := by
  unfold Strand.writeG; split <;> rfl
@[simp] theorem writeG_uepc (t : Strand) (r : Reg) (x : Word) : (t.writeG r x).uepc = t.uepc := by
  unfold Strand.writeG; split <;> rfl
@[simp] theorem writeG_ucause (t : Strand) (r : Reg) (x : Word) : (t.writeG r x).ucause = t.ucause := by
  unfold Strand.writeG; split <;> rfl
@[simp] theorem writeG_uaddr (t : Strand) (r : Reg) (x : Word) : (t.writeG r x).uaddr = t.uaddr := by
  unfold Strand.writeG; split <;> rfl
@[simp] theorem writeG_uinfo (t : Strand) (r : Reg) (x : Word) : (t.writeG r x).uinfo = t.uinfo := by
  unfold Strand.writeG; split <;> rfl
@[simp] theorem writeG_sstatus (t : Strand) (r : Reg) (x : Word) : (t.writeG r x).sstatus = t.sstatus := by
  unfold Strand.writeG; split <;> rfl
@[simp] theorem writeG_sepc (t : Strand) (r : Reg) (x : Word) : (t.writeG r x).sepc = t.sepc := by
  unfold Strand.writeG; split <;> rfl
@[simp] theorem writeG_scause (t : Strand) (r : Reg) (x : Word) : (t.writeG r x).scause = t.scause := by
  unfold Strand.writeG; split <;> rfl
@[simp] theorem writeG_saddr (t : Strand) (r : Reg) (x : Word) : (t.writeG r x).saddr = t.saddr := by
  unfold Strand.writeG; split <;> rfl
@[simp] theorem writeG_sinfo (t : Strand) (r : Reg) (x : Word) : (t.writeG r x).sinfo = t.sinfo := by
  unfold Strand.writeG; split <;> rfl
@[simp] theorem writeG_fstatus (t : Strand) (r : Reg) (x : Word) : (t.writeG r x).fstatus = t.fstatus := by
  unfold Strand.writeG; split <;> rfl
@[simp] theorem writeG_fepc (t : Strand) (r : Reg) (x : Word) : (t.writeG r x).fepc = t.fepc := by
  unfold Strand.writeG; split <;> rfl
@[simp] theorem writeG_fcause (t : Strand) (r : Reg) (x : Word) : (t.writeG r x).fcause = t.fcause := by
  unfold Strand.writeG; split <;> rfl
@[simp] theorem writeG_vpend (t : Strand) (r : Reg) (x : Word) : (t.writeG r x).vpend = t.vpend := by
  unfold Strand.writeG; split <;> rfl
@[simp] theorem writeG_vland (t : Strand) (r : Reg) (x : Word) : (t.writeG r x).vland = t.vland := by
  unfold Strand.writeG; split <;> rfl
@[simp] theorem writeG_harvest (t : Strand) (r : Reg) (x : Word) : (t.writeG r x).harvest = t.harvest := by
  unfold Strand.writeG; split <;> rfl
@[simp] theorem writeG_cond (t : Strand) (r : Reg) (x : Word) : (t.writeG r x).cond = t.cond := by
  unfold Strand.writeG; split <;> rfl
@[simp] theorem writeG_age (t : Strand) (r : Reg) (x : Word) : (t.writeG r x).age = t.age := by
  unfold Strand.writeG; split <;> rfl
@[simp] theorem writeG_timer (t : Strand) (r : Reg) (x : Word) : (t.writeG r x).timer = t.timer := by
  unfold Strand.writeG; split <;> rfl
@[simp] theorem writeG_awaits (t : Strand) (r : Reg) (x : Word) : (t.writeG r x).awaits = t.awaits := by
  unfold Strand.writeG; split <;> rfl
@[simp] theorem writeG_slotTie (t : Strand) (r : Reg) (x : Word) : (t.writeG r x).slotTie = t.slotTie := by
  unfold Strand.writeG; split <;> rfl
@[simp] theorem writeG_fetched (t : Strand) (r : Reg) (x : Word) : (t.writeG r x).fetched = t.fetched := by
  unfold Strand.writeG; split <;> rfl
@[simp] theorem writeG_fenced (t : Strand) (r : Reg) (x : Word) : (t.writeG r x).fenced = t.fenced := by
  unfold Strand.writeG; split <;> rfl
@[simp] theorem writeG_nextIssue (t : Strand) (r : Reg) (x : Word) : (t.writeG r x).nextIssue = t.nextIssue := by
  unfold Strand.writeG; split <;> rfl
@[simp] theorem setMark_kind (t : Strand) (r : Reg) (m : Mark) : (t.setMark r m).kind = t.kind := by
  unfold Strand.setMark; split <;> rfl
@[simp] theorem setMark_pc (t : Strand) (r : Reg) (m : Mark) : (t.setMark r m).pc = t.pc := by
  unfold Strand.setMark; split <;> rfl
@[simp] theorem setMark_g (t : Strand) (r : Reg) (m : Mark) : (t.setMark r m).g = t.g := by
  unfold Strand.setMark; split <;> rfl
@[simp] theorem setMark_f (t : Strand) (r : Reg) (m : Mark) : (t.setMark r m).f = t.f := by
  unfold Strand.setMark; split <;> rfl
@[simp] theorem setMark_v (t : Strand) (r : Reg) (m : Mark) : (t.setMark r m).v = t.v := by
  unfold Strand.setMark; split <;> rfl
@[simp] theorem setMark_m (t : Strand) (r : Reg) (m : Mark) : (t.setMark r m).m = t.m := by
  unfold Strand.setMark; split <;> rfl
@[simp] theorem setMark_mode (t : Strand) (r : Reg) (m : Mark) : (t.setMark r m).mode = t.mode := by
  unfold Strand.setMark; split <;> rfl
@[simp] theorem setMark_fstat (t : Strand) (r : Reg) (m : Mark) : (t.setMark r m).fstat = t.fstat := by
  unfold Strand.setMark; split <;> rfl
@[simp] theorem setMark_vl (t : Strand) (r : Reg) (m : Mark) : (t.setMark r m).vl = t.vl := by
  unfold Strand.setMark; split <;> rfl
@[simp] theorem setMark_estart (t : Strand) (r : Reg) (m : Mark) : (t.setMark r m).estart = t.estart := by
  unfold Strand.setMark; split <;> rfl
@[simp] theorem setMark_usc (t : Strand) (r : Reg) (m : Mark) : (t.setMark r m).usc = t.usc := by
  unfold Strand.setMark; split <;> rfl
@[simp] theorem setMark_nfmt (t : Strand) (r : Reg) (m : Mark) : (t.setMark r m).nfmt = t.nfmt := by
  unfold Strand.setMark; split <;> rfl
@[simp] theorem setMark_mxblk (t : Strand) (r : Reg) (m : Mark) : (t.setMark r m).mxblk = t.mxblk := by
  unfold Strand.setMark; split <;> rfl
@[simp] theorem setMark_rngkey (t : Strand) (r : Reg) (m : Mark) : (t.setMark r m).rngkey = t.rngkey := by
  unfold Strand.setMark; split <;> rfl
@[simp] theorem setMark_rngctr (t : Strand) (r : Reg) (m : Mark) : (t.setMark r m).rngctr = t.rngctr := by
  unfold Strand.setMark; split <;> rfl
@[simp] theorem setMark_adopted (t : Strand) (r : Reg) (m : Mark) : (t.setMark r m).adopted = t.adopted := by
  unfold Strand.setMark; split <;> rfl
@[simp] theorem setMark_gang (t : Strand) (r : Reg) (m : Mark) : (t.setMark r m).gang = t.gang := by
  unfold Strand.setMark; split <;> rfl
@[simp] theorem setMark_member (t : Strand) (r : Reg) (m : Mark) : (t.setMark r m).member = t.member := by
  unfold Strand.setMark; split <;> rfl
@[simp] theorem setMark_sizem1 (t : Strand) (r : Reg) (m : Mark) : (t.setMark r m).sizem1 = t.sizem1 := by
  unfold Strand.setMark; split <;> rfl
@[simp] theorem setMark_prio (t : Strand) (r : Reg) (m : Mark) : (t.setMark r m).prio = t.prio := by
  unfold Strand.setMark; split <;> rfl
@[simp] theorem setMark_fmask (t : Strand) (r : Reg) (m : Mark) : (t.setMark r m).fmask = t.fmask := by
  unfold Strand.setMark; split <;> rfl
@[simp] theorem setMark_utvec (t : Strand) (r : Reg) (m : Mark) : (t.setMark r m).utvec = t.utvec := by
  unfold Strand.setMark; split <;> rfl
@[simp] theorem setMark_uepc (t : Strand) (r : Reg) (m : Mark) : (t.setMark r m).uepc = t.uepc := by
  unfold Strand.setMark; split <;> rfl
@[simp] theorem setMark_ucause (t : Strand) (r : Reg) (m : Mark) : (t.setMark r m).ucause = t.ucause := by
  unfold Strand.setMark; split <;> rfl
@[simp] theorem setMark_uaddr (t : Strand) (r : Reg) (m : Mark) : (t.setMark r m).uaddr = t.uaddr := by
  unfold Strand.setMark; split <;> rfl
@[simp] theorem setMark_uinfo (t : Strand) (r : Reg) (m : Mark) : (t.setMark r m).uinfo = t.uinfo := by
  unfold Strand.setMark; split <;> rfl
@[simp] theorem setMark_sstatus (t : Strand) (r : Reg) (m : Mark) : (t.setMark r m).sstatus = t.sstatus := by
  unfold Strand.setMark; split <;> rfl
@[simp] theorem setMark_sepc (t : Strand) (r : Reg) (m : Mark) : (t.setMark r m).sepc = t.sepc := by
  unfold Strand.setMark; split <;> rfl
@[simp] theorem setMark_scause (t : Strand) (r : Reg) (m : Mark) : (t.setMark r m).scause = t.scause := by
  unfold Strand.setMark; split <;> rfl
@[simp] theorem setMark_saddr (t : Strand) (r : Reg) (m : Mark) : (t.setMark r m).saddr = t.saddr := by
  unfold Strand.setMark; split <;> rfl
@[simp] theorem setMark_sinfo (t : Strand) (r : Reg) (m : Mark) : (t.setMark r m).sinfo = t.sinfo := by
  unfold Strand.setMark; split <;> rfl
@[simp] theorem setMark_fstatus (t : Strand) (r : Reg) (m : Mark) : (t.setMark r m).fstatus = t.fstatus := by
  unfold Strand.setMark; split <;> rfl
@[simp] theorem setMark_fepc (t : Strand) (r : Reg) (m : Mark) : (t.setMark r m).fepc = t.fepc := by
  unfold Strand.setMark; split <;> rfl
@[simp] theorem setMark_fcause (t : Strand) (r : Reg) (m : Mark) : (t.setMark r m).fcause = t.fcause := by
  unfold Strand.setMark; split <;> rfl
@[simp] theorem setMark_vpend (t : Strand) (r : Reg) (m : Mark) : (t.setMark r m).vpend = t.vpend := by
  unfold Strand.setMark; split <;> rfl
@[simp] theorem setMark_vland (t : Strand) (r : Reg) (m : Mark) : (t.setMark r m).vland = t.vland := by
  unfold Strand.setMark; split <;> rfl
@[simp] theorem setMark_harvest (t : Strand) (r : Reg) (m : Mark) : (t.setMark r m).harvest = t.harvest := by
  unfold Strand.setMark; split <;> rfl
@[simp] theorem setMark_cond (t : Strand) (r : Reg) (m : Mark) : (t.setMark r m).cond = t.cond := by
  unfold Strand.setMark; split <;> rfl
@[simp] theorem setMark_age (t : Strand) (r : Reg) (m : Mark) : (t.setMark r m).age = t.age := by
  unfold Strand.setMark; split <;> rfl
@[simp] theorem setMark_timer (t : Strand) (r : Reg) (m : Mark) : (t.setMark r m).timer = t.timer := by
  unfold Strand.setMark; split <;> rfl
@[simp] theorem setMark_awaits (t : Strand) (r : Reg) (m : Mark) : (t.setMark r m).awaits = t.awaits := by
  unfold Strand.setMark; split <;> rfl
@[simp] theorem setMark_slotTie (t : Strand) (r : Reg) (m : Mark) : (t.setMark r m).slotTie = t.slotTie := by
  unfold Strand.setMark; split <;> rfl
@[simp] theorem setMark_fetched (t : Strand) (r : Reg) (m : Mark) : (t.setMark r m).fetched = t.fetched := by
  unfold Strand.setMark; split <;> rfl
@[simp] theorem setMark_fenced (t : Strand) (r : Reg) (m : Mark) : (t.setMark r m).fenced = t.fenced := by
  unfold Strand.setMark; split <;> rfl
@[simp] theorem setMark_nextIssue (t : Strand) (r : Reg) (m : Mark) : (t.setMark r m).nextIssue = t.nextIssue := by
  unfold Strand.setMark; split <;> rfl
@[simp] theorem writeM_kind (t : Strand) (r : MaskReg) (x : MWord) : (t.writeM r x).kind = t.kind := by
  unfold Strand.writeM; split <;> rfl
@[simp] theorem writeM_pc (t : Strand) (r : MaskReg) (x : MWord) : (t.writeM r x).pc = t.pc := by
  unfold Strand.writeM; split <;> rfl
@[simp] theorem writeM_g (t : Strand) (r : MaskReg) (x : MWord) : (t.writeM r x).g = t.g := by
  unfold Strand.writeM; split <;> rfl
@[simp] theorem writeM_f (t : Strand) (r : MaskReg) (x : MWord) : (t.writeM r x).f = t.f := by
  unfold Strand.writeM; split <;> rfl
@[simp] theorem writeM_v (t : Strand) (r : MaskReg) (x : MWord) : (t.writeM r x).v = t.v := by
  unfold Strand.writeM; split <;> rfl
@[simp] theorem writeM_mode (t : Strand) (r : MaskReg) (x : MWord) : (t.writeM r x).mode = t.mode := by
  unfold Strand.writeM; split <;> rfl
@[simp] theorem writeM_fstat (t : Strand) (r : MaskReg) (x : MWord) : (t.writeM r x).fstat = t.fstat := by
  unfold Strand.writeM; split <;> rfl
@[simp] theorem writeM_vl (t : Strand) (r : MaskReg) (x : MWord) : (t.writeM r x).vl = t.vl := by
  unfold Strand.writeM; split <;> rfl
@[simp] theorem writeM_estart (t : Strand) (r : MaskReg) (x : MWord) : (t.writeM r x).estart = t.estart := by
  unfold Strand.writeM; split <;> rfl
@[simp] theorem writeM_usc (t : Strand) (r : MaskReg) (x : MWord) : (t.writeM r x).usc = t.usc := by
  unfold Strand.writeM; split <;> rfl
@[simp] theorem writeM_nfmt (t : Strand) (r : MaskReg) (x : MWord) : (t.writeM r x).nfmt = t.nfmt := by
  unfold Strand.writeM; split <;> rfl
@[simp] theorem writeM_mxblk (t : Strand) (r : MaskReg) (x : MWord) : (t.writeM r x).mxblk = t.mxblk := by
  unfold Strand.writeM; split <;> rfl
@[simp] theorem writeM_rngkey (t : Strand) (r : MaskReg) (x : MWord) : (t.writeM r x).rngkey = t.rngkey := by
  unfold Strand.writeM; split <;> rfl
@[simp] theorem writeM_rngctr (t : Strand) (r : MaskReg) (x : MWord) : (t.writeM r x).rngctr = t.rngctr := by
  unfold Strand.writeM; split <;> rfl
@[simp] theorem writeM_adopted (t : Strand) (r : MaskReg) (x : MWord) : (t.writeM r x).adopted = t.adopted := by
  unfold Strand.writeM; split <;> rfl
@[simp] theorem writeM_gang (t : Strand) (r : MaskReg) (x : MWord) : (t.writeM r x).gang = t.gang := by
  unfold Strand.writeM; split <;> rfl
@[simp] theorem writeM_member (t : Strand) (r : MaskReg) (x : MWord) : (t.writeM r x).member = t.member := by
  unfold Strand.writeM; split <;> rfl
@[simp] theorem writeM_sizem1 (t : Strand) (r : MaskReg) (x : MWord) : (t.writeM r x).sizem1 = t.sizem1 := by
  unfold Strand.writeM; split <;> rfl
@[simp] theorem writeM_prio (t : Strand) (r : MaskReg) (x : MWord) : (t.writeM r x).prio = t.prio := by
  unfold Strand.writeM; split <;> rfl
@[simp] theorem writeM_fmask (t : Strand) (r : MaskReg) (x : MWord) : (t.writeM r x).fmask = t.fmask := by
  unfold Strand.writeM; split <;> rfl
@[simp] theorem writeM_utvec (t : Strand) (r : MaskReg) (x : MWord) : (t.writeM r x).utvec = t.utvec := by
  unfold Strand.writeM; split <;> rfl
@[simp] theorem writeM_uepc (t : Strand) (r : MaskReg) (x : MWord) : (t.writeM r x).uepc = t.uepc := by
  unfold Strand.writeM; split <;> rfl
@[simp] theorem writeM_ucause (t : Strand) (r : MaskReg) (x : MWord) : (t.writeM r x).ucause = t.ucause := by
  unfold Strand.writeM; split <;> rfl
@[simp] theorem writeM_uaddr (t : Strand) (r : MaskReg) (x : MWord) : (t.writeM r x).uaddr = t.uaddr := by
  unfold Strand.writeM; split <;> rfl
@[simp] theorem writeM_uinfo (t : Strand) (r : MaskReg) (x : MWord) : (t.writeM r x).uinfo = t.uinfo := by
  unfold Strand.writeM; split <;> rfl
@[simp] theorem writeM_sstatus (t : Strand) (r : MaskReg) (x : MWord) : (t.writeM r x).sstatus = t.sstatus := by
  unfold Strand.writeM; split <;> rfl
@[simp] theorem writeM_sepc (t : Strand) (r : MaskReg) (x : MWord) : (t.writeM r x).sepc = t.sepc := by
  unfold Strand.writeM; split <;> rfl
@[simp] theorem writeM_scause (t : Strand) (r : MaskReg) (x : MWord) : (t.writeM r x).scause = t.scause := by
  unfold Strand.writeM; split <;> rfl
@[simp] theorem writeM_saddr (t : Strand) (r : MaskReg) (x : MWord) : (t.writeM r x).saddr = t.saddr := by
  unfold Strand.writeM; split <;> rfl
@[simp] theorem writeM_sinfo (t : Strand) (r : MaskReg) (x : MWord) : (t.writeM r x).sinfo = t.sinfo := by
  unfold Strand.writeM; split <;> rfl
@[simp] theorem writeM_fstatus (t : Strand) (r : MaskReg) (x : MWord) : (t.writeM r x).fstatus = t.fstatus := by
  unfold Strand.writeM; split <;> rfl
@[simp] theorem writeM_fepc (t : Strand) (r : MaskReg) (x : MWord) : (t.writeM r x).fepc = t.fepc := by
  unfold Strand.writeM; split <;> rfl
@[simp] theorem writeM_fcause (t : Strand) (r : MaskReg) (x : MWord) : (t.writeM r x).fcause = t.fcause := by
  unfold Strand.writeM; split <;> rfl
@[simp] theorem writeM_marks (t : Strand) (r : MaskReg) (x : MWord) : (t.writeM r x).marks = t.marks := by
  unfold Strand.writeM; split <;> rfl
@[simp] theorem writeM_vpend (t : Strand) (r : MaskReg) (x : MWord) : (t.writeM r x).vpend = t.vpend := by
  unfold Strand.writeM; split <;> rfl
@[simp] theorem writeM_vland (t : Strand) (r : MaskReg) (x : MWord) : (t.writeM r x).vland = t.vland := by
  unfold Strand.writeM; split <;> rfl
@[simp] theorem writeM_harvest (t : Strand) (r : MaskReg) (x : MWord) : (t.writeM r x).harvest = t.harvest := by
  unfold Strand.writeM; split <;> rfl
@[simp] theorem writeM_cond (t : Strand) (r : MaskReg) (x : MWord) : (t.writeM r x).cond = t.cond := by
  unfold Strand.writeM; split <;> rfl
@[simp] theorem writeM_age (t : Strand) (r : MaskReg) (x : MWord) : (t.writeM r x).age = t.age := by
  unfold Strand.writeM; split <;> rfl
@[simp] theorem writeM_timer (t : Strand) (r : MaskReg) (x : MWord) : (t.writeM r x).timer = t.timer := by
  unfold Strand.writeM; split <;> rfl
@[simp] theorem writeM_awaits (t : Strand) (r : MaskReg) (x : MWord) : (t.writeM r x).awaits = t.awaits := by
  unfold Strand.writeM; split <;> rfl
@[simp] theorem writeM_slotTie (t : Strand) (r : MaskReg) (x : MWord) : (t.writeM r x).slotTie = t.slotTie := by
  unfold Strand.writeM; split <;> rfl
@[simp] theorem writeM_fetched (t : Strand) (r : MaskReg) (x : MWord) : (t.writeM r x).fetched = t.fetched := by
  unfold Strand.writeM; split <;> rfl
@[simp] theorem writeM_fenced (t : Strand) (r : MaskReg) (x : MWord) : (t.writeM r x).fenced = t.fenced := by
  unfold Strand.writeM; split <;> rfl
@[simp] theorem writeM_nextIssue (t : Strand) (r : MaskReg) (x : MWord) : (t.writeM r x).nextIssue = t.nextIssue := by
  unfold Strand.writeM; split <;> rfl

end Sys2Proof.Laws
end

