-- ==== Sys2Proof/Laws/Memory.lean ====
section
/-!
SUPPORT. Laws/Memory.lean: every operation on memory keeps its canonical form; a byte reads as it was last written, and a write
changes no other byte.
-/

namespace Sys2Proof.Laws

open Sys2Proof.Machine

/-! ## The canonical form -/

theorem rising_mono {m : List Host.Cell} : ∀ {lo lo' : Nat}, lo ≤ lo' → Mem.rising lo' m = true → Mem.rising lo m = true := by
  induction m with
  | nil => intros; rfl
  | cons c m ih =>
    intro lo lo' h hr
    simp only [Mem.rising, Bool.and_eq_true, decide_eq_true_eq] at hr ⊢
    exact ⟨by omega, hr.2⟩

theorem rising_filter (p : Host.Cell → Bool) {m : List Host.Cell} : ∀ {lo : Nat}, Mem.rising lo m = true →
    Mem.rising lo (m.filter p) = true := by
  induction m with
  | nil => intros; rfl
  | cons c m ih =>
    intro lo h
    simp only [Mem.rising, Bool.and_eq_true, decide_eq_true_eq] at h
    simp only [List.filter]
    split
    · simp only [Mem.rising, Bool.and_eq_true, decide_eq_true_eq]
      exact ⟨h.1, ih h.2⟩
    · exact rising_mono (by omega) (ih h.2)

theorem drop_eq_filter (m : List Host.Cell) (a : Nat) : Mem.drop m a = m.filter fun c => !decide (c.1 = a) := by
  induction m with
  | nil => rfl
  | cons c m ih => by_cases h : c.1 = a <;> simp [Mem.drop, h, ih]

theorem rising_place {a : Nat} {x : Byte} {m : List Host.Cell} : ∀ {lo : Nat}, lo ≤ a → (∀ c ∈ m, c.1 ≠ a) →
    Mem.rising lo m = true → Mem.rising lo (Mem.place m a x) = true := by
  induction m with
  | nil => intro lo h _ _; simp [Mem.place, Mem.rising, h]
  | cons c m ih =>
    intro lo h hn hr
    have hc : c.1 ≠ a := hn c (by simp)
    simp only [Mem.rising, Bool.and_eq_true, decide_eq_true_eq] at hr
    simp only [Mem.place]
    split
    · simp only [Mem.rising, Bool.and_eq_true, decide_eq_true_eq]
      exact ⟨h, by omega, hr.2⟩
    · simp only [Mem.rising, Bool.and_eq_true, decide_eq_true_eq]
      exact ⟨hr.1, ih (by omega) (fun c' h' => hn c' (by simp [h'])) hr.2⟩

theorem all_place {p : Host.Cell → Bool} {a : Nat} {x : Byte} {m : List Host.Cell} (h : m.all p = true) (hx : p (a, x) = true) :
    (Mem.place m a x).all p = true := by
  induction m with
  | nil => simp [Mem.place, hx]
  | cons c m ih =>
    simp only [List.all_cons, Bool.and_eq_true] at h
    simp only [Mem.place]
    split
    · simp [h, hx]
    · simp [h.1, ih h.2]

/-- Keeping some of the entries keeps the form. -/
theorem wf_filter (p : Host.Cell → Bool) {m : List Host.Cell} (h : Mem.wf m = true) : Mem.wf (m.filter p) = true := by
  simp only [Mem.wf, Bool.and_eq_true, List.all_eq_true] at h ⊢
  exact ⟨rising_filter p h.1, fun c hc => h.2 c (List.mem_filter.mp hc).1⟩

/-- Removing an entry keeps the form. -/
theorem wf_drop {m : List Host.Cell} (a : Nat) (h : Mem.wf m = true) : Mem.wf (Mem.drop m a) = true := by
  rw [drop_eq_filter]; exact wf_filter _ h

/-- Writing a byte keeps the form. -/
theorem wf_write {m : List Host.Cell} (a : Nat) (x : Byte) (h : Mem.wf m = true) : Mem.wf (Mem.write m a x) = true := by
  simp only [Mem.write]
  split
  · exact wf_drop a h
  · rename_i hx
    have hd := wf_drop a h
    simp only [Mem.wf, Bool.and_eq_true] at hd ⊢
    refine ⟨rising_place (Nat.zero_le _) ?_ hd.1, all_place hd.2 (by simpa using hx)⟩
    intro c hc
    rw [drop_eq_filter] at hc
    simpa using (List.mem_filter.mp hc).2

/-- Removing a range of locations keeps the form. -/
theorem wf_cut {m : List Host.Cell} (lo n : Nat) (h : Mem.wf m = true) : Mem.wf (Mem.cut m lo n) = true := wf_filter _ h

theorem wf_writeByte {s : State} (a : Nat) (x : Byte) (h : Memory.wf s = true) : Memory.wf (s.writeByte a x) = true :=
  wf_write a x h

theorem wf_writeBytes (bs : List Byte) : ∀ {s : State} (a : Nat), Memory.wf s = true → Memory.wf (s.writeBytes a bs) = true := by
  induction bs with
  | nil => intro s a h; exact h
  | cons b bs ih => intro s a h; exact ih (a + 1) (wf_writeByte a b h)

/-- Writing a number keeps the form. -/
theorem wf_writeMem {s : State} (a n v : Nat) (h : Memory.wf s = true) : Memory.wf (s.writeMem a n v) = true :=
  wf_writeBytes _ a h

/-- Clearing a range keeps the form. -/
theorem wf_clearRange {s : State} (lo n : Nat) (h : Memory.wf s = true) : Memory.wf (s.clearRange lo n) = true :=
  wf_cut lo n h

@[simp] theorem wf_setStrand (s : State) (k : Nat) (t : Strand) : Memory.wf (s.setStrand k t) = Memory.wf s := rfl
@[simp] theorem wf_setMe (s : State) (t : Strand) : Memory.wf (s.setMe t) = Memory.wf s := rfl
@[simp] theorem wf_setCore (s : State) (k : Nat) (x : Core) : Memory.wf (s.setCore k x) = Memory.wf s := rfl

/-! ## Reading what was written -/

theorem read_place_same {a : Nat} {x : Byte} {m : List Host.Cell} (h : ∀ c ∈ m, c.1 ≠ a) : Mem.read (Mem.place m a x) a = x := by
  induction m with
  | nil => simp [Mem.place, Mem.read]
  | cons c m ih =>
    have hc : c.1 ≠ a := h c (by simp)
    simp only [Mem.place]
    split
    · simp [Mem.read]
    · simp only [Mem.read, if_neg hc]
      exact ih fun c' h' => h c' (by simp [h'])

theorem read_place_ne {a b : Nat} (h : b ≠ a) (x : Byte) (m : List Host.Cell) : Mem.read (Mem.place m a x) b = Mem.read m b := by
  induction m with
  | nil => simp [Mem.place, Mem.read, h.symm]
  | cons c m ih =>
    simp only [Mem.place]
    split
    · simp [Mem.read, h.symm]
    · simp only [Mem.read, ih]

theorem read_drop_same (m : List Host.Cell) (a : Nat) : Mem.read (Mem.drop m a) a = 0 := by
  induction m with
  | nil => rfl
  | cons c m ih => by_cases h : c.1 = a <;> simp [Mem.drop, h, Mem.read, ih]

theorem read_drop_ne {a b : Nat} (h : b ≠ a) (m : List Host.Cell) : Mem.read (Mem.drop m a) b = Mem.read m b := by
  induction m with
  | nil => rfl
  | cons c m ih =>
    by_cases hc : c.1 = a
    · simp [Mem.drop, hc, Mem.read, ih, h.symm]
    · simp only [Mem.drop, if_neg hc, Mem.read, ih]

theorem drop_fst (m : List Host.Cell) (a : Nat) : ∀ c ∈ Mem.drop m a, c.1 ≠ a := by
  intro c hc
  rw [drop_eq_filter] at hc
  simpa using (List.mem_filter.mp hc).2

/-- Reading where a byte was written. -/
@[simp] theorem read_write_same (m : List Host.Cell) (a : Nat) (x : Byte) : Mem.read (Mem.write m a x) a = x := by
  simp only [Mem.write]
  split
  · rename_i h; rw [h]; exact read_drop_same m a
  · exact read_place_same (drop_fst m a)

/-- Reading elsewhere. -/
theorem read_write_ne (m : List Host.Cell) {a b : Nat} (x : Byte) (h : b ≠ a) : Mem.read (Mem.write m a x) b = Mem.read m b := by
  simp only [Mem.write]
  split
  · exact read_drop_ne h m
  · exact (read_place_ne h x _).trans (read_drop_ne h m)

/-- What a byte reads after a byte was written. -/
theorem byteAt_writeByte (s : State) (a b : Nat) (x : Byte) : (s.writeByte a x).byteAt b = if b = a then x else s.byteAt b := by
  by_cases h : b = a
  · subst h; simp [State.byteAt, State.writeByte]
  · simp [State.byteAt, State.writeByte, h, read_write_ne]

/-- What a byte reads after bytes were written. -/
theorem byteAt_writeBytes (bs : List Byte) : ∀ (s : State) (a b : Nat),
    (s.writeBytes a bs).byteAt b = if a ≤ b ∧ b < a + bs.length then bs.getD (b - a) 0 else s.byteAt b := by
  induction bs with
  | nil => intro s a b; simp only [State.writeBytes, List.length_nil]; rw [if_neg (by omega)]
  | cons x bs ih =>
    intro s a b
    simp only [State.writeBytes, ih, byteAt_writeByte, List.length_cons]
    by_cases h : b = a
    · subst h; rw [if_neg (by omega), if_pos rfl, if_pos (by omega)]; simp
    · by_cases h2 : a ≤ b ∧ b < a + (bs.length + 1)
      · rw [if_pos (by omega), if_pos h2]
        obtain ⟨k, hk⟩ : ∃ k, b - a = k + 1 := ⟨b - a - 1, by omega⟩
        rw [hk, show b - (a + 1) = k by omega]; simp
      · rw [if_neg (by omega), if_neg h2, if_neg h]

theorem length_bytesOf (n : Nat) : ∀ x : Nat, (bytesOf n x).length = n := by
  induction n with
  | zero => intro x; rfl
  | succ n ih => intro x; simp [bytesOf, ih]

theorem getD_bytesOf (n : Nat) : ∀ (x i : Nat), i < n → (bytesOf n x).getD i 0 = BitVec.ofNat 8 (x / 256 ^ i) := by
  induction n with
  | zero => intro x i h; omega
  | succ n ih =>
    intro x i h
    cases i with
    | zero => simp [bytesOf]
    | succ i =>
      have := ih (x / 256) i (by omega)
      simp only [bytesOf, List.getD_cons_succ, this, Nat.div_div_eq_div_mul, Nat.pow_succ']

/-- What a byte reads after a number was written. -/
theorem byteAt_writeMem (s : State) (a n v b : Nat) :
    (s.writeMem a n v).byteAt b = if a ≤ b ∧ b < a + n then BitVec.ofNat 8 (v / 256 ^ (b - a)) else s.byteAt b := by
  simp only [State.writeMem, byteAt_writeBytes, length_bytesOf]
  split
  · exact getD_bytesOf n v (b - a) (by omega)
  · rfl

/-- What a byte reads after a range was cleared. -/
theorem read_cut (m : List Host.Cell) (lo n a : Nat) : Mem.read (Mem.cut m lo n) a = if lo ≤ a ∧ a < lo + n then 0 else Mem.read m a := by
  induction m with
  | nil => simp [Mem.cut, Mem.read]
  | cons c m ih =>
    simp only [Mem.cut] at ih ⊢
    by_cases h : lo ≤ c.1 ∧ c.1 < lo + n
    · have : (!(decide (lo ≤ c.1) && decide (c.1 < lo + n))) = false := by simp [h]
      simp only [List.filter, this, ih, Mem.read]
      by_cases hc : c.1 = a
      · subst hc; simp [h]
      · simp [hc]
    · have : (!(decide (lo ≤ c.1) && decide (c.1 < lo + n))) = true := by
        simp only [Bool.not_eq_true', Bool.and_eq_false_iff, decide_eq_false_iff_not]; omega
      simp only [List.filter, this, Mem.read, ih]
      by_cases hc : c.1 = a
      · subst hc; simp [h]
      · simp [hc]

/-- What a byte reads after the state's range was cleared. -/
theorem byteAt_clearRange (s : State) (lo n a : Nat) :
    (s.clearRange lo n).byteAt a = if lo ≤ a ∧ a < lo + n then 0 else s.byteAt a := read_cut s.mem lo n a

/-- The memory after reset has the form. -/
theorem wf_reset : Memory.wf State.reset = true := rfl

end Sys2Proof.Laws
end

