-- ==== Sys2Proof/Laws/Cache.lean ====
section
/-!
SUPPORT. Laws/Cache.lean: what the operations on the caches can do: those that move lines change the caches alone, and those that store
or lose data keep the form of memory and change the bytes that they name.
-/

namespace Sys2Proof.Laws

open Sys2Proof.Machine

/-! ## Moving lines -/

/-- `s` with what the caches of `t` hold. -/
def withCaches (s t : State) : State :=
  { s with l1 := t.l1, rdc := t.rdc, slices := t.slices, rim := t.rim, rimUses := t.rimUses }

/-- From `s` to `t` nothing but what the caches hold has changed. -/
def CachesOnly (s t : State) : Prop := t = withCaches s t

theorem CachesOnly.refl (s : State) : CachesOnly s s := rfl

theorem CachesOnly.trans {s t u : State} (h : CachesOnly s t) (k : CachesOnly t u) : CachesOnly s u := by
  unfold CachesOnly at h k ⊢
  rw [k, h]
  rfl

theorem CachesOnly.foldl {α : Type} {f : State → α → State} (h : ∀ s x, CachesOnly s (f s x)) (xs : List α) :
    ∀ s, CachesOnly s (xs.foldl f s) := by
  induction xs with
  | nil => exact CachesOnly.refl
  | cons x xs ih => exact fun s => (h s x).trans (ih _)

/-- Moving lines changes no byte. -/
theorem CachesOnly.byteAt {s t : State} (h : CachesOnly s t) (a : Nat) : t.byteAt a = s.byteAt a := by rw [h]; rfl

/-- Moving lines changes no record of the state. -/
theorem CachesOnly.strandAt {s t : State} (h : CachesOnly s t) (k : Nat) : t.strandAt k = s.strandAt k := by rw [h]; rfl

theorem CachesOnly.coreAt {s t : State} (h : CachesOnly s t) (c : Nat) : t.coreAt c = s.coreAt c := by rw [h]; rfl

theorem CachesOnly.partAt {s t : State} (h : CachesOnly s t) (p : Nat) : t.partAt p = s.partAt p := by rw [h]; rfl

theorem CachesOnly.wf {s t : State} (h : CachesOnly s t) : Memory.wf t = Memory.wf s := by rw [h]; rfl

theorem setSlices_caches (s : State) (xs : List SliceLine) : CachesOnly s { s with slices := xs } := rfl

theorem dropCopies_caches (s : State) (xs : List SliceLine) (ys zs : List (Nat × Nat)) :
    CachesOnly s { s with slices := xs, rdc := ys, l1 := zs } := rfl

theorem ite_slices_caches (s : State) (b : Bool) (xs : List SliceLine) :
    CachesOnly s (if b = true then { s with slices := xs } else s) := by
  split <;> rfl

theorem rimUse_caches (s : State) (line : Nat) (mark : Option RimMark) : CachesOnly s (s.rimUse line mark) := by
  unfold State.rimUse
  split <;> rfl

theorem unmark_caches (s : State) (p r : Nat) : CachesOnly s (s.unmark p r) := rfl

theorem fillL1_caches (s : State) (c line : Nat) : CachesOnly s (s.fillL1 c line) := by
  unfold State.fillL1
  split <;> rfl

theorem fillRdc_caches (s : State) (c line : Nat) : CachesOnly s (s.fillRdc c line) := by
  unfold State.fillRdc
  split <;> rfl

theorem writeBack_caches (xs : List SliceLine) : ∀ s, CachesOnly s (State.writeBack s xs) := by
  induction xs with
  | nil => exact CachesOnly.refl
  | cons x xs ih =>
    intro s
    unfold State.writeBack
    split
    · exact (rimUse_caches s x.line none).trans (ih _)
    · exact ih s

theorem trimSlice_caches (s : State) (c : Nat) : CachesOnly s (s.trimSlice c) := by
  unfold State.trimSlice
  exact (setSlices_caches s _).trans (writeBack_caches _ _)

theorem shareLine_caches (s : State) (line : Nat) : CachesOnly s (s.shareLine line) := rfl

theorem fillSlice_caches (s : State) (c line : Nat) (mark : RimMark) : CachesOnly s (s.fillSlice c line mark) := by
  unfold State.fillSlice
  exact (rimUse_caches s line _).trans ((shareLine_caches _ line).trans ((setSlices_caches _ _).trans (trimSlice_caches _ c)))

theorem fetchLine_caches (s : State) (c line : Nat) (mark : RimMark) : CachesOnly s (s.fetchLine c line mark) := by
  unfold State.fetchLine
  split
  · split
    · exact CachesOnly.refl s
    · split
      · exact rimUse_caches s line _
      · exact fillSlice_caches s c line mark
  · split
    · exact CachesOnly.refl s
    · exact (rimUse_caches s line _).trans ((shareLine_caches _ line).trans (fillRdc_caches _ _ line))

/-- A read of a line changes the caches alone. -/
theorem readLine_caches (s : State) (c line : Nat) (nc : Bool) (mark : RimMark) : CachesOnly s (s.readLine c line nc mark) := by
  unfold State.readLine
  split
  · exact rimUse_caches s line _
  · split
    · exact CachesOnly.refl s
    · exact (fetchLine_caches s c line mark).trans (fillL1_caches _ c line)

/-- A read through the caches changes them alone. -/
theorem readLines_caches (s : State) (c : Nat) (how : Caching) (key n : Nat) : CachesOnly s (s.readLines c how key n) :=
  CachesOnly.foldl (f := fun s line => s.readLine c line how.nc (s.lineTag how key line)) (fun s line => readLine_caches s c line _ _) _ s

/-- A read or write of homes changes the rim banks alone. -/
theorem useLines_caches (s : State) (how : Caching) (key n : Nat) : CachesOnly s (s.useLines how key n) :=
  CachesOnly.foldl (f := fun s line => s.rimUse line (some (s.lineTag how key line))) (fun s line => rimUse_caches s line _) _ s

theorem takeLine_caches (s : State) (c line : Nat) (mark : RimMark) : CachesOnly s (s.takeLine c line mark) := by
  unfold State.takeLine
  have h : CachesOnly s (if s.sliceOwns c line = true then s else s.rimUse line (some mark)) := by
    split
    · exact CachesOnly.refl s
    · exact rimUse_caches s line _
  exact (h.trans (dropCopies_caches _ _ _ _)).trans (trimSlice_caches _ c)

/-- A prefetch of a line changes the caches alone. -/
theorem prefLine_caches (s : State) (c line : Nat) (nc sole : Bool) (level : PrefLevel) (mark : RimMark) :
    CachesOnly s (s.prefLine c line nc sole level mark) := by
  unfold State.prefLine
  cases hb : nc || isChiplet c || level == .rim
  · cases level
    · simp only [Bool.false_eq_true, if_false]
      exact (readLine_caches s c line nc mark).trans (ite_slices_caches _ _ _)
    · simp only [Bool.false_eq_true, if_false]
      exact (fetchLine_caches s c line mark).trans (ite_slices_caches _ _ _)
    · simp at hb
  · simp only [if_true]
    exact (rimUse_caches s line _).trans (ite_slices_caches _ _ _)

/-! ## Storing and losing data -/

theorem wf_writeCells (cells : List (Nat × Byte)) : ∀ {s : State}, Memory.wf s = true →
    Memory.wf (cells.foldl (fun s x => s.writeByte x.1 x.2) s) = true := by
  induction cells with
  | nil => exact fun h => h
  | cons x xs ih => exact fun h => ih (wf_writeByte x.1 x.2 h)

theorem byteAt_congr {s t : State} (h : s.mem = t.mem) (a : Nat) : s.byteAt a = t.byteAt a := by
  unfold State.byteAt
  rw [h]

theorem writeByte_congr {s t : State} (h : s.mem = t.mem) (a : Nat) (x : Byte) : (s.writeByte a x).mem = (t.writeByte a x).mem := by
  unfold State.writeByte
  rw [h]

theorem writeCells_congr (cells : List (Nat × Byte)) : ∀ {s t : State}, s.mem = t.mem →
    (cells.foldl (fun s x => s.writeByte x.1 x.2) s).mem = (cells.foldl (fun s x => s.writeByte x.1 x.2) t).mem := by
  induction cells with
  | nil => exact fun h => h
  | cons x xs ih => exact fun h => ih (writeByte_congr h x.1 x.2)

/-- A store in a slice writes its bytes as a store anywhere else does. -/
theorem storeOwn_mem (s : State) (c : Nat) (how : Caching) (cells : List (Nat × Byte)) :
    (s.storeOwn c how cells).mem = (cells.foldl (fun s x => s.writeByte x.1 x.2) s).mem := by
  unfold State.storeOwn
  refine writeCells_congr cells ?_
  have h := CachesOnly.foldl (f := fun s line => s.takeLine c line (s.lineTag how (cells.headD (0, 0)).1 line))
    (fun s line => takeLine_caches s c line _) ((cells.map fun x => x.1 / 64).eraseDups) s
  rw [h]
  rfl

theorem wf_storeOwn {s : State} (c : Nat) (how : Caching) (cells : List (Nat × Byte)) (h : Memory.wf s = true) :
    Memory.wf (s.storeOwn c how cells) = true := by
  have := wf_writeCells cells h
  unfold Memory.wf at this ⊢
  rw [storeOwn_mem]
  exact this

theorem wf_loseLine {s : State} (line : Nat) (old : List (Byte × Bool)) (h : Memory.wf s = true) :
    Memory.wf (s.loseLine line old) = true := by
  unfold State.loseLine
  exact wf_writeBytes _ _ h

theorem dropLine_caches (s : State) (line : Nat) : CachesOnly s (s.dropLine line) := rfl

/-- A flush keeps the form of memory, whatever data it loses. -/
theorem wf_flushLine {s : State} (kind : FlushKind) (line : Nat) (h : Memory.wf s = true) : Memory.wf (s.flushLine kind line) = true := by
  unfold State.flushLine
  cases kind with
  | writeBack =>
    dsimp only
    split
    · exact ((rimUse_caches s line none).wf).trans h
    · exact h
  | writeBackInvalidate =>
    dsimp only
    split
    · exact ((dropLine_caches _ line).wf).trans ((rimUse_caches s line none).wf.trans h)
    · exact (dropLine_caches s line).wf.trans h
  | invalidate =>
    dsimp only
    split
    · exact (dropLine_caches s line).wf.trans h
    · exact wf_loseLine line _ ((dropLine_caches s line).wf.trans h)

/-- The loss of some cores' caches keeps the form of memory. -/
theorem wf_loseCaches {s : State} (gone cluster : Nat → Bool) (h : Memory.wf s = true) : Memory.wf (s.loseCaches gone cluster) = true := by
  have key : ∀ (xs : List SliceLine) (s : State), Memory.wf s = true → Memory.wf (xs.foldl (fun s x => match x.home with
      | none => s
      | some bs => (s.dropLine x.line).loseLine x.line bs) s) = true := by
    intro xs
    induction xs with
    | nil => exact fun _ h => h
    | cons x xs ih =>
      intro s h
      refine ih _ ?_
      dsimp only
      split
      · exact h
      · exact wf_loseLine x.line _ ((dropLine_caches s x.line).wf.trans h)
  exact key _ s h

end Sys2Proof.Laws
end

