-- ==== Sys2Proof/Laws/Exec.lean ====
section
/-!
SUPPORT. Laws/Exec.lean: the meaning that exec gives each instruction and event.
-/

namespace Sys2Proof.Laws

open Sys2Proof.Machine

@[simp] theorem exec_add (d a b s) :
    exec (.add d a b) s = execAdd d a b s := rfl
@[simp] theorem exec_sub (d a b s) :
    exec (.sub d a b) s = execSub d a b s := rfl
@[simp] theorem exec_and (d a b s) :
    exec (.and d a b) s = execAnd d a b s := rfl
@[simp] theorem exec_or (d a b s) :
    exec (.or d a b) s = execOr d a b s := rfl
@[simp] theorem exec_xor (d a b s) :
    exec (.xor d a b) s = execXor d a b s := rfl
@[simp] theorem exec_shl (d a b s) :
    exec (.shl d a b) s = execShl d a b s := rfl
@[simp] theorem exec_shr (d a b s) :
    exec (.shr d a b) s = execShr d a b s := rfl
@[simp] theorem exec_sar (d a b s) :
    exec (.sar d a b) s = execSar d a b s := rfl
@[simp] theorem exec_mul (d a b s) :
    exec (.mul d a b) s = execMul d a b s := rfl
@[simp] theorem exec_mulh (d a b s) :
    exec (.mulh d a b) s = execMulh d a b s := rfl
@[simp] theorem exec_mulhz (d a b s) :
    exec (.mulhz d a b) s = execMulhz d a b s := rfl
@[simp] theorem exec_div (d a b s) :
    exec (.div d a b) s = execDiv d a b s := rfl
@[simp] theorem exec_divz (d a b s) :
    exec (.divz d a b) s = execDivz d a b s := rfl
@[simp] theorem exec_rem (d a b s) :
    exec (.rem d a b) s = execRem d a b s := rfl
@[simp] theorem exec_remz (d a b s) :
    exec (.remz d a b) s = execRemz d a b s := rfl
@[simp] theorem exec_min (d a b s) :
    exec (.min d a b) s = execMin d a b s := rfl
@[simp] theorem exec_max (d a b s) :
    exec (.max d a b) s = execMax d a b s := rfl
@[simp] theorem exec_slt (d a b s) :
    exec (.slt d a b) s = execSlt d a b s := rfl
@[simp] theorem exec_sltz (d a b s) :
    exec (.sltz d a b) s = execSltz d a b s := rfl
@[simp] theorem exec_clz (d a s) :
    exec (.clz d a) s = execClz d a s := rfl
@[simp] theorem exec_ctz (d a s) :
    exec (.ctz d a) s = execCtz d a s := rfl
@[simp] theorem exec_popc (d a s) :
    exec (.popc d a) s = execPopc d a s := rfl
@[simp] theorem exec_sext (d a n s) :
    exec (.sext d a n) s = execSext d a n s := rfl
@[simp] theorem exec_zext (d a n s) :
    exec (.zext d a n) s = execZext d a n s := rfl
@[simp] theorem exec_csel (d a b s) :
    exec (.csel d a b) s = execCsel d a b s := rfl
@[simp] theorem exec_bfx (d a b s) :
    exec (.bfx d a b) s = execBfx d a b s := rfl
@[simp] theorem exec_bfi (d a b s) :
    exec (.bfi d a b) s = execBfi d a b s := rfl
@[simp] theorem exec_lea (d a b s1 s) :
    exec (.lea d a b s1) s = execLea d a b s1 s := rfl
@[simp] theorem exec_addw (d a b s) :
    exec (.addw d a b) s = execAddw d a b s := rfl
@[simp] theorem exec_addi (d a i1 s) :
    exec (.addi d a i1) s = execAddi d a i1 s := rfl
@[simp] theorem exec_andi (d a i1 s) :
    exec (.andi d a i1) s = execAndi d a i1 s := rfl
@[simp] theorem exec_ori (d a i1 s) :
    exec (.ori d a i1) s = execOri d a i1 s := rfl
@[simp] theorem exec_xori (d a i1 s) :
    exec (.xori d a i1) s = execXori d a i1 s := rfl
@[simp] theorem exec_slti (d a i1 s) :
    exec (.slti d a i1) s = execSlti d a i1 s := rfl
@[simp] theorem exec_shli (d a s1 s) :
    exec (.shli d a s1) s = execShli d a s1 s := rfl
@[simp] theorem exec_shri (d a s1 s) :
    exec (.shri d a s1) s = execShri d a s1 s := rfl
@[simp] theorem exec_sari (d a s1 s) :
    exec (.sari d a s1) s = execSari d a s1 s := rfl
@[simp] theorem exec_ldhi (d i1 s) :
    exec (.ldhi d i1) s = execLdhi d i1 s := rfl
@[simp] theorem exec_adpc (d i1 s) :
    exec (.adpc d i1) s = execAdpc d i1 s := rfl
@[simp] theorem exec_laddr (d a die row col s) :
    exec (.laddr d a die row col) s = execLaddr d a die row col s := rfl
@[simp] theorem exec_laddrNear (d a dy dx s) :
    exec (.laddrNear d a dy dx) s = execLaddrNear d a dy dx s := rfl
@[simp] theorem exec_bmany (m o s) :
    exec (.bmany m o) s = execBmany m o s := rfl
@[simp] theorem exec_bmall (m o s) :
    exec (.bmall m o) s = execBmall m o s := rfl
@[simp] theorem exec_bmnone (m o s) :
    exec (.bmnone m o) s = execBmnone m o s := rfl
@[simp] theorem exec_beq (a b o s) :
    exec (.beq a b o) s = execBeq a b o s := rfl
@[simp] theorem exec_bne (a b o s) :
    exec (.bne a b o) s = execBne a b o s := rfl
@[simp] theorem exec_blt (a b o s) :
    exec (.blt a b o) s = execBlt a b o s := rfl
@[simp] theorem exec_bge (a b o s) :
    exec (.bge a b o) s = execBge a b o s := rfl
@[simp] theorem exec_blo (a b o s) :
    exec (.blo a b o) s = execBlo a b o s := rfl
@[simp] theorem exec_bhs (a b o s) :
    exec (.bhs a b o) s = execBhs a b o s := rfl
@[simp] theorem exec_jal (d o s) :
    exec (.jal d o) s = execJal d o s := rfl
@[simp] theorem exec_jalr (d a i1 s) :
    exec (.jalr d a i1) s = execJalr d a i1 s := rfl
@[simp] theorem exec_lb (d a i1 s) :
    exec (.lb d a i1) s = execLb d a i1 s := rfl
@[simp] theorem exec_lh (d a i1 s) :
    exec (.lh d a i1) s = execLh d a i1 s := rfl
@[simp] theorem exec_lw (d a i1 s) :
    exec (.lw d a i1) s = execLw d a i1 s := rfl
@[simp] theorem exec_ld (d a i1 s) :
    exec (.ld d a i1) s = execLd d a i1 s := rfl
@[simp] theorem exec_lbz (d a i1 s) :
    exec (.lbz d a i1) s = execLbz d a i1 s := rfl
@[simp] theorem exec_lhz (d a i1 s) :
    exec (.lhz d a i1) s = execLhz d a i1 s := rfl
@[simp] theorem exec_lwz (d a i1 s) :
    exec (.lwz d a i1) s = execLwz d a i1 s := rfl
@[simp] theorem exec_sb (d a i1 s) :
    exec (.sb d a i1) s = execSb d a i1 s := rfl
@[simp] theorem exec_sh (d a i1 s) :
    exec (.sh d a i1) s = execSh d a i1 s := rfl
@[simp] theorem exec_sw (d a i1 s) :
    exec (.sw d a i1) s = execSw d a i1 s := rfl
@[simp] theorem exec_sd (d a i1 s) :
    exec (.sd d a i1) s = execSd d a i1 s := rfl
@[simp] theorem exec_flw (d a i1 s) :
    exec (.flw d a i1) s = execFlw d a i1 s := rfl
@[simp] theorem exec_fld (d a i1 s) :
    exec (.fld d a i1) s = execFld d a i1 s := rfl
@[simp] theorem exec_fsw (d a i1 s) :
    exec (.fsw d a i1) s = execFsw d a i1 s := rfl
@[simp] theorem exec_fsd (d a i1 s) :
    exec (.fsd d a i1) s = execFsd d a i1 s := rfl
@[simp] theorem exec_fadd (d a b r p s) :
    exec (.fadd d a b r p) s = execFadd d a b r p s := rfl
@[simp] theorem exec_fsub (d a b r p s) :
    exec (.fsub d a b r p) s = execFsub d a b r p s := rfl
@[simp] theorem exec_fmul (d a b r p s) :
    exec (.fmul d a b r p) s = execFmul d a b r p s := rfl
@[simp] theorem exec_fdiv (d a b r p s) :
    exec (.fdiv d a b r p) s = execFdiv d a b r p s := rfl
@[simp] theorem exec_fsqrt (d a r p s) :
    exec (.fsqrt d a r p) s = execFsqrt d a r p s := rfl
@[simp] theorem exec_fma (d a b r p s) :
    exec (.fma d a b r p) s = execFma d a b r p s := rfl
@[simp] theorem exec_fmin (d a b p s) :
    exec (.fmin d a b p) s = execFmin d a b p s := rfl
@[simp] theorem exec_fmax (d a b p s) :
    exec (.fmax d a b p) s = execFmax d a b p s := rfl
@[simp] theorem exec_feq (d a b p s) :
    exec (.feq d a b p) s = execFeq d a b p s := rfl
@[simp] theorem exec_flt (d a b p s) :
    exec (.flt d a b p) s = execFlt d a b p s := rfl
@[simp] theorem exec_fle (d a b p s) :
    exec (.fle d a b p) s = execFle d a b p s := rfl
@[simp] theorem exec_fsgn (d a b s1 p s) :
    exec (.fsgn d a b s1 p) s = execFsgn d a b s1 p s := rfl
@[simp] theorem exec_fclass (d a p s) :
    exec (.fclass d a p) s = execFclass d a p s := rfl
@[simp] theorem exec_fcvt (d a dst src r s) :
    exec (.fcvt d a dst src r) s = execFcvt d a dst src r s := rfl
@[simp] theorem exec_fcvti (d a wide z r p s) :
    exec (.fcvti d a wide z r p) s = execFcvti d a wide z r p s := rfl
@[simp] theorem exec_fcvtf (d a wide z r p s) :
    exec (.fcvtf d a wide z r p) s = execFcvtf d a wide z r p s := rfl
@[simp] theorem exec_fmvgf (d a p s) :
    exec (.fmvgf d a p) s = execFmvgf d a p s := rfl
@[simp] theorem exec_fmvfg (d a p s) :
    exec (.fmvfg d a p) s = execFmvfg d a p s := rfl
@[simp] theorem exec_vadd (d a b k e s) :
    exec (.vadd d a b k e) s = execVadd d a b k e s := rfl
@[simp] theorem exec_vsub (d a b k e s) :
    exec (.vsub d a b k e) s = execVsub d a b k e s := rfl
@[simp] theorem exec_vmul (d a b k e s) :
    exec (.vmul d a b k e) s = execVmul d a b k e s := rfl
@[simp] theorem exec_vmulh (d a b k e s) :
    exec (.vmulh d a b k e) s = execVmulh d a b k e s := rfl
@[simp] theorem exec_vmulhz (d a b k e s) :
    exec (.vmulhz d a b k e) s = execVmulhz d a b k e s := rfl
@[simp] theorem exec_vmin (d a b k e s) :
    exec (.vmin d a b k e) s = execVmin d a b k e s := rfl
@[simp] theorem exec_vmax (d a b k e s) :
    exec (.vmax d a b k e) s = execVmax d a b k e s := rfl
@[simp] theorem exec_vminz (d a b k e s) :
    exec (.vminz d a b k e) s = execVminz d a b k e s := rfl
@[simp] theorem exec_vmaxz (d a b k e s) :
    exec (.vmaxz d a b k e) s = execVmaxz d a b k e s := rfl
@[simp] theorem exec_vand (d a b k e s) :
    exec (.vand d a b k e) s = execVand d a b k e s := rfl
@[simp] theorem exec_vor (d a b k e s) :
    exec (.vor d a b k e) s = execVor d a b k e s := rfl
@[simp] theorem exec_vxor (d a b k e s) :
    exec (.vxor d a b k e) s = execVxor d a b k e s := rfl
@[simp] theorem exec_vshl (d a b k e s) :
    exec (.vshl d a b k e) s = execVshl d a b k e s := rfl
@[simp] theorem exec_vshr (d a b k e s) :
    exec (.vshr d a b k e) s = execVshr d a b k e s := rfl
@[simp] theorem exec_vsar (d a b k e s) :
    exec (.vsar d a b k e) s = execVsar d a b k e s := rfl
@[simp] theorem exec_vsadd (d a b k e s) :
    exec (.vsadd d a b k e) s = execVsadd d a b k e s := rfl
@[simp] theorem exec_vssub (d a b k e s) :
    exec (.vssub d a b k e) s = execVssub d a b k e s := rfl
@[simp] theorem exec_vmacc (d a b k e s) :
    exec (.vmacc d a b k e) s = execVmacc d a b k e s := rfl
@[simp] theorem exec_vdot4 (d a b k s) :
    exec (.vdot4 d a b k) s = execVdot4 d a b k s := rfl
@[simp] theorem exec_vnarrow (d a m k e s) :
    exec (.vnarrow d a m k e) s = execVnarrow d a m k e s := rfl
@[simp] theorem exec_vwiden (d a x k e s) :
    exec (.vwiden d a x k e) s = execVwiden d a x k e s := rfl
@[simp] theorem exec_vaddScalar (d a b k e s) :
    exec (.vaddScalar d a b k e) s = execVaddScalar d a b k e s := rfl
@[simp] theorem exec_vsubScalar (d a b k e s) :
    exec (.vsubScalar d a b k e) s = execVsubScalar d a b k e s := rfl
@[simp] theorem exec_vmulScalar (d a b k e s) :
    exec (.vmulScalar d a b k e) s = execVmulScalar d a b k e s := rfl
@[simp] theorem exec_vmulhScalar (d a b k e s) :
    exec (.vmulhScalar d a b k e) s = execVmulhScalar d a b k e s := rfl
@[simp] theorem exec_vmulhzScalar (d a b k e s) :
    exec (.vmulhzScalar d a b k e) s = execVmulhzScalar d a b k e s := rfl
@[simp] theorem exec_vminScalar (d a b k e s) :
    exec (.vminScalar d a b k e) s = execVminScalar d a b k e s := rfl
@[simp] theorem exec_vmaxScalar (d a b k e s) :
    exec (.vmaxScalar d a b k e) s = execVmaxScalar d a b k e s := rfl
@[simp] theorem exec_vminzScalar (d a b k e s) :
    exec (.vminzScalar d a b k e) s = execVminzScalar d a b k e s := rfl
@[simp] theorem exec_vmaxzScalar (d a b k e s) :
    exec (.vmaxzScalar d a b k e) s = execVmaxzScalar d a b k e s := rfl
@[simp] theorem exec_vandScalar (d a b k e s) :
    exec (.vandScalar d a b k e) s = execVandScalar d a b k e s := rfl
@[simp] theorem exec_vorScalar (d a b k e s) :
    exec (.vorScalar d a b k e) s = execVorScalar d a b k e s := rfl
@[simp] theorem exec_vxorScalar (d a b k e s) :
    exec (.vxorScalar d a b k e) s = execVxorScalar d a b k e s := rfl
@[simp] theorem exec_vshlScalar (d a b k e s) :
    exec (.vshlScalar d a b k e) s = execVshlScalar d a b k e s := rfl
@[simp] theorem exec_vshrScalar (d a b k e s) :
    exec (.vshrScalar d a b k e) s = execVshrScalar d a b k e s := rfl
@[simp] theorem exec_vsarScalar (d a b k e s) :
    exec (.vsarScalar d a b k e) s = execVsarScalar d a b k e s := rfl
@[simp] theorem exec_vsaddScalar (d a b k e s) :
    exec (.vsaddScalar d a b k e) s = execVsaddScalar d a b k e s := rfl
@[simp] theorem exec_vssubScalar (d a b k e s) :
    exec (.vssubScalar d a b k e) s = execVssubScalar d a b k e s := rfl
@[simp] theorem exec_vmaccScalar (d a b k e s) :
    exec (.vmaccScalar d a b k e) s = execVmaccScalar d a b k e s := rfl
@[simp] theorem exec_vdot4Scalar (d a b k s) :
    exec (.vdot4Scalar d a b k) s = execVdot4Scalar d a b k s := rfl
@[simp] theorem exec_vfadd (d a b k e s) :
    exec (.vfadd d a b k e) s = execVfadd d a b k e s := rfl
@[simp] theorem exec_vfsub (d a b k e s) :
    exec (.vfsub d a b k e) s = execVfsub d a b k e s := rfl
@[simp] theorem exec_vfmul (d a b k e s) :
    exec (.vfmul d a b k e) s = execVfmul d a b k e s := rfl
@[simp] theorem exec_vfdiv (d a b k e s) :
    exec (.vfdiv d a b k e) s = execVfdiv d a b k e s := rfl
@[simp] theorem exec_vfsqrt (d a k e s) :
    exec (.vfsqrt d a k e) s = execVfsqrt d a k e s := rfl
@[simp] theorem exec_vfma (d a b k e s) :
    exec (.vfma d a b k e) s = execVfma d a b k e s := rfl
@[simp] theorem exec_vfms (d a b k e s) :
    exec (.vfms d a b k e) s = execVfms d a b k e s := rfl
@[simp] theorem exec_vfnma (d a b k e s) :
    exec (.vfnma d a b k e) s = execVfnma d a b k e s := rfl
@[simp] theorem exec_vfmin (d a b k e s) :
    exec (.vfmin d a b k e) s = execVfmin d a b k e s := rfl
@[simp] theorem exec_vfmax (d a b k e s) :
    exec (.vfmax d a b k e) s = execVfmax d a b k e s := rfl
@[simp] theorem exec_vfrcpe (d a k e s) :
    exec (.vfrcpe d a k e) s = execVfrcpe d a k e s := rfl
@[simp] theorem exec_vfrsqe (d a k e s) :
    exec (.vfrsqe d a k e) s = execVfrsqe d a k e s := rfl
@[simp] theorem exec_vfcvt (d a r src k e s) :
    exec (.vfcvt d a r src k e) s = execVfcvt d a r src k e s := rfl
@[simp] theorem exec_vfcvti (d a r z w k e s) :
    exec (.vfcvti d a r z w k e) s = execVfcvti d a r z w k e s := rfl
@[simp] theorem exec_vfcvtf (d a r z w k e s) :
    exec (.vfcvtf d a r z w k e) s = execVfcvtf d a r z w k e s := rfl
@[simp] theorem exec_vfscale (d a b k e s) :
    exec (.vfscale d a b k e) s = execVfscale d a b k e s := rfl
@[simp] theorem exec_vfmxq (d a r n k e s) :
    exec (.vfmxq d a r n k e) s = execVfmxq d a r n k e s := rfl
@[simp] theorem exec_vfsgn (d a b k e s) :
    exec (.vfsgn d a b k e) s = execVfsgn d a b k e s := rfl
@[simp] theorem exec_vfaddScalar (d a b k e s) :
    exec (.vfaddScalar d a b k e) s = execVfaddScalar d a b k e s := rfl
@[simp] theorem exec_vfsubScalar (d a b k e s) :
    exec (.vfsubScalar d a b k e) s = execVfsubScalar d a b k e s := rfl
@[simp] theorem exec_vfmulScalar (d a b k e s) :
    exec (.vfmulScalar d a b k e) s = execVfmulScalar d a b k e s := rfl
@[simp] theorem exec_vfdivScalar (d a b k e s) :
    exec (.vfdivScalar d a b k e) s = execVfdivScalar d a b k e s := rfl
@[simp] theorem exec_vfmaScalar (d a b k e s) :
    exec (.vfmaScalar d a b k e) s = execVfmaScalar d a b k e s := rfl
@[simp] theorem exec_vfmsScalar (d a b k e s) :
    exec (.vfmsScalar d a b k e) s = execVfmsScalar d a b k e s := rfl
@[simp] theorem exec_vfnmaScalar (d a b k e s) :
    exec (.vfnmaScalar d a b k e) s = execVfnmaScalar d a b k e s := rfl
@[simp] theorem exec_vfminScalar (d a b k e s) :
    exec (.vfminScalar d a b k e) s = execVfminScalar d a b k e s := rfl
@[simp] theorem exec_vfmaxScalar (d a b k e s) :
    exec (.vfmaxScalar d a b k e) s = execVfmaxScalar d a b k e s := rfl
@[simp] theorem exec_vfscaleScalar (d a b k e s) :
    exec (.vfscaleScalar d a b k e) s = execVfscaleScalar d a b k e s := rfl
@[simp] theorem exec_vfsgnScalar (d a b k e s) :
    exec (.vfsgnScalar d a b k e) s = execVfsgnScalar d a b k e s := rfl
@[simp] theorem exec_vcmpeq (d a b k e s) :
    exec (.vcmpeq d a b k e) s = execVcmpeq d a b k e s := rfl
@[simp] theorem exec_vcmpne (d a b k e s) :
    exec (.vcmpne d a b k e) s = execVcmpne d a b k e s := rfl
@[simp] theorem exec_vcmplt (d a b k e s) :
    exec (.vcmplt d a b k e) s = execVcmplt d a b k e s := rfl
@[simp] theorem exec_vcmple (d a b k e s) :
    exec (.vcmple d a b k e) s = execVcmple d a b k e s := rfl
@[simp] theorem exec_vcmplo (d a b k e s) :
    exec (.vcmplo d a b k e) s = execVcmplo d a b k e s := rfl
@[simp] theorem exec_vcmpls (d a b k e s) :
    exec (.vcmpls d a b k e) s = execVcmpls d a b k e s := rfl
@[simp] theorem exec_vfcmpeq (d a b k e s) :
    exec (.vfcmpeq d a b k e) s = execVfcmpeq d a b k e s := rfl
@[simp] theorem exec_vfcmplt (d a b k e s) :
    exec (.vfcmplt d a b k e) s = execVfcmplt d a b k e s := rfl
@[simp] theorem exec_vfcmple (d a b k e s) :
    exec (.vfcmple d a b k e) s = execVfcmple d a b k e s := rfl
@[simp] theorem exec_mand (d a b k e s) :
    exec (.mand d a b k e) s = execMand d a b k e s := rfl
@[simp] theorem exec_mor (d a b k e s) :
    exec (.mor d a b k e) s = execMor d a b k e s := rfl
@[simp] theorem exec_mxor (d a b k e s) :
    exec (.mxor d a b k e) s = execMxor d a b k e s := rfl
@[simp] theorem exec_mandn (d a b k e s) :
    exec (.mandn d a b k e) s = execMandn d a b k e s := rfl
@[simp] theorem exec_mpopc (d a k e s) :
    exec (.mpopc d a k e) s = execMpopc d a k e s := rfl
@[simp] theorem exec_mfirst (d a k e s) :
    exec (.mfirst d a k e) s = execMfirst d a k e s := rfl
@[simp] theorem exec_mtofirst (d a k e s) :
    exec (.mtofirst d a k e) s = execMtofirst d a k e s := rfl
@[simp] theorem exec_mbefore (d a k e s) :
    exec (.mbefore d a k e) s = execMbefore d a k e s := rfl
@[simp] theorem exec_mfromg (d a b s) :
    exec (.mfromg d a b) s = execMfromg d a b s := rfl
@[simp] theorem exec_mtog (d a b s) :
    exec (.mtog d a b) s = execMtog d a b s := rfl
@[simp] theorem exec_vslideup (d a b k e s) :
    exec (.vslideup d a b k e) s = execVslideup d a b k e s := rfl
@[simp] theorem exec_vslidedn (d a b k e s) :
    exec (.vslidedn d a b k e) s = execVslidedn d a b k e s := rfl
@[simp] theorem exec_vperm (d a b k e s) :
    exec (.vperm d a b k e) s = execVperm d a b k e s := rfl
@[simp] theorem exec_vcompress (d a k e s) :
    exec (.vcompress d a k e) s = execVcompress d a k e s := rfl
@[simp] theorem exec_vexpand (d a k e s) :
    exec (.vexpand d a k e) s = execVexpand d a k e s := rfl
@[simp] theorem exec_vmerge (d a b k e s) :
    exec (.vmerge d a b k e) s = execVmerge d a b k e s := rfl
@[simp] theorem exec_vsplat (d b k e s) :
    exec (.vsplat d b k e) s = execVsplat d b k e s := rfl
@[simp] theorem exec_vextr (d a b e s) :
    exec (.vextr d a b e) s = execVextr d a b e s := rfl
@[simp] theorem exec_vzip (d a b k e s) :
    exec (.vzip d a b k e) s = execVzip d a b k e s := rfl
@[simp] theorem exec_vunzip (d a b k e s) :
    exec (.vunzip d a b k e) s = execVunzip d a b k e s := rfl
@[simp] theorem exec_viota (d a k e s) :
    exec (.viota d a k e) s = execViota d a k e s := rfl
@[simp] theorem exec_vbfly (d a b k e s) :
    exec (.vbfly d a b k e) s = execVbfly d a b k e s := rfl
@[simp] theorem exec_vredsum (d a b k e s) :
    exec (.vredsum d a b k e) s = execVredsum d a b k e s := rfl
@[simp] theorem exec_vredmax (d a b k e s) :
    exec (.vredmax d a b k e) s = execVredmax d a b k e s := rfl
@[simp] theorem exec_vredmin (d a b k e s) :
    exec (.vredmin d a b k e) s = execVredmin d a b k e s := rfl
@[simp] theorem exec_vfredsum (d a b k e s) :
    exec (.vfredsum d a b k e) s = execVfredsum d a b k e s := rfl
@[simp] theorem exec_vfredmax (d a b k e s) :
    exec (.vfredmax d a b k e) s = execVfredmax d a b k e s := rfl
@[simp] theorem exec_vscan (d a b k e s) :
    exec (.vscan d a b k e) s = execVscan d a b k e s := rfl
@[simp] theorem exec_vhash (d a b k e s) :
    exec (.vhash d a b k e) s = execVhash d a b k e s := rfl
@[simp] theorem exec_vpart (d a b k e s) :
    exec (.vpart d a b k e) s = execVpart d a b k e s := rfl
@[simp] theorem exec_vconflict (d a k e s) :
    exec (.vconflict d a k e) s = execVconflict d a k e s := rfl
@[simp] theorem exec_vmatchb (d a b k s) :
    exec (.vmatchb d a b k) s = execVmatchb d a b k s := rfl
@[simp] theorem exec_vstrld (d a k s) :
    exec (.vstrld d a k) s = execVstrld d a k s := rfl
@[simp] theorem exec_vstrcmp (d a b k s) :
    exec (.vstrcmp d a b k) s = execVstrcmp d a b k s := rfl
@[simp] theorem exec_vstrhash (d a k s) :
    exec (.vstrhash d a k) s = execVstrhash d a k s := rfl
@[simp] theorem exec_vrand (d k e s) :
    exec (.vrand d k e) s = execVrand d k e s := rfl
@[simp] theorem exec_setvl (d a e s) :
    exec (.setvl d a e) s = execSetvl d a e s := rfl
@[simp] theorem exec_setvli (d u e s) :
    exec (.setvli d u e) s = execSetvli d u e s := rfl
@[simp] theorem exec_vld (d a k e s) :
    exec (.vld d a k e) s = execVld d a k e s := rfl
@[simp] theorem exec_vlds (d a s1 k e s) :
    exec (.vlds d a s1 k e) s = execVlds d a s1 k e s := rfl
@[simp] theorem exec_vldx (d a x k e s) :
    exec (.vldx d a x k e) s = execVldx d a x k e s := rfl
@[simp] theorem exec_vldseg (d a f k e s) :
    exec (.vldseg d a f k e) s = execVldseg d a f k e s := rfl
@[simp] theorem exec_vldff (d a k e s) :
    exec (.vldff d a k e) s = execVldff d a k e s := rfl
@[simp] theorem exec_vst (d a k e s) :
    exec (.vst d a k e) s = execVst d a k e s := rfl
@[simp] theorem exec_vsts (d a s1 k e s) :
    exec (.vsts d a s1 k e) s = execVsts d a s1 k e s := rfl
@[simp] theorem exec_vstx (d a x k e s) :
    exec (.vstx d a x k e) s = execVstx d a x k e s := rfl
@[simp] theorem exec_vstseg (d a f k e s) :
    exec (.vstseg d a f k e) s = execVstseg d a f k e s := rfl
@[simp] theorem exec_vpst (d a k e s) :
    exec (.vpst d a k e) s = execVpst d a k e s := rfl
@[simp] theorem exec_tzero (d s) :
    exec (.tzero d) s = execTzero d s := rfl
@[simp] theorem exec_tld (d a b n s) :
    exec (.tld d a b n) s = execTld d a b n s := rfl
@[simp] theorem exec_tst (d a b n s) :
    exec (.tst d a b n) s = execTst d a b n s := rfl
@[simp] theorem exec_tmovvt (d a b s) :
    exec (.tmovvt d a b) s = execTmovvt d a b s := rfl
@[simp] theorem exec_tmovtv (d a b s) :
    exec (.tmovtv d a b) s = execTmovtv d a b s := rfl
@[simp] theorem exec_topa (d a b z s) :
    exec (.topa d a b z) s = execTopa d a b z s := rfl
@[simp] theorem exec_tsave (r s) :
    exec (.tsave r) s = execTsave r s := rfl
@[simp] theorem exec_trestore (s) :
    exec .trestore s = execTrestore s := rfl
@[simp] theorem exec_mlease (d a b w s) :
    exec (.mlease d a b w) s = execMlease d a b w s := rfl
@[simp] theorem exec_mrelease (s) :
    exec .mrelease s = execMrelease s := rfl
@[simp] theorem exec_mfmt (a s) :
    exec (.mfmt a) s = execMfmt a s := rfl
@[simp] theorem exec_plant (a b t s) :
    exec (.plant a b t) s = execPlant a b t s := rfl
@[simp] theorem exec_mma (d a b n z r s) :
    exec (.mma d a b n z r) s = execMma d a b n z r s := rfl
@[simp] theorem exec_mmas (d a b n z r s) :
    exec (.mmas d a b n z r) s = execMmas d a b n z r s := rfl
@[simp] theorem exec_mzero (d s) :
    exec (.mzero d) s = execMzero d s := rfl
@[simp] theorem exec_mdrain (d a b r c k s) :
    exec (.mdrain d a b r c k) s = execMdrain d a b r c k s := rfl
@[simp] theorem exec_mchain (d a b c s) :
    exec (.mchain d a b c) s = execMchain d a b c s := rfl
@[simp] theorem exec_mcoll (d a b r c s) :
    exec (.mcoll d a b r c) s = execMcoll d a b r c s := rfl
@[simp] theorem exec_mstat (d s) :
    exec (.mstat d) s = execMstat d s := rfl
@[simp] theorem exec_amoswap (d a b s1 r q w s) :
    exec (.amoswap d a b s1 r q w) s = execAmoswap d a b s1 r q w s := rfl
@[simp] theorem exec_amoadd (d a b s1 r q w s) :
    exec (.amoadd d a b s1 r q w) s = execAmoadd d a b s1 r q w s := rfl
@[simp] theorem exec_amoand (d a b s1 r q w s) :
    exec (.amoand d a b s1 r q w) s = execAmoand d a b s1 r q w s := rfl
@[simp] theorem exec_amoor (d a b s1 r q w s) :
    exec (.amoor d a b s1 r q w) s = execAmoor d a b s1 r q w s := rfl
@[simp] theorem exec_amoxor (d a b s1 r q w s) :
    exec (.amoxor d a b s1 r q w) s = execAmoxor d a b s1 r q w s := rfl
@[simp] theorem exec_amomin (d a b s1 r q w s) :
    exec (.amomin d a b s1 r q w) s = execAmomin d a b s1 r q w s := rfl
@[simp] theorem exec_amomax (d a b s1 r q w s) :
    exec (.amomax d a b s1 r q w) s = execAmomax d a b s1 r q w s := rfl
@[simp] theorem exec_amocas (d a b s1 r q w s) :
    exec (.amocas d a b s1 r q w) s = execAmocas d a b s1 r q w s := rfl
@[simp] theorem exec_amofadd (d a b s1 r q w s) :
    exec (.amofadd d a b s1 r q w) s = execAmofadd d a b s1 r q w s := rfl
@[simp] theorem exec_redadd (a b s1 r w s) :
    exec (.redadd a b s1 r w) s = execRedadd a b s1 r w s := rfl
@[simp] theorem exec_redmin (a b s1 r w s) :
    exec (.redmin a b s1 r w) s = execRedmin a b s1 r w s := rfl
@[simp] theorem exec_redmax (a b s1 r w s) :
    exec (.redmax a b s1 r w) s = execRedmax a b s1 r w s := rfl
@[simp] theorem exec_redfadd (a b s1 r w s) :
    exec (.redfadd a b s1 r w) s = execRedfadd a b s1 r w s := rfl
@[simp] theorem exec_redfmax (a b s1 r w s) :
    exec (.redfmax a b s1 r w) s = execRedfmax a b s1 r w s := rfl
@[simp] theorem exec_vredm (d a b s1 r t s) :
    exec (.vredm d a b s1 r t) s = execVredm d a b s1 r t s := rfl
@[simp] theorem exec_binit (a s) :
    exec (.binit a) s = execBinit a s := rfl
@[simp] theorem exec_barr (d a c s) :
    exec (.barr d a c) s = execBarr d a c s := rfl
@[simp] theorem exec_bexp (d a r s) :
    exec (.bexp d a r) s = execBexp d a r s := rfl
@[simp] theorem exec_bwait (d a s) :
    exec (.bwait d a) s = execBwait d a s := rfl
@[simp] theorem exec_btestCnt (d a s) :
    exec (.btestCnt d a) s = execBtestCnt d a s := rfl
@[simp] theorem exec_btestFlg (d a s) :
    exec (.btestFlg d a) s = execBtestFlg d a s := rfl
@[simp] theorem exec_bdomRect (a j s) :
    exec (.bdomRect a j) s = execBdomRect a j s := rfl
@[simp] theorem exec_bdomList (a j s) :
    exec (.bdomList a j) s = execBdomList a j s := rfl
@[simp] theorem exec_evwait (d a s) :
    exec (.evwait d a) s = execEvwait d a s := rfl
@[simp] theorem exec_evsig (d a x s) :
    exec (.evsig d a x) s = execEvsig d a x s := rfl
@[simp] theorem exec_evlock (d a t s) :
    exec (.evlock d a t) s = execEvlock d a t s := rfl
@[simp] theorem exec_evunlock (a s) :
    exec (.evunlock a) s = execEvunlock a s := rfl
@[simp] theorem exec_waitv (d a b k l c s) :
    exec (.waitv d a b k l c) s = execWaitv d a b k l c s := rfl
@[simp] theorem exec_cpq (d a s) :
    exec (.cpq d a) s = execCpq d a s := rfl
@[simp] theorem exec_cpqt (d a s) :
    exec (.cpqt d a) s = execCpqt d a s := rfl
@[simp] theorem exec_qfence (m s) :
    exec (.qfence m) s = execQfence m s := rfl
@[simp] theorem exec_qstatOcc (d q s) :
    exec (.qstatOcc d q) s = execQstatOcc d q s := rfl
@[simp] theorem exec_qstatFaddr (d q s) :
    exec (.qstatFaddr d q) s = execQstatFaddr d q s := rfl
@[simp] theorem exec_qstatFcause (d q s) :
    exec (.qstatFcause d q) s = execQstatFcause d q s := rfl
@[simp] theorem exec_gcast (d a b s) :
    exec (.gcast d a b) s = execGcast d a b s := rfl
@[simp] theorem exec_fence (s1 r q c s) :
    exec (.fence s1 r q c) s = execFence s1 r q c s := rfl
@[simp] theorem exec_fencei (c s) :
    exec (.fencei c) s = execFencei c s := rfl
@[simp] theorem exec_seedput (d a s) :
    exec (.seedput d a) s = execSeedput d a s := rfl
@[simp] theorem exec_seedyield (d a s) :
    exec (.seedyield d a) s = execSeedyield d a s := rfl
@[simp] theorem exec_seedend (s) :
    exec .seedend s = execSeedend s := rfl
@[simp] theorem exec_nestgo (d a s) :
    exec (.nestgo d a) s = execNestgo d a s := rfl
@[simp] theorem exec_prio (d a s) :
    exec (.prio d a) s = execPrio d a s := rfl
@[simp] theorem exec_slotwait (d n s) :
    exec (.slotwait d n) s = execSlotwait d n s := rfl
@[simp] theorem exec_tokb (d s) :
    exec (.tokb d) s = execTokb d s := rfl
@[simp] theorem exec_verstage (d a b s) :
    exec (.verstage d a b) s = execVerstage d a b s := rfl
@[simp] theorem exec_verpub (d a s) :
    exec (.verpub d a) s = execVerpub d a s := rfl
@[simp] theorem exec_verqCur (d s) :
    exec (.verqCur d) s = execVerqCur d s := rfl
@[simp] theorem exec_verqReg (d a s) :
    exec (.verqReg d a) s = execVerqReg d a s := rfl
@[simp] theorem exec_verqSlot (d a s) :
    exec (.verqSlot d a) s = execVerqSlot d a s := rfl
@[simp] theorem exec_mark (a w s) :
    exec (.mark a w) s = execMark a w s := rfl
@[simp] theorem exec_ttgo (d a b s) :
    exec (.ttgo d a b) s = execTtgo d a b s := rfl
@[simp] theorem exec_ttstatSt (d s) :
    exec (.ttstatSt d) s = execTtstatSt d s := rfl
@[simp] theorem exec_ttstatEnt (d a s) :
    exec (.ttstatEnt d a) s = execTtstatEnt d a s := rfl
@[simp] theorem exec_ttstatFaddr (d s) :
    exec (.ttstatFaddr d) s = execTtstatFaddr d s := rfl
@[simp] theorem exec_pin (d a b w r s) :
    exec (.pin d a b w r) s = execPin d a b w r s := rfl
@[simp] theorem exec_unpin (r s) :
    exec (.unpin r) s = execUnpin r s := rfl
@[simp] theorem exec_hintef (a b r s) :
    exec (.hintef a b r) s = execHintef a b r s := rfl
@[simp] theorem exec_pref (a b x l s) :
    exec (.pref a b x l) s = execPref a b x l s := rfl
@[simp] theorem exec_cflushWb (a b s) :
    exec (.cflushWb a b) s = execCflushWb a b s := rfl
@[simp] theorem exec_cflushWbi (a b s) :
    exec (.cflushWbi a b) s = execCflushWbi a b s := rfl
@[simp] theorem exec_cflushInv (a b s) :
    exec (.cflushInv a b) s = execCflushInv a b s := rfl
@[simp] theorem exec_alloc (d a s) :
    exec (.alloc d a) s = execAlloc d a s := rfl
@[simp] theorem exec_free (a b s) :
    exec (.free a b) s = execFree a b s := rfl
@[simp] theorem exec_ecall (s) :
    exec .ecall s = execEcall s := rfl
@[simp] theorem exec_ebreak (s) :
    exec .ebreak s = execEbreak s := rfl
@[simp] theorem exec_eret (s) :
    exec .eret s = execEret s := rfl
@[simp] theorem exec_csrrd (d c s) :
    exec (.csrrd d c) s = execCsrrd d c s := rfl
@[simp] theorem exec_csrwr (d a c s) :
    exec (.csrwr d a c) s = execCsrwr d a c s := rfl
@[simp] theorem exec_csrset (d a c s) :
    exec (.csrset d a c) s = execCsrset d a c s := rfl
@[simp] theorem exec_csrclr (d a c s) :
    exec (.csrclr d a c) s = execCsrclr d a c s := rfl
@[simp] theorem exec_tlbinvPage (a s1 s) :
    exec (.tlbinvPage a s1) s = execTlbinvPage a s1 s := rfl
@[simp] theorem exec_tlbinvCid (a s1 s) :
    exec (.tlbinvCid a s1) s = execTlbinvCid a s1 s := rfl
@[simp] theorem exec_tlbinvCtx (a s1 s) :
    exec (.tlbinvCtx a s1) s = execTlbinvCtx a s1 s := rfl
@[simp] theorem exec_tlbinvAll (a s1 s) :
    exec (.tlbinvAll a s1) s = execTlbinvAll a s1 s := rfl
@[simp] theorem exec_rdtime (d s) :
    exec (.rdtime d) s = execRdtime d s := rfl
@[simp] theorem exec_rdcyc (d s) :
    exec (.rdcyc d) s = execRdcyc d s := rfl
@[simp] theorem exec_userReturn (k s) :
    exec (.userReturn k) s = execUserReturn k s := rfl
@[simp] theorem exec_spadwaysWrite (core value s) :
    exec (.spadwaysWrite core value) s = execSpadwaysWrite core value s := rfl
@[simp] theorem exec_prioceilWrite (core value s) :
    exec (.prioceilWrite core value) s = execPrioceilWrite core value s := rfl
@[simp] theorem exec_diversionTableWrite (core count value s) :
    exec (.diversionTableWrite core count value) s = execDiversionTableWrite core count value s := rfl
@[simp] theorem exec_dbgctlWrite (value s) :
    exec (.dbgctlWrite value) s = execDbgctlWrite value s := rfl
@[simp] theorem exec_spanSwitch (core s) :
    exec (.spanSwitch core) s = execSpanSwitch core s := rfl
@[simp] theorem exec_timer (core s) :
    exec (.timer core) s = execTimer core s := rfl
@[simp] theorem exec_asyncEventTake (core s) :
    exec (.asyncEventTake core) s = execAsyncEventTake core s := rfl
@[simp] theorem exec_elementProgressTimer (k elem kind port s) :
    exec (.elementProgressTimer k elem kind port) s = execElementProgressTimer k elem kind port s := rfl
@[simp] theorem exec_seedDispatch (k s) :
    exec (.seedDispatch k) s = execSeedDispatch k s := rfl
@[simp] theorem exec_loadDataReturn (k reg s) :
    exec (.loadDataReturn k reg) s = execLoadDataReturn k reg s := rfl
@[simp] theorem exec_acknowledgement (i1 s) :
    exec (.acknowledgement i1) s = execAcknowledgement i1 s := rfl
@[simp] theorem exec_remoteWriteArrival (i1 s) :
    exec (.remoteWriteArrival i1) s = execRemoteWriteArrival i1 s := rfl
@[simp] theorem exec_heldRead (i1 s) :
    exec (.heldRead i1) s = execHeldRead i1 s := rfl
@[simp] theorem exec_amoArrival (i1 s) :
    exec (.amoArrival i1) s = execAmoArrival i1 s := rfl
@[simp] theorem exec_messageRetry (i1 s) :
    exec (.messageRetry i1) s = execMessageRetry i1 s := rfl
@[simp] theorem exec_barrierArrival (i1 s) :
    exec (.barrierArrival i1) s = execBarrierArrival i1 s := rfl
@[simp] theorem exec_expectation (i1 s) :
    exec (.expectation i1) s = execExpectation i1 s := rfl
@[simp] theorem exec_byteSubtraction (i1 s) :
    exec (.byteSubtraction i1) s = execByteSubtraction i1 s := rfl
@[simp] theorem exec_phaseMessage (i1 s) :
    exec (.phaseMessage i1) s = execPhaseMessage i1 s := rfl
@[simp] theorem exec_bexpReply (k s) :
    exec (.bexpReply k) s = execBexpReply k s := rfl
@[simp] theorem exec_bwaitWake (k s) :
    exec (.bwaitWake k) s = execBwaitWake k s := rfl
@[simp] theorem exec_evwaitWake (k s) :
    exec (.evwaitWake k) s = execEvwaitWake k s := rfl
@[simp] theorem exec_evlockWake (k s) :
    exec (.evlockWake k) s = execEvlockWake k s := rfl
@[simp] theorem exec_waitvWake (k s) :
    exec (.waitvWake k) s = execWaitvWake k s := rfl
@[simp] theorem exec_slotwaitWake (k s) :
    exec (.slotwaitWake k) s = execSlotwaitWake k s := rfl
@[simp] theorem exec_eventLineUpdate (i1 s) :
    exec (.eventLineUpdate i1) s = execEventLineUpdate i1 s := rfl
@[simp] theorem exec_copyChunk (core queue s) :
    exec (.copyChunk core queue) s = execCopyChunk core queue s := rfl
@[simp] theorem exec_collectivePerform (cluster s) :
    exec (.collectivePerform cluster) s = execCollectivePerform cluster s := rfl
@[simp] theorem exec_leaseGrant (cluster s) :
    exec (.leaseGrant cluster) s = execLeaseGrant cluster s := rfl
@[simp] theorem exec_budgetExpiry (core s) :
    exec (.budgetExpiry core) s = execBudgetExpiry core s := rfl
@[simp] theorem exec_millCommandPerform (core s) :
    exec (.millCommandPerform core) s = execMillCommandPerform core s := rfl
@[simp] theorem exec_mchainLanding (k reg s) :
    exec (.mchainLanding k reg) s = execMchainLanding k reg s := rfl
@[simp] theorem exec_slottedInjection (core s) :
    exec (.slottedInjection core) s = execSlottedInjection core s := rfl
@[simp] theorem exec_shareRefill (s) :
    exec .shareRefill s = execShareRefill s := rfl
@[simp] theorem exec_loadMonitorWindow (die s) :
    exec (.loadMonitorWindow die) s = execLoadMonitorWindow die s := rfl
@[simp] theorem exec_ttEntryBegin (part entry s) :
    exec (.ttEntryBegin part entry) s = execTtEntryBegin part entry s := rfl
@[simp] theorem exec_ttEntryComplete (part entry s) :
    exec (.ttEntryComplete part entry) s = execTtEntryComplete part entry s := rfl
@[simp] theorem exec_hostSeedWrite (port offset x s) :
    exec (.hostSeedWrite port offset x) s = execHostSeedWrite port offset x s := rfl
@[simp] theorem exec_semTake (agent cell s) :
    exec (.semTake agent cell) s = execSemTake agent cell s := rfl
@[simp] theorem exec_semRelease (agent cell value s) :
    exec (.semRelease agent cell value) s = execSemRelease agent cell value s := rfl
@[simp] theorem exec_mailboxWrite (core sender value s) :
    exec (.mailboxWrite core sender value) s = execMailboxWrite core sender value s := rfl
@[simp] theorem exec_barrierWindowArrive (core bar value s) :
    exec (.barrierWindowArrive core bar value) s = execBarrierWindowArrive core bar value s := rfl
@[simp] theorem exec_barrierWindowExpect (core bar value s) :
    exec (.barrierWindowExpect core bar value) s = execBarrierWindowExpect core bar value s := rfl
@[simp] theorem exec_eventLineInit (line value s) :
    exec (.eventLineInit line value) s = execEventLineInit line value s := rfl
@[simp] theorem exec_eventLineSignal (line value s) :
    exec (.eventLineSignal line value) s = execEventLineSignal line value s := rfl
@[simp] theorem exec_hostHdmWrite (port offset x s) :
    exec (.hostHdmWrite port offset x) s = execHostHdmWrite port offset x s := rfl
@[simp] theorem exec_fwCreatePartition (k s) :
    exec (.fwCreatePartition k) s = execFwCreatePartition k s := rfl
@[simp] theorem exec_fwSetShareWeight (k s) :
    exec (.fwSetShareWeight k) s = execFwSetShareWeight k s := rfl
@[simp] theorem exec_fwDestroyPartition (k s) :
    exec (.fwDestroyPartition k) s = execFwDestroyPartition k s := rfl
@[simp] theorem exec_fwSetPowerState (k s) :
    exec (.fwSetPowerState k) s = execFwSetPowerState k s := rfl
@[simp] theorem exec_fwDebugGrant (k s) :
    exec (.fwDebugGrant k) s = execFwDebugGrant k s := rfl
@[simp] theorem exec_fwStartChipletCore (k s) :
    exec (.fwStartChipletCore k) s = execFwStartChipletCore k s := rfl
@[simp] theorem exec_reset (s) :
    exec .reset s = execReset s := rfl
@[simp] theorem exec_powerWake (s) :
    exec .powerWake s = execPowerWake s := rfl
@[simp] theorem exec_supplySag (cluster s) :
    exec (.supplySag cluster) s = execSupplySag cluster s := rfl
@[simp] theorem exec_tamper (k s) :
    exec (.tamper k) s = execTamper k s := rfl
@[simp] theorem exec_debugHalt (k s) :
    exec (.debugHalt k) s = execDebugHalt k s := rfl
@[simp] theorem exec_getVersion (port s) :
    exec (.getVersion port) s = execGetVersion port s := rfl
@[simp] theorem exec_getCapabilities (port s) :
    exec (.getCapabilities port) s = execGetCapabilities port s := rfl
@[simp] theorem exec_negotiateAlgorithms (port s) :
    exec (.negotiateAlgorithms port) s = execNegotiateAlgorithms port s := rfl
@[simp] theorem exec_getDigests (port s) :
    exec (.getDigests port) s = execGetDigests port s := rfl
@[simp] theorem exec_getCertificate (port slot offset length s) :
    exec (.getCertificate port slot offset length) s = execGetCertificate port slot offset length s := rfl
@[simp] theorem exec_challenge (port nonce s) :
    exec (.challenge port nonce) s = execChallenge port nonce s := rfl
@[simp] theorem exec_getMeasurements (port nonce s) :
    exec (.getMeasurements port nonce) s = execGetMeasurements port nonce s := rfl
@[simp] theorem exec_keyExchange (port s) :
    exec (.keyExchange port) s = execKeyExchange port s := rfl
@[simp] theorem exec_finish (port s) :
    exec (.finish port) s = execFinish port s := rfl
@[simp] theorem exec_endSession (port s) :
    exec (.endSession port) s = execEndSession port s := rfl
@[simp] theorem exec_unassignedInstructionWord (w s) :
    exec (.unassignedInstructionWord w) s = execUnassignedInstructionWord w s := rfl
@[simp] theorem exec_longLatencyResult (k reg s) :
    exec (.longLatencyResult k reg) s = execLongLatencyResult k reg s := rfl
@[simp] theorem exec_tlbinvComplete (i1 s) :
    exec (.tlbinvComplete i1) s = execTlbinvComplete i1 s := rfl
@[simp] theorem exec_hostLinkTraining (port s) :
    exec (.hostLinkTraining port) s = execHostLinkTraining port s := rfl
@[simp] theorem exec_supplySagEnd (cluster s) :
    exec (.supplySagEnd cluster) s = execSupplySagEnd cluster s := rfl

end Sys2Proof.Laws
end

