-- ==== Sys2Proof/Laws/Net.lean ====
section
/-!
SUPPORT. Laws/Net.lean: what the operations of the network can do: they change messages, ports, counts and the schedule alone, and no
byte, strand or partition; and what the passing of time can do.
-/

namespace Sys2Proof.Laws

open Sys2Proof.Machine

/-- `s` with what the network of `t` holds: its messages, the ports in the cores, its counts, and what it has drawn from the schedule
and the free values. -/
def withNet (s t : State) : State :=
  { s with net := t.net, traffic := t.traffic, sent := t.sent, lags := t.lags, served := t.served, monitors := t.monitors, cores := t.cores,
           fresh := t.fresh }

/-- From `s` to `t` nothing but the network has changed. -/
def NetOnly (s t : State) : Prop := t = withNet s t

theorem NetOnly.refl (s : State) : NetOnly s s := rfl

theorem NetOnly.trans {s t u : State} (h : NetOnly s t) (k : NetOnly t u) : NetOnly s u := by
  unfold NetOnly at h k ⊢
  rw [k, h]
  rfl

theorem NetOnly.foldl {α : Type} {f : State → α → State} (h : ∀ s x, NetOnly s (f s x)) (xs : List α) :
    ∀ s, NetOnly s (xs.foldl f s) := by
  induction xs with
  | nil => exact NetOnly.refl
  | cons x xs ih => exact fun s => (h s x).trans (ih _)

/-- The network changes no byte. -/
theorem NetOnly.mem {s t : State} (h : NetOnly s t) : t.mem = s.mem := by rw [h]; rfl

/-- The network changes no strand. -/
theorem NetOnly.strandAt {s t : State} (h : NetOnly s t) (k : Nat) : t.strandAt k = s.strandAt k := by rw [h]; rfl

/-- The network keeps memory in its canonical form. -/
theorem NetOnly.wf {s t : State} (h : NetOnly s t) : Memory.wf t = Memory.wf s := by rw [h]; rfl

theorem countChannel_net (s : State) (ch : Nat × Nat) (flits : Nat) : NetOnly s (s.countChannel ch flits) := rfl

theorem setCore_netOnly (s : State) (c : Nat) (x : Core) : NetOnly s (s.setCore c x) := rfl

theorem chargeTo_net (s : State) (c : Nat) (p : Option Nat) (flits : Nat) : NetOnly s (s.chargeTo c p flits) := by
  cases p <;> rfl

theorem drawVia_net (s : State) (m : Msg) : NetOnly s (s.drawVia m).1 := by
  unfold State.drawVia
  split
  · rfl
  · split <;> rfl

theorem ite_setCore_net (s : State) (b : Prop) [Decidable b] (c : Nat) (x : Core) :
    NetOnly s (if b then s.setCore c x else s) := by
  split <;> rfl

theorem injectMsg_net (s : State) (m : Msg) : NetOnly s (s.injectMsg m).1 :=
  ((chargeTo_net s _ _ _).trans (drawVia_net _ m)).trans (ite_setCore_net _ _ _ _)

theorem setNet_net (s : State) (xs ys : List Msg) (n : Nat) : NetOnly s { s with net := xs, traffic := ys, sent := n } := rfl

theorem mapPackets_net (s : State) (f : Msg → Msg) : NetOnly s (s.mapPackets f) := rfl

theorem launch_net (s : State) (m : Msg) : NetOnly s (s.launch m).1 := by
  unfold State.launch
  dsimp only
  split
  · exact (setNet_net s _ _ _).trans (injectMsg_net _ _)
  · rfl

/-- Sending a message changes the network alone. -/
theorem post_net (s : State) (m : Msg) : NetOnly s (s.post m) := (launch_net s m).trans (setNet_net _ _ _ _)

/-- So does sending a packet. -/
theorem postTraffic_net (s : State) (m : Msg) : NetOnly s (s.postTraffic m) := (launch_net s m).trans (setNet_net _ _ _ _)

theorem injectOne_net (s : State) (n : Nat) : NetOnly s (s.injectOne n) := by
  unfold State.injectOne
  split
  · rfl
  · split
    · exact (injectMsg_net _ _).trans (mapPackets_net _ _)
    · rfl

theorem injectWaiting_net (s : State) : NetOnly s s.injectWaiting := NetOnly.foldl injectOne_net _ s

theorem answerPacket_net (s : State) (m : Msg) : NetOnly s (s.answerPacket m) := by
  unfold State.answerPacket
  split
  · split
    · rfl
    · exact postTraffic_net _ _
  · rfl

theorem endTraffic_net (s : State) : NetOnly s s.endTraffic :=
  (setNet_net s _ _ _).trans (NetOnly.foldl answerPacket_net _ _)

theorem startPacket_net (s : State) (w : Waiting) : NetOnly s (s.startPacket w) := by
  unfold State.startPacket
  split
  · rfl
  · dsimp only
    split <;> rfl

/-- A tick of the network changes the network alone. -/
theorem netTick_net (s : State) : NetOnly s s.netTick := by
  unfold State.netTick
  split
  · rfl
  · exact ((((injectWaiting_net s).trans (mapPackets_net _ _)).trans (endTraffic_net _)).trans
      (NetOnly.foldl startPacket_net _ _)).trans (mapPackets_net _ _)

theorem clockTick_mem (s : State) : s.clockTick.mem = s.mem := by unfold State.clockTick; split <;> rfl

theorem clockTick_strandAt (s : State) (k : Nat) : s.clockTick.strandAt k = s.strandAt k := by
  unfold State.clockTick
  split <;> rfl

/-- Time changes no byte. -/
theorem after_mem (n : Nat) : ∀ s : State, (s.after n).mem = s.mem := by
  induction n with
  | zero => exact fun _ => rfl
  | succ n ih => intro s; unfold State.after; exact ((ih _).trans (netTick_net _).mem).trans (clockTick_mem s)

/-- Time changes no strand. -/
theorem after_strandAt (n k : Nat) : ∀ s : State, (s.after n).strandAt k = s.strandAt k := by
  induction n with
  | zero => exact fun _ => rfl
  | succ n ih => intro s; unfold State.after; exact ((ih _).trans ((netTick_net _).strandAt k)).trans (clockTick_strandAt s k)

end Sys2Proof.Laws
end

