-- ==== Sys2Proof/Laws/Ops.lean ====
section
/-!
SUPPORT. Laws/Ops.lean: what issue, completion and a longer meaning can do.
-/

namespace Sys2Proof.Laws

open Sys2Proof.Machine

/-- Registers without marks are not busy. -/
theorem busy_false {t : Strand} {rs ws : List Reg} (hr : ∀ r ∈ rs, t.mark r = .clear)
    (hw : ∀ r ∈ ws, (t.mark r).isPending = false) : t.busy (rs ++ ws) = false := by
  simp only [Strand.busy, List.any_eq_false, List.mem_append]
  rintro r (h | h)
  · simp [hr r h, Mark.isPending]
  · simp [hw r h]

/-- Registers without marks can be read. -/
theorem badRead_none {t : Strand} : ∀ {rs : List Reg}, (∀ r ∈ rs, t.mark r = .clear) → t.badRead rs = none
  | [], _ => rfl
  | r :: rs, h => by
    have := badRead_none (rs := rs) fun q hq => h q (List.mem_cons_of_mem _ hq)
    simp [Strand.badRead, h r List.mem_cons_self, this]

/-- An instruction whose registers carry no marks is issued. -/
theorem issue_clear {s : State} {rs ws : List Reg} {k : State → Out} (hr : ∀ r ∈ rs, s.me.mark r = .clear)
    (hw : ∀ r ∈ ws, (s.me.mark r).isPending = false) : issue rs ws k s = k s := by
  simp [issue, busy_false hr hw, badRead_none hr]

/-- An instruction that names a register with a pending mark stalls. -/
theorem issue_busy {s : State} {rs ws : List Reg} {k : State → Out} (h : s.me.busy (rs ++ ws) = true) :
    issue rs ws k s = stall s := by
  simp [issue, h]

/-- A vector instruction whose registers carry no marks is issued on a compute core. -/
theorem vissue_clear {s : State} {w : IWord} {gs ws vs : List Reg} {k : State → Out} (hc : isChiplet s.myCoreNo = false)
    (hv : ∀ r ∈ vs, s.me.vpend.getLsbD r.toNat = false) (hr : ∀ r ∈ gs, s.me.mark r = .clear)
    (hw : ∀ r ∈ ws, (s.me.mark r).isPending = false) : vissue w gs ws vs k s = k s := by
  have : s.me.vbusy vs = false := by simpa [Strand.vbusy] using hv
  simp [vissue, hc, this, issue_clear hr hw]

/-- Issue answers a next state where the meaning does. -/
theorem issue_next {s : State} {rs ws : List Reg} {k : State → Out} (h : ∀ t, ∃ u, k t = .next u) :
    ∃ u, issue rs ws k s = .next u := by
  unfold issue
  split
  · exact ⟨_, rfl⟩
  · split
    · exact ⟨_, rfl⟩
    · exact h s

/-- Issue of a vector instruction answers a next state where the meaning does. -/
theorem vissue_next {s : State} {w : IWord} {gs ws vs : List Reg} {k : State → Out} (h : ∀ t, ∃ u, k t = .next u) :
    ∃ u, vissue w gs ws vs k s = .next u := by
  unfold vissue
  split
  · exact ⟨_, rfl⟩
  · split
    · exact ⟨_, rfl⟩
    · exact issue_next h

/-- A longer meaning answers a next state. -/
theorem runM_next (m : M Unit) (s : State) : ∃ u, runM m s = .next u := by
  unfold runM
  split <;> exact ⟨_, rfl⟩

/-- Completing answers a next state. -/
theorem complete_next (f : Strand → Strand) (s : State) : ∃ u, complete f s = .next u := ⟨_, rfl⟩

/-- A longer meaning that runs to its end answers the state that it leaves. -/
theorem runM_ok {m : M Unit} {s t : State} (h : m.run.run s = (.ok (), t)) : runM m s = .next t := by
  simp only [runM, h]

/-- A longer meaning that raises takes the exception in the state that it leaves. -/
theorem runM_trap {m : M Unit} {s t : State} {e : Exc} (h : m.run.run s = (.error (.trap e), t)) :
    runM m s = .next (t.take e t.me.pc) := by
  simp only [runM, h, raise]

/-- A longer meaning that waits stalls in the state that it leaves. -/
theorem runM_wait {m : M Unit} {s t : State} (h : m.run.run s = (.error .wait, t)) : runM m s = stall t := by
  simp only [runM, h]

/-- What a sequence of two longer meanings does where the first runs to its end. -/
theorem run_bind_ok {α β : Type} {m : M α} {f : α → M β} {s t : State} {a : α} (h : m.run.run s = (.ok a, t)) :
    (m >>= f).run.run s = (f a).run.run t := by
  have h' : m s = (.ok a, t) := h
  simp only [bind, ExceptT.bind, ExceptT.mk, ExceptT.run, StateT.run, StateT.bind, h', ExceptT.bindCont]

/-- What a sequence of two longer meanings does where the first stops. -/
theorem run_bind_error {α β : Type} {m : M α} {f : α → M β} {s t : State} {e : Stop} (h : m.run.run s = (.error e, t)) :
    (m >>= f).run.run s = (.error e, t) := by
  have h' : m s = (.error e, t) := h
  simp only [bind, ExceptT.bind, ExceptT.mk, ExceptT.run, StateT.run, StateT.bind, h', ExceptT.bindCont, pure,
    StateT.pure]

/-- What a sequence of two longer meanings does. -/
theorem run_bind {α β : Type} (m : M α) (f : α → M β) (s : State) :
    (m >>= f).run.run s = match m.run.run s with
      | (.ok a, t) => (f a).run.run t
      | (.error e, t) => (.error e, t) := by
  rcases h : m.run.run s with ⟨r, t⟩
  cases r with
  | ok a => exact run_bind_ok h
  | error e => exact run_bind_error h

@[simp] theorem run_pure {α : Type} (a : α) (s : State) : (pure a : M α).run.run s = (.ok a, s) := rfl
@[simp] theorem run_get (s : State) : (get : M State).run.run s = (.ok s, s) := rfl
@[simp] theorem run_set (t s : State) : (set t : M PUnit).run.run s = (.ok ⟨⟩, t) := rfl
@[simp] theorem run_modify (f : State → State) (s : State) : (modify f : M PUnit).run.run s = (.ok ⟨⟩, f s) := rfl
@[simp] theorem run_trap {α : Type} (e : Exc) (s : State) : (M.trap e : M α).run.run s = (.error (.trap e), s) := rfl
@[simp] theorem run_wait {α : Type} (s : State) : (M.wait : M α).run.run s = (.error .wait, s) := rfl
@[simp] theorem run_me (s : State) : M.me.run.run s = (.ok s.me, s) := rfl
@[simp] theorem run_setMe (t : Strand) (s : State) : (M.setMe t).run.run s = (.ok (), s.setMe t) := rfl
@[simp] theorem run_modifyMe (f : Strand → Strand) (s : State) :
    (M.modifyMe f).run.run s = (.ok (), s.setMe (f s.me)) := rfl
@[simp] theorem run_done (s : State) : M.done.run.run s = (.ok (), s.setMe s.me.advance) := rfl
@[simp] theorem run_free (s : State) :
    M.free.run.run s = (.ok (Config.freeValue s.fresh), { s with fresh := s.fresh + 1 }) := rfl

end Sys2Proof.Laws
end

