-- ==== Sys2Proof/Laws/PerInstr.lean ====
section
/-!
SUPPORT. Laws/PerInstr.lean: per instruction, that its word carries an assigned major opcode (02 R29), and that an event has no word.
-/

namespace Sys2Proof.Laws

/-- The word of an instruction carries an assigned major, 0x01 to 0x38; an unassigned word is its own (02 R28, R29). -/
def Major.Statement (i : Instr) : Prop :=
  ∀ w, encode i = some w → i = .unassignedInstructionWord w ∨
    (1 ≤ (BitField.upper 6 26 w).toNat ∧ (BitField.upper 6 26 w).toNat ≤ 0x38)

/-- A word that is joined from an assigned major. -/
theorem major_of_join (m : BitVec 6) (x : BitVec 26) (h : 1 ≤ m.toNat ∧ m.toNat ≤ 0x38) :
    1 ≤ (BitField.upper 6 26 (BitField.join 6 26 m x)).toNat ∧ (BitField.upper 6 26 (BitField.join 6 26 m x)).toNat ≤ 0x38 := by
  simpa using h

theorem Major.add (d a b : Reg) : Major.Statement (.add d a b) :=
  fun _ h => .inr (Option.some.inj h ▸ major_of_join _ _ (by decide))
theorem Major.sub (d a b : Reg) : Major.Statement (.sub d a b) :=
  fun _ h => .inr (Option.some.inj h ▸ major_of_join _ _ (by decide))
theorem Major.and (d a b : Reg) : Major.Statement (.and d a b) :=
  fun _ h => .inr (Option.some.inj h ▸ major_of_join _ _ (by decide))
theorem Major.or (d a b : Reg) : Major.Statement (.or d a b) :=
  fun _ h => .inr (Option.some.inj h ▸ major_of_join _ _ (by decide))
theorem Major.xor (d a b : Reg) : Major.Statement (.xor d a b) :=
  fun _ h => .inr (Option.some.inj h ▸ major_of_join _ _ (by decide))
theorem Major.shl (d a b : Reg) : Major.Statement (.shl d a b) :=
  fun _ h => .inr (Option.some.inj h ▸ major_of_join _ _ (by decide))
theorem Major.shr (d a b : Reg) : Major.Statement (.shr d a b) :=
  fun _ h => .inr (Option.some.inj h ▸ major_of_join _ _ (by decide))
theorem Major.sar (d a b : Reg) : Major.Statement (.sar d a b) :=
  fun _ h => .inr (Option.some.inj h ▸ major_of_join _ _ (by decide))
theorem Major.mul (d a b : Reg) : Major.Statement (.mul d a b) :=
  fun _ h => .inr (Option.some.inj h ▸ major_of_join _ _ (by decide))
theorem Major.mulh (d a b : Reg) : Major.Statement (.mulh d a b) :=
  fun _ h => .inr (Option.some.inj h ▸ major_of_join _ _ (by decide))
theorem Major.mulhz (d a b : Reg) : Major.Statement (.mulhz d a b) :=
  fun _ h => .inr (Option.some.inj h ▸ major_of_join _ _ (by decide))
theorem Major.div (d a b : Reg) : Major.Statement (.div d a b) :=
  fun _ h => .inr (Option.some.inj h ▸ major_of_join _ _ (by decide))
theorem Major.divz (d a b : Reg) : Major.Statement (.divz d a b) :=
  fun _ h => .inr (Option.some.inj h ▸ major_of_join _ _ (by decide))
theorem Major.rem (d a b : Reg) : Major.Statement (.rem d a b) :=
  fun _ h => .inr (Option.some.inj h ▸ major_of_join _ _ (by decide))
theorem Major.remz (d a b : Reg) : Major.Statement (.remz d a b) :=
  fun _ h => .inr (Option.some.inj h ▸ major_of_join _ _ (by decide))
theorem Major.min (d a b : Reg) : Major.Statement (.min d a b) :=
  fun _ h => .inr (Option.some.inj h ▸ major_of_join _ _ (by decide))
theorem Major.max (d a b : Reg) : Major.Statement (.max d a b) :=
  fun _ h => .inr (Option.some.inj h ▸ major_of_join _ _ (by decide))
theorem Major.slt (d a b : Reg) : Major.Statement (.slt d a b) :=
  fun _ h => .inr (Option.some.inj h ▸ major_of_join _ _ (by decide))
theorem Major.sltz (d a b : Reg) : Major.Statement (.sltz d a b) :=
  fun _ h => .inr (Option.some.inj h ▸ major_of_join _ _ (by decide))
theorem Major.clz (d a : Reg) : Major.Statement (.clz d a) :=
  fun _ h => .inr (Option.some.inj h ▸ major_of_join _ _ (by decide))
theorem Major.ctz (d a : Reg) : Major.Statement (.ctz d a) :=
  fun _ h => .inr (Option.some.inj h ▸ major_of_join _ _ (by decide))
theorem Major.popc (d a : Reg) : Major.Statement (.popc d a) :=
  fun _ h => .inr (Option.some.inj h ▸ major_of_join _ _ (by decide))
theorem Major.sext (d a : Reg) (n : Width) : Major.Statement (.sext d a n) :=
  fun _ h => .inr (Option.some.inj h ▸ major_of_join _ _ (by decide))
theorem Major.zext (d a : Reg) (n : Width) : Major.Statement (.zext d a n) :=
  fun _ h => .inr (Option.some.inj h ▸ major_of_join _ _ (by decide))
theorem Major.csel (d a b : Reg) : Major.Statement (.csel d a b) :=
  fun _ h => .inr (Option.some.inj h ▸ major_of_join _ _ (by decide))
theorem Major.bfx (d a b : Reg) : Major.Statement (.bfx d a b) :=
  fun _ h => .inr (Option.some.inj h ▸ major_of_join _ _ (by decide))
theorem Major.bfi (d a b : Reg) : Major.Statement (.bfi d a b) :=
  fun _ h => .inr (Option.some.inj h ▸ major_of_join _ _ (by decide))
theorem Major.lea (d a b : Reg) (s : BitVec 3) : Major.Statement (.lea d a b s) :=
  fun _ h => .inr (Option.some.inj h ▸ major_of_join _ _ (by decide))
theorem Major.addw (d a b : Reg) : Major.Statement (.addw d a b) :=
  fun _ h => .inr (Option.some.inj h ▸ major_of_join _ _ (by decide))
theorem Major.addi (d a : Reg) (i : BitVec 16) : Major.Statement (.addi d a i) :=
  fun _ h => .inr (Option.some.inj h ▸ major_of_join _ _ (by decide))
theorem Major.andi (d a : Reg) (i : BitVec 16) : Major.Statement (.andi d a i) :=
  fun _ h => .inr (Option.some.inj h ▸ major_of_join _ _ (by decide))
theorem Major.ori (d a : Reg) (i : BitVec 16) : Major.Statement (.ori d a i) :=
  fun _ h => .inr (Option.some.inj h ▸ major_of_join _ _ (by decide))
theorem Major.xori (d a : Reg) (i : BitVec 16) : Major.Statement (.xori d a i) :=
  fun _ h => .inr (Option.some.inj h ▸ major_of_join _ _ (by decide))
theorem Major.slti (d a : Reg) (i : BitVec 16) : Major.Statement (.slti d a i) :=
  fun _ h => .inr (Option.some.inj h ▸ major_of_join _ _ (by decide))
theorem Major.shli (d a : Reg) (s : BitVec 6) : Major.Statement (.shli d a s) :=
  fun _ h => .inr (Option.some.inj h ▸ major_of_join _ _ (by decide))
theorem Major.shri (d a : Reg) (s : BitVec 6) : Major.Statement (.shri d a s) :=
  fun _ h => .inr (Option.some.inj h ▸ major_of_join _ _ (by decide))
theorem Major.sari (d a : Reg) (s : BitVec 6) : Major.Statement (.sari d a s) :=
  fun _ h => .inr (Option.some.inj h ▸ major_of_join _ _ (by decide))
theorem Major.ldhi (d : Reg) (i : BitVec 16) : Major.Statement (.ldhi d i) :=
  fun _ h => .inr (Option.some.inj h ▸ major_of_join _ _ (by decide))
theorem Major.adpc (d : Reg) (i : BitVec 16) : Major.Statement (.adpc d i) :=
  fun _ h => .inr (Option.some.inj h ▸ major_of_join _ _ (by decide))
theorem Major.laddr (d a : Reg) (die : BitVec 2) (row col : BitVec 4) : Major.Statement (.laddr d a die row col) :=
  fun _ h => .inr (Option.some.inj h ▸ major_of_join _ _ (by decide))
theorem Major.laddrNear (d a : Reg) (dy dx : BitVec 4) : Major.Statement (.laddrNear d a dy dx) :=
  fun _ h => .inr (Option.some.inj h ▸ major_of_join _ _ (by decide))
theorem Major.bmany (m : MaskReg) (o : BitVec 16) : Major.Statement (.bmany m o) :=
  fun _ h => .inr (Option.some.inj h ▸ major_of_join _ _ (by decide))
theorem Major.bmall (m : MaskReg) (o : BitVec 16) : Major.Statement (.bmall m o) :=
  fun _ h => .inr (Option.some.inj h ▸ major_of_join _ _ (by decide))
theorem Major.bmnone (m : MaskReg) (o : BitVec 16) : Major.Statement (.bmnone m o) :=
  fun _ h => .inr (Option.some.inj h ▸ major_of_join _ _ (by decide))
theorem Major.beq (a b : Reg) (o : BitVec 16) : Major.Statement (.beq a b o) :=
  fun _ h => .inr (Option.some.inj h ▸ major_of_join _ _ (by decide))
theorem Major.bne (a b : Reg) (o : BitVec 16) : Major.Statement (.bne a b o) :=
  fun _ h => .inr (Option.some.inj h ▸ major_of_join _ _ (by decide))
theorem Major.blt (a b : Reg) (o : BitVec 16) : Major.Statement (.blt a b o) :=
  fun _ h => .inr (Option.some.inj h ▸ major_of_join _ _ (by decide))
theorem Major.bge (a b : Reg) (o : BitVec 16) : Major.Statement (.bge a b o) :=
  fun _ h => .inr (Option.some.inj h ▸ major_of_join _ _ (by decide))
theorem Major.blo (a b : Reg) (o : BitVec 16) : Major.Statement (.blo a b o) :=
  fun _ h => .inr (Option.some.inj h ▸ major_of_join _ _ (by decide))
theorem Major.bhs (a b : Reg) (o : BitVec 16) : Major.Statement (.bhs a b o) :=
  fun _ h => .inr (Option.some.inj h ▸ major_of_join _ _ (by decide))
theorem Major.jal (d : Reg) (o : BitVec 21) : Major.Statement (.jal d o) :=
  fun _ h => .inr (Option.some.inj h ▸ major_of_join _ _ (by decide))
theorem Major.jalr (d a : Reg) (i : BitVec 16) : Major.Statement (.jalr d a i) :=
  fun _ h => .inr (Option.some.inj h ▸ major_of_join _ _ (by decide))
theorem Major.lb (d a : Reg) (i : BitVec 16) : Major.Statement (.lb d a i) :=
  fun _ h => .inr (Option.some.inj h ▸ major_of_join _ _ (by decide))
theorem Major.lh (d a : Reg) (i : BitVec 16) : Major.Statement (.lh d a i) :=
  fun _ h => .inr (Option.some.inj h ▸ major_of_join _ _ (by decide))
theorem Major.lw (d a : Reg) (i : BitVec 16) : Major.Statement (.lw d a i) :=
  fun _ h => .inr (Option.some.inj h ▸ major_of_join _ _ (by decide))
theorem Major.ld (d a : Reg) (i : BitVec 16) : Major.Statement (.ld d a i) :=
  fun _ h => .inr (Option.some.inj h ▸ major_of_join _ _ (by decide))
theorem Major.lbz (d a : Reg) (i : BitVec 16) : Major.Statement (.lbz d a i) :=
  fun _ h => .inr (Option.some.inj h ▸ major_of_join _ _ (by decide))
theorem Major.lhz (d a : Reg) (i : BitVec 16) : Major.Statement (.lhz d a i) :=
  fun _ h => .inr (Option.some.inj h ▸ major_of_join _ _ (by decide))
theorem Major.lwz (d a : Reg) (i : BitVec 16) : Major.Statement (.lwz d a i) :=
  fun _ h => .inr (Option.some.inj h ▸ major_of_join _ _ (by decide))
theorem Major.sb (d a : Reg) (i : BitVec 16) : Major.Statement (.sb d a i) :=
  fun _ h => .inr (Option.some.inj h ▸ major_of_join _ _ (by decide))
theorem Major.sh (d a : Reg) (i : BitVec 16) : Major.Statement (.sh d a i) :=
  fun _ h => .inr (Option.some.inj h ▸ major_of_join _ _ (by decide))
theorem Major.sw (d a : Reg) (i : BitVec 16) : Major.Statement (.sw d a i) :=
  fun _ h => .inr (Option.some.inj h ▸ major_of_join _ _ (by decide))
theorem Major.sd (d a : Reg) (i : BitVec 16) : Major.Statement (.sd d a i) :=
  fun _ h => .inr (Option.some.inj h ▸ major_of_join _ _ (by decide))
theorem Major.flw (d a : Reg) (i : BitVec 16) : Major.Statement (.flw d a i) :=
  fun _ h => .inr (Option.some.inj h ▸ major_of_join _ _ (by decide))
theorem Major.fld (d a : Reg) (i : BitVec 16) : Major.Statement (.fld d a i) :=
  fun _ h => .inr (Option.some.inj h ▸ major_of_join _ _ (by decide))
theorem Major.fsw (d a : Reg) (i : BitVec 16) : Major.Statement (.fsw d a i) :=
  fun _ h => .inr (Option.some.inj h ▸ major_of_join _ _ (by decide))
theorem Major.fsd (d a : Reg) (i : BitVec 16) : Major.Statement (.fsd d a i) :=
  fun _ h => .inr (Option.some.inj h ▸ major_of_join _ _ (by decide))
theorem Major.fadd (d a b : Reg) (r : Rnd) (p : Prec) : Major.Statement (.fadd d a b r p) :=
  fun _ h => .inr (Option.some.inj h ▸ major_of_join _ _ (by decide))
theorem Major.fsub (d a b : Reg) (r : Rnd) (p : Prec) : Major.Statement (.fsub d a b r p) :=
  fun _ h => .inr (Option.some.inj h ▸ major_of_join _ _ (by decide))
theorem Major.fmul (d a b : Reg) (r : Rnd) (p : Prec) : Major.Statement (.fmul d a b r p) :=
  fun _ h => .inr (Option.some.inj h ▸ major_of_join _ _ (by decide))
theorem Major.fdiv (d a b : Reg) (r : Rnd) (p : Prec) : Major.Statement (.fdiv d a b r p) :=
  fun _ h => .inr (Option.some.inj h ▸ major_of_join _ _ (by decide))
theorem Major.fsqrt (d a : Reg) (r : Rnd) (p : Prec) : Major.Statement (.fsqrt d a r p) :=
  fun _ h => .inr (Option.some.inj h ▸ major_of_join _ _ (by decide))
theorem Major.fma (d a b : Reg) (r : Rnd) (p : Prec) : Major.Statement (.fma d a b r p) :=
  fun _ h => .inr (Option.some.inj h ▸ major_of_join _ _ (by decide))
theorem Major.fmin (d a b : Reg) (p : Prec) : Major.Statement (.fmin d a b p) :=
  fun _ h => .inr (Option.some.inj h ▸ major_of_join _ _ (by decide))
theorem Major.fmax (d a b : Reg) (p : Prec) : Major.Statement (.fmax d a b p) :=
  fun _ h => .inr (Option.some.inj h ▸ major_of_join _ _ (by decide))
theorem Major.feq (d a b : Reg) (p : Prec) : Major.Statement (.feq d a b p) :=
  fun _ h => .inr (Option.some.inj h ▸ major_of_join _ _ (by decide))
theorem Major.flt (d a b : Reg) (p : Prec) : Major.Statement (.flt d a b p) :=
  fun _ h => .inr (Option.some.inj h ▸ major_of_join _ _ (by decide))
theorem Major.fle (d a b : Reg) (p : Prec) : Major.Statement (.fle d a b p) :=
  fun _ h => .inr (Option.some.inj h ▸ major_of_join _ _ (by decide))
theorem Major.fsgn (d a b : Reg) (s : SgnMode) (p : Prec) : Major.Statement (.fsgn d a b s p) :=
  fun _ h => .inr (Option.some.inj h ▸ major_of_join _ _ (by decide))
theorem Major.fclass (d a : Reg) (p : Prec) : Major.Statement (.fclass d a p) :=
  fun _ h => .inr (Option.some.inj h ▸ major_of_join _ _ (by decide))
theorem Major.fcvt (d a : Reg) (dst src : FType) (r : Rnd) : Major.Statement (.fcvt d a dst src r) :=
  fun _ h => .inr (Option.some.inj h ▸ major_of_join _ _ (by decide))
theorem Major.fcvti (d a : Reg) (wide z : Bool) (r : Rnd) (p : Prec) : Major.Statement (.fcvti d a wide z r p) :=
  fun _ h => .inr (Option.some.inj h ▸ major_of_join _ _ (by decide))
theorem Major.fcvtf (d a : Reg) (wide z : Bool) (r : Rnd) (p : Prec) : Major.Statement (.fcvtf d a wide z r p) :=
  fun _ h => .inr (Option.some.inj h ▸ major_of_join _ _ (by decide))
theorem Major.fmvgf (d a : Reg) (p : Prec) : Major.Statement (.fmvgf d a p) :=
  fun _ h => .inr (Option.some.inj h ▸ major_of_join _ _ (by decide))
theorem Major.fmvfg (d a : Reg) (p : Prec) : Major.Statement (.fmvfg d a p) :=
  fun _ h => .inr (Option.some.inj h ▸ major_of_join _ _ (by decide))
theorem Major.vadd (d a b : Reg) (k : MaskReg) (e : Et) : Major.Statement (.vadd d a b k e) :=
  fun _ h => .inr (Option.some.inj h ▸ major_of_join _ _ (by decide))
theorem Major.vsub (d a b : Reg) (k : MaskReg) (e : Et) : Major.Statement (.vsub d a b k e) :=
  fun _ h => .inr (Option.some.inj h ▸ major_of_join _ _ (by decide))
theorem Major.vmul (d a b : Reg) (k : MaskReg) (e : Et) : Major.Statement (.vmul d a b k e) :=
  fun _ h => .inr (Option.some.inj h ▸ major_of_join _ _ (by decide))
theorem Major.vmulh (d a b : Reg) (k : MaskReg) (e : Et) : Major.Statement (.vmulh d a b k e) :=
  fun _ h => .inr (Option.some.inj h ▸ major_of_join _ _ (by decide))
theorem Major.vmulhz (d a b : Reg) (k : MaskReg) (e : Et) : Major.Statement (.vmulhz d a b k e) :=
  fun _ h => .inr (Option.some.inj h ▸ major_of_join _ _ (by decide))
theorem Major.vmin (d a b : Reg) (k : MaskReg) (e : Et) : Major.Statement (.vmin d a b k e) :=
  fun _ h => .inr (Option.some.inj h ▸ major_of_join _ _ (by decide))
theorem Major.vmax (d a b : Reg) (k : MaskReg) (e : Et) : Major.Statement (.vmax d a b k e) :=
  fun _ h => .inr (Option.some.inj h ▸ major_of_join _ _ (by decide))
theorem Major.vminz (d a b : Reg) (k : MaskReg) (e : Et) : Major.Statement (.vminz d a b k e) :=
  fun _ h => .inr (Option.some.inj h ▸ major_of_join _ _ (by decide))
theorem Major.vmaxz (d a b : Reg) (k : MaskReg) (e : Et) : Major.Statement (.vmaxz d a b k e) :=
  fun _ h => .inr (Option.some.inj h ▸ major_of_join _ _ (by decide))
theorem Major.vand (d a b : Reg) (k : MaskReg) (e : Et) : Major.Statement (.vand d a b k e) :=
  fun _ h => .inr (Option.some.inj h ▸ major_of_join _ _ (by decide))
theorem Major.vor (d a b : Reg) (k : MaskReg) (e : Et) : Major.Statement (.vor d a b k e) :=
  fun _ h => .inr (Option.some.inj h ▸ major_of_join _ _ (by decide))
theorem Major.vxor (d a b : Reg) (k : MaskReg) (e : Et) : Major.Statement (.vxor d a b k e) :=
  fun _ h => .inr (Option.some.inj h ▸ major_of_join _ _ (by decide))
theorem Major.vshl (d a b : Reg) (k : MaskReg) (e : Et) : Major.Statement (.vshl d a b k e) :=
  fun _ h => .inr (Option.some.inj h ▸ major_of_join _ _ (by decide))
theorem Major.vshr (d a b : Reg) (k : MaskReg) (e : Et) : Major.Statement (.vshr d a b k e) :=
  fun _ h => .inr (Option.some.inj h ▸ major_of_join _ _ (by decide))
theorem Major.vsar (d a b : Reg) (k : MaskReg) (e : Et) : Major.Statement (.vsar d a b k e) :=
  fun _ h => .inr (Option.some.inj h ▸ major_of_join _ _ (by decide))
theorem Major.vsadd (d a b : Reg) (k : MaskReg) (e : Et) : Major.Statement (.vsadd d a b k e) :=
  fun _ h => .inr (Option.some.inj h ▸ major_of_join _ _ (by decide))
theorem Major.vssub (d a b : Reg) (k : MaskReg) (e : Et) : Major.Statement (.vssub d a b k e) :=
  fun _ h => .inr (Option.some.inj h ▸ major_of_join _ _ (by decide))
theorem Major.vmacc (d a b : Reg) (k : MaskReg) (e : Et) : Major.Statement (.vmacc d a b k e) :=
  fun _ h => .inr (Option.some.inj h ▸ major_of_join _ _ (by decide))
theorem Major.vdot4 (d a b : Reg) (k : MaskReg) : Major.Statement (.vdot4 d a b k) :=
  fun _ h => .inr (Option.some.inj h ▸ major_of_join _ _ (by decide))
theorem Major.vnarrow (d a : Reg) (m : BitVec 2) (k : MaskReg) (e : Et) : Major.Statement (.vnarrow d a m k e) :=
  fun _ h => .inr (Option.some.inj h ▸ major_of_join _ _ (by decide))
theorem Major.vwiden (d a : Reg) (x : Bool) (k : MaskReg) (e : Et) : Major.Statement (.vwiden d a x k e) :=
  fun _ h => .inr (Option.some.inj h ▸ major_of_join _ _ (by decide))
theorem Major.vaddScalar (d a b : Reg) (k : MaskReg) (e : Et) : Major.Statement (.vaddScalar d a b k e) :=
  fun _ h => .inr (Option.some.inj h ▸ major_of_join _ _ (by decide))
theorem Major.vsubScalar (d a b : Reg) (k : MaskReg) (e : Et) : Major.Statement (.vsubScalar d a b k e) :=
  fun _ h => .inr (Option.some.inj h ▸ major_of_join _ _ (by decide))
theorem Major.vmulScalar (d a b : Reg) (k : MaskReg) (e : Et) : Major.Statement (.vmulScalar d a b k e) :=
  fun _ h => .inr (Option.some.inj h ▸ major_of_join _ _ (by decide))
theorem Major.vmulhScalar (d a b : Reg) (k : MaskReg) (e : Et) : Major.Statement (.vmulhScalar d a b k e) :=
  fun _ h => .inr (Option.some.inj h ▸ major_of_join _ _ (by decide))
theorem Major.vmulhzScalar (d a b : Reg) (k : MaskReg) (e : Et) : Major.Statement (.vmulhzScalar d a b k e) :=
  fun _ h => .inr (Option.some.inj h ▸ major_of_join _ _ (by decide))
theorem Major.vminScalar (d a b : Reg) (k : MaskReg) (e : Et) : Major.Statement (.vminScalar d a b k e) :=
  fun _ h => .inr (Option.some.inj h ▸ major_of_join _ _ (by decide))
theorem Major.vmaxScalar (d a b : Reg) (k : MaskReg) (e : Et) : Major.Statement (.vmaxScalar d a b k e) :=
  fun _ h => .inr (Option.some.inj h ▸ major_of_join _ _ (by decide))
theorem Major.vminzScalar (d a b : Reg) (k : MaskReg) (e : Et) : Major.Statement (.vminzScalar d a b k e) :=
  fun _ h => .inr (Option.some.inj h ▸ major_of_join _ _ (by decide))
theorem Major.vmaxzScalar (d a b : Reg) (k : MaskReg) (e : Et) : Major.Statement (.vmaxzScalar d a b k e) :=
  fun _ h => .inr (Option.some.inj h ▸ major_of_join _ _ (by decide))
theorem Major.vandScalar (d a b : Reg) (k : MaskReg) (e : Et) : Major.Statement (.vandScalar d a b k e) :=
  fun _ h => .inr (Option.some.inj h ▸ major_of_join _ _ (by decide))
theorem Major.vorScalar (d a b : Reg) (k : MaskReg) (e : Et) : Major.Statement (.vorScalar d a b k e) :=
  fun _ h => .inr (Option.some.inj h ▸ major_of_join _ _ (by decide))
theorem Major.vxorScalar (d a b : Reg) (k : MaskReg) (e : Et) : Major.Statement (.vxorScalar d a b k e) :=
  fun _ h => .inr (Option.some.inj h ▸ major_of_join _ _ (by decide))
theorem Major.vshlScalar (d a b : Reg) (k : MaskReg) (e : Et) : Major.Statement (.vshlScalar d a b k e) :=
  fun _ h => .inr (Option.some.inj h ▸ major_of_join _ _ (by decide))
theorem Major.vshrScalar (d a b : Reg) (k : MaskReg) (e : Et) : Major.Statement (.vshrScalar d a b k e) :=
  fun _ h => .inr (Option.some.inj h ▸ major_of_join _ _ (by decide))
theorem Major.vsarScalar (d a b : Reg) (k : MaskReg) (e : Et) : Major.Statement (.vsarScalar d a b k e) :=
  fun _ h => .inr (Option.some.inj h ▸ major_of_join _ _ (by decide))
theorem Major.vsaddScalar (d a b : Reg) (k : MaskReg) (e : Et) : Major.Statement (.vsaddScalar d a b k e) :=
  fun _ h => .inr (Option.some.inj h ▸ major_of_join _ _ (by decide))
theorem Major.vssubScalar (d a b : Reg) (k : MaskReg) (e : Et) : Major.Statement (.vssubScalar d a b k e) :=
  fun _ h => .inr (Option.some.inj h ▸ major_of_join _ _ (by decide))
theorem Major.vmaccScalar (d a b : Reg) (k : MaskReg) (e : Et) : Major.Statement (.vmaccScalar d a b k e) :=
  fun _ h => .inr (Option.some.inj h ▸ major_of_join _ _ (by decide))
theorem Major.vdot4Scalar (d a b : Reg) (k : MaskReg) : Major.Statement (.vdot4Scalar d a b k) :=
  fun _ h => .inr (Option.some.inj h ▸ major_of_join _ _ (by decide))
theorem Major.vfadd (d a b : Reg) (k : MaskReg) (e : Et) : Major.Statement (.vfadd d a b k e) :=
  fun _ h => .inr (Option.some.inj h ▸ major_of_join _ _ (by decide))
theorem Major.vfsub (d a b : Reg) (k : MaskReg) (e : Et) : Major.Statement (.vfsub d a b k e) :=
  fun _ h => .inr (Option.some.inj h ▸ major_of_join _ _ (by decide))
theorem Major.vfmul (d a b : Reg) (k : MaskReg) (e : Et) : Major.Statement (.vfmul d a b k e) :=
  fun _ h => .inr (Option.some.inj h ▸ major_of_join _ _ (by decide))
theorem Major.vfdiv (d a b : Reg) (k : MaskReg) (e : Et) : Major.Statement (.vfdiv d a b k e) :=
  fun _ h => .inr (Option.some.inj h ▸ major_of_join _ _ (by decide))
theorem Major.vfsqrt (d a : Reg) (k : MaskReg) (e : Et) : Major.Statement (.vfsqrt d a k e) :=
  fun _ h => .inr (Option.some.inj h ▸ major_of_join _ _ (by decide))
theorem Major.vfma (d a b : Reg) (k : MaskReg) (e : Et) : Major.Statement (.vfma d a b k e) :=
  fun _ h => .inr (Option.some.inj h ▸ major_of_join _ _ (by decide))
theorem Major.vfms (d a b : Reg) (k : MaskReg) (e : Et) : Major.Statement (.vfms d a b k e) :=
  fun _ h => .inr (Option.some.inj h ▸ major_of_join _ _ (by decide))
theorem Major.vfnma (d a b : Reg) (k : MaskReg) (e : Et) : Major.Statement (.vfnma d a b k e) :=
  fun _ h => .inr (Option.some.inj h ▸ major_of_join _ _ (by decide))
theorem Major.vfmin (d a b : Reg) (k : MaskReg) (e : Et) : Major.Statement (.vfmin d a b k e) :=
  fun _ h => .inr (Option.some.inj h ▸ major_of_join _ _ (by decide))
theorem Major.vfmax (d a b : Reg) (k : MaskReg) (e : Et) : Major.Statement (.vfmax d a b k e) :=
  fun _ h => .inr (Option.some.inj h ▸ major_of_join _ _ (by decide))
theorem Major.vfrcpe (d a : Reg) (k : MaskReg) (e : Et) : Major.Statement (.vfrcpe d a k e) :=
  fun _ h => .inr (Option.some.inj h ▸ major_of_join _ _ (by decide))
theorem Major.vfrsqe (d a : Reg) (k : MaskReg) (e : Et) : Major.Statement (.vfrsqe d a k e) :=
  fun _ h => .inr (Option.some.inj h ▸ major_of_join _ _ (by decide))
theorem Major.vfcvt (d a : Reg) (r : VRnd) (src : Et) (k : MaskReg) (e : Et) : Major.Statement (.vfcvt d a r src k e) :=
  fun _ h => .inr (Option.some.inj h ▸ major_of_join _ _ (by decide))
theorem Major.vfcvti (d a : Reg) (r : VRnd) (z : Bool) (w : IntW) (k : MaskReg) (e : Et) : Major.Statement (.vfcvti d a r z w k e) :=
  fun _ h => .inr (Option.some.inj h ▸ major_of_join _ _ (by decide))
theorem Major.vfcvtf (d a : Reg) (r : VRnd) (z : Bool) (w : IntW) (k : MaskReg) (e : Et) : Major.Statement (.vfcvtf d a r z w k e) :=
  fun _ h => .inr (Option.some.inj h ▸ major_of_join _ _ (by decide))
theorem Major.vfscale (d a b : Reg) (k : MaskReg) (e : Et) : Major.Statement (.vfscale d a b k e) :=
  fun _ h => .inr (Option.some.inj h ▸ major_of_join _ _ (by decide))
theorem Major.vfmxq (d a : Reg) (r : VRnd) (n : BitVec 2) (k : MaskReg) (e : Et) : Major.Statement (.vfmxq d a r n k e) :=
  fun _ h => .inr (Option.some.inj h ▸ major_of_join _ _ (by decide))
theorem Major.vfsgn (d a b : Reg) (k : MaskReg) (e : Et) : Major.Statement (.vfsgn d a b k e) :=
  fun _ h => .inr (Option.some.inj h ▸ major_of_join _ _ (by decide))
theorem Major.vfaddScalar (d a b : Reg) (k : MaskReg) (e : Et) : Major.Statement (.vfaddScalar d a b k e) :=
  fun _ h => .inr (Option.some.inj h ▸ major_of_join _ _ (by decide))
theorem Major.vfsubScalar (d a b : Reg) (k : MaskReg) (e : Et) : Major.Statement (.vfsubScalar d a b k e) :=
  fun _ h => .inr (Option.some.inj h ▸ major_of_join _ _ (by decide))
theorem Major.vfmulScalar (d a b : Reg) (k : MaskReg) (e : Et) : Major.Statement (.vfmulScalar d a b k e) :=
  fun _ h => .inr (Option.some.inj h ▸ major_of_join _ _ (by decide))
theorem Major.vfdivScalar (d a b : Reg) (k : MaskReg) (e : Et) : Major.Statement (.vfdivScalar d a b k e) :=
  fun _ h => .inr (Option.some.inj h ▸ major_of_join _ _ (by decide))
theorem Major.vfmaScalar (d a b : Reg) (k : MaskReg) (e : Et) : Major.Statement (.vfmaScalar d a b k e) :=
  fun _ h => .inr (Option.some.inj h ▸ major_of_join _ _ (by decide))
theorem Major.vfmsScalar (d a b : Reg) (k : MaskReg) (e : Et) : Major.Statement (.vfmsScalar d a b k e) :=
  fun _ h => .inr (Option.some.inj h ▸ major_of_join _ _ (by decide))
theorem Major.vfnmaScalar (d a b : Reg) (k : MaskReg) (e : Et) : Major.Statement (.vfnmaScalar d a b k e) :=
  fun _ h => .inr (Option.some.inj h ▸ major_of_join _ _ (by decide))
theorem Major.vfminScalar (d a b : Reg) (k : MaskReg) (e : Et) : Major.Statement (.vfminScalar d a b k e) :=
  fun _ h => .inr (Option.some.inj h ▸ major_of_join _ _ (by decide))
theorem Major.vfmaxScalar (d a b : Reg) (k : MaskReg) (e : Et) : Major.Statement (.vfmaxScalar d a b k e) :=
  fun _ h => .inr (Option.some.inj h ▸ major_of_join _ _ (by decide))
theorem Major.vfscaleScalar (d a b : Reg) (k : MaskReg) (e : Et) : Major.Statement (.vfscaleScalar d a b k e) :=
  fun _ h => .inr (Option.some.inj h ▸ major_of_join _ _ (by decide))
theorem Major.vfsgnScalar (d a b : Reg) (k : MaskReg) (e : Et) : Major.Statement (.vfsgnScalar d a b k e) :=
  fun _ h => .inr (Option.some.inj h ▸ major_of_join _ _ (by decide))
theorem Major.vcmpeq (d : MaskReg) (a b : Reg) (k : MaskReg) (e : Et) : Major.Statement (.vcmpeq d a b k e) :=
  fun _ h => .inr (Option.some.inj h ▸ major_of_join _ _ (by decide))
theorem Major.vcmpne (d : MaskReg) (a b : Reg) (k : MaskReg) (e : Et) : Major.Statement (.vcmpne d a b k e) :=
  fun _ h => .inr (Option.some.inj h ▸ major_of_join _ _ (by decide))
theorem Major.vcmplt (d : MaskReg) (a b : Reg) (k : MaskReg) (e : Et) : Major.Statement (.vcmplt d a b k e) :=
  fun _ h => .inr (Option.some.inj h ▸ major_of_join _ _ (by decide))
theorem Major.vcmple (d : MaskReg) (a b : Reg) (k : MaskReg) (e : Et) : Major.Statement (.vcmple d a b k e) :=
  fun _ h => .inr (Option.some.inj h ▸ major_of_join _ _ (by decide))
theorem Major.vcmplo (d : MaskReg) (a b : Reg) (k : MaskReg) (e : Et) : Major.Statement (.vcmplo d a b k e) :=
  fun _ h => .inr (Option.some.inj h ▸ major_of_join _ _ (by decide))
theorem Major.vcmpls (d : MaskReg) (a b : Reg) (k : MaskReg) (e : Et) : Major.Statement (.vcmpls d a b k e) :=
  fun _ h => .inr (Option.some.inj h ▸ major_of_join _ _ (by decide))
theorem Major.vfcmpeq (d : MaskReg) (a b : Reg) (k : MaskReg) (e : Et) : Major.Statement (.vfcmpeq d a b k e) :=
  fun _ h => .inr (Option.some.inj h ▸ major_of_join _ _ (by decide))
theorem Major.vfcmplt (d : MaskReg) (a b : Reg) (k : MaskReg) (e : Et) : Major.Statement (.vfcmplt d a b k e) :=
  fun _ h => .inr (Option.some.inj h ▸ major_of_join _ _ (by decide))
theorem Major.vfcmple (d : MaskReg) (a b : Reg) (k : MaskReg) (e : Et) : Major.Statement (.vfcmple d a b k e) :=
  fun _ h => .inr (Option.some.inj h ▸ major_of_join _ _ (by decide))
theorem Major.mand (d a b k : MaskReg) (e : Et) : Major.Statement (.mand d a b k e) :=
  fun _ h => .inr (Option.some.inj h ▸ major_of_join _ _ (by decide))
theorem Major.mor (d a b k : MaskReg) (e : Et) : Major.Statement (.mor d a b k e) :=
  fun _ h => .inr (Option.some.inj h ▸ major_of_join _ _ (by decide))
theorem Major.mxor (d a b k : MaskReg) (e : Et) : Major.Statement (.mxor d a b k e) :=
  fun _ h => .inr (Option.some.inj h ▸ major_of_join _ _ (by decide))
theorem Major.mandn (d a b k : MaskReg) (e : Et) : Major.Statement (.mandn d a b k e) :=
  fun _ h => .inr (Option.some.inj h ▸ major_of_join _ _ (by decide))
theorem Major.mpopc (d : Reg) (a k : MaskReg) (e : Et) : Major.Statement (.mpopc d a k e) :=
  fun _ h => .inr (Option.some.inj h ▸ major_of_join _ _ (by decide))
theorem Major.mfirst (d : Reg) (a k : MaskReg) (e : Et) : Major.Statement (.mfirst d a k e) :=
  fun _ h => .inr (Option.some.inj h ▸ major_of_join _ _ (by decide))
theorem Major.mtofirst (d a k : MaskReg) (e : Et) : Major.Statement (.mtofirst d a k e) :=
  fun _ h => .inr (Option.some.inj h ▸ major_of_join _ _ (by decide))
theorem Major.mbefore (d a k : MaskReg) (e : Et) : Major.Statement (.mbefore d a k e) :=
  fun _ h => .inr (Option.some.inj h ▸ major_of_join _ _ (by decide))
theorem Major.mfromg (d : MaskReg) (a b : Reg) : Major.Statement (.mfromg d a b) :=
  fun _ h => .inr (Option.some.inj h ▸ major_of_join _ _ (by decide))
theorem Major.mtog (d : Reg) (a : MaskReg) (b : Reg) : Major.Statement (.mtog d a b) :=
  fun _ h => .inr (Option.some.inj h ▸ major_of_join _ _ (by decide))
theorem Major.vslideup (d a b : Reg) (k : MaskReg) (e : Et) : Major.Statement (.vslideup d a b k e) :=
  fun _ h => .inr (Option.some.inj h ▸ major_of_join _ _ (by decide))
theorem Major.vslidedn (d a b : Reg) (k : MaskReg) (e : Et) : Major.Statement (.vslidedn d a b k e) :=
  fun _ h => .inr (Option.some.inj h ▸ major_of_join _ _ (by decide))
theorem Major.vperm (d a b : Reg) (k : MaskReg) (e : Et) : Major.Statement (.vperm d a b k e) :=
  fun _ h => .inr (Option.some.inj h ▸ major_of_join _ _ (by decide))
theorem Major.vcompress (d a : Reg) (k : MaskReg) (e : Et) : Major.Statement (.vcompress d a k e) :=
  fun _ h => .inr (Option.some.inj h ▸ major_of_join _ _ (by decide))
theorem Major.vexpand (d a : Reg) (k : MaskReg) (e : Et) : Major.Statement (.vexpand d a k e) :=
  fun _ h => .inr (Option.some.inj h ▸ major_of_join _ _ (by decide))
theorem Major.vmerge (d a b : Reg) (k : MaskReg) (e : Et) : Major.Statement (.vmerge d a b k e) :=
  fun _ h => .inr (Option.some.inj h ▸ major_of_join _ _ (by decide))
theorem Major.vsplat (d b : Reg) (k : MaskReg) (e : Et) : Major.Statement (.vsplat d b k e) :=
  fun _ h => .inr (Option.some.inj h ▸ major_of_join _ _ (by decide))
theorem Major.vextr (d a b : Reg) (e : Et) : Major.Statement (.vextr d a b e) :=
  fun _ h => .inr (Option.some.inj h ▸ major_of_join _ _ (by decide))
theorem Major.vzip (d a b : Reg) (k : MaskReg) (e : Et) : Major.Statement (.vzip d a b k e) :=
  fun _ h => .inr (Option.some.inj h ▸ major_of_join _ _ (by decide))
theorem Major.vunzip (d a b : Reg) (k : MaskReg) (e : Et) : Major.Statement (.vunzip d a b k e) :=
  fun _ h => .inr (Option.some.inj h ▸ major_of_join _ _ (by decide))
theorem Major.viota (d : Reg) (a k : MaskReg) (e : Et) : Major.Statement (.viota d a k e) :=
  fun _ h => .inr (Option.some.inj h ▸ major_of_join _ _ (by decide))
theorem Major.vbfly (d a b : Reg) (k : MaskReg) (e : Et) : Major.Statement (.vbfly d a b k e) :=
  fun _ h => .inr (Option.some.inj h ▸ major_of_join _ _ (by decide))
theorem Major.vredsum (d a b : Reg) (k : MaskReg) (e : Et) : Major.Statement (.vredsum d a b k e) :=
  fun _ h => .inr (Option.some.inj h ▸ major_of_join _ _ (by decide))
theorem Major.vredmax (d a b : Reg) (k : MaskReg) (e : Et) : Major.Statement (.vredmax d a b k e) :=
  fun _ h => .inr (Option.some.inj h ▸ major_of_join _ _ (by decide))
theorem Major.vredmin (d a b : Reg) (k : MaskReg) (e : Et) : Major.Statement (.vredmin d a b k e) :=
  fun _ h => .inr (Option.some.inj h ▸ major_of_join _ _ (by decide))
theorem Major.vfredsum (d a b : Reg) (k : MaskReg) (e : Et) : Major.Statement (.vfredsum d a b k e) :=
  fun _ h => .inr (Option.some.inj h ▸ major_of_join _ _ (by decide))
theorem Major.vfredmax (d a b : Reg) (k : MaskReg) (e : Et) : Major.Statement (.vfredmax d a b k e) :=
  fun _ h => .inr (Option.some.inj h ▸ major_of_join _ _ (by decide))
theorem Major.vscan (d a b : Reg) (k : MaskReg) (e : Et) : Major.Statement (.vscan d a b k e) :=
  fun _ h => .inr (Option.some.inj h ▸ major_of_join _ _ (by decide))
theorem Major.vhash (d a b : Reg) (k : MaskReg) (e : Et) : Major.Statement (.vhash d a b k e) :=
  fun _ h => .inr (Option.some.inj h ▸ major_of_join _ _ (by decide))
theorem Major.vpart (d a b : Reg) (k : MaskReg) (e : Et) : Major.Statement (.vpart d a b k e) :=
  fun _ h => .inr (Option.some.inj h ▸ major_of_join _ _ (by decide))
theorem Major.vconflict (d a : Reg) (k : MaskReg) (e : Et) : Major.Statement (.vconflict d a k e) :=
  fun _ h => .inr (Option.some.inj h ▸ major_of_join _ _ (by decide))
theorem Major.vmatchb (d : MaskReg) (a b : Reg) (k : MaskReg) : Major.Statement (.vmatchb d a b k) :=
  fun _ h => .inr (Option.some.inj h ▸ major_of_join _ _ (by decide))
theorem Major.vstrld (d a : Reg) (k : MaskReg) : Major.Statement (.vstrld d a k) :=
  fun _ h => .inr (Option.some.inj h ▸ major_of_join _ _ (by decide))
theorem Major.vstrcmp (d a b : Reg) (k : MaskReg) : Major.Statement (.vstrcmp d a b k) :=
  fun _ h => .inr (Option.some.inj h ▸ major_of_join _ _ (by decide))
theorem Major.vstrhash (d a : Reg) (k : MaskReg) : Major.Statement (.vstrhash d a k) :=
  fun _ h => .inr (Option.some.inj h ▸ major_of_join _ _ (by decide))
theorem Major.vrand (d : Reg) (k : MaskReg) (e : Et) : Major.Statement (.vrand d k e) :=
  fun _ h => .inr (Option.some.inj h ▸ major_of_join _ _ (by decide))
theorem Major.setvl (d a : Reg) (e : Et) : Major.Statement (.setvl d a e) :=
  fun _ h => .inr (Option.some.inj h ▸ major_of_join _ _ (by decide))
theorem Major.setvli (d : Reg) (u : BitVec 11) (e : Et) : Major.Statement (.setvli d u e) :=
  fun _ h => .inr (Option.some.inj h ▸ major_of_join _ _ (by decide))
theorem Major.vld (d a : Reg) (k : MaskReg) (e : Et) : Major.Statement (.vld d a k e) :=
  fun _ h => .inr (Option.some.inj h ▸ major_of_join _ _ (by decide))
theorem Major.vlds (d a s : Reg) (k : MaskReg) (e : Et) : Major.Statement (.vlds d a s k e) :=
  fun _ h => .inr (Option.some.inj h ▸ major_of_join _ _ (by decide))
theorem Major.vldx (d a x : Reg) (k : MaskReg) (e : Et) : Major.Statement (.vldx d a x k e) :=
  fun _ h => .inr (Option.some.inj h ▸ major_of_join _ _ (by decide))
theorem Major.vldseg (d a : Reg) (f : BitVec 3) (k : MaskReg) (e : Et) : Major.Statement (.vldseg d a f k e) :=
  fun _ h => .inr (Option.some.inj h ▸ major_of_join _ _ (by decide))
theorem Major.vldff (d a : Reg) (k : MaskReg) (e : Et) : Major.Statement (.vldff d a k e) :=
  fun _ h => .inr (Option.some.inj h ▸ major_of_join _ _ (by decide))
theorem Major.vst (d a : Reg) (k : MaskReg) (e : Et) : Major.Statement (.vst d a k e) :=
  fun _ h => .inr (Option.some.inj h ▸ major_of_join _ _ (by decide))
theorem Major.vsts (d a s : Reg) (k : MaskReg) (e : Et) : Major.Statement (.vsts d a s k e) :=
  fun _ h => .inr (Option.some.inj h ▸ major_of_join _ _ (by decide))
theorem Major.vstx (d a x : Reg) (k : MaskReg) (e : Et) : Major.Statement (.vstx d a x k e) :=
  fun _ h => .inr (Option.some.inj h ▸ major_of_join _ _ (by decide))
theorem Major.vstseg (d a : Reg) (f : BitVec 3) (k : MaskReg) (e : Et) : Major.Statement (.vstseg d a f k e) :=
  fun _ h => .inr (Option.some.inj h ▸ major_of_join _ _ (by decide))
theorem Major.vpst (d a : Reg) (k : MaskReg) (e : Et) : Major.Statement (.vpst d a k e) :=
  fun _ h => .inr (Option.some.inj h ▸ major_of_join _ _ (by decide))
theorem Major.tzero (d : TileReg) : Major.Statement (.tzero d) :=
  fun _ h => .inr (Option.some.inj h ▸ major_of_join _ _ (by decide))
theorem Major.tld (d : TileReg) (a b : Reg) (n : BitVec 4) : Major.Statement (.tld d a b n) :=
  fun _ h => .inr (Option.some.inj h ▸ major_of_join _ _ (by decide))
theorem Major.tst (d : TileReg) (a b : Reg) (n : BitVec 4) : Major.Statement (.tst d a b n) :=
  fun _ h => .inr (Option.some.inj h ▸ major_of_join _ _ (by decide))
theorem Major.tmovvt (d : TileReg) (a b : Reg) : Major.Statement (.tmovvt d a b) :=
  fun _ h => .inr (Option.some.inj h ▸ major_of_join _ _ (by decide))
theorem Major.tmovtv (d : Reg) (a : TileReg) (b : Reg) : Major.Statement (.tmovtv d a b) :=
  fun _ h => .inr (Option.some.inj h ▸ major_of_join _ _ (by decide))
theorem Major.topa (d : TileReg) (a b : Reg) (z : Bool) : Major.Statement (.topa d a b z) :=
  fun _ h => .inr (Option.some.inj h ▸ major_of_join _ _ (by decide))
theorem Major.tsave (r : Bool) : Major.Statement (.tsave r) :=
  fun _ h => .inr (Option.some.inj h ▸ major_of_join _ _ (by decide))
theorem Major.trestore : Major.Statement (.trestore) := fun _ h => .inr (Option.some.inj h ▸ major_of_join _ _ (by decide))
theorem Major.mlease (d a b : Reg) (w : Bool) : Major.Statement (.mlease d a b w) :=
  fun _ h => .inr (Option.some.inj h ▸ major_of_join _ _ (by decide))
theorem Major.mrelease : Major.Statement (.mrelease) := fun _ h => .inr (Option.some.inj h ▸ major_of_join _ _ (by decide))
theorem Major.mfmt (a : Reg) : Major.Statement (.mfmt a) := fun _ h => .inr (Option.some.inj h ▸ major_of_join _ _ (by decide))
theorem Major.plant (a b : Reg) (t : Bool) : Major.Statement (.plant a b t) :=
  fun _ h => .inr (Option.some.inj h ▸ major_of_join _ _ (by decide))
theorem Major.mma (d a : TileReg) (b : Reg) (n z : Bool) (r : BitVec 4) : Major.Statement (.mma d a b n z r) :=
  fun _ h => .inr (Option.some.inj h ▸ major_of_join _ _ (by decide))
theorem Major.mmas (d : TileReg) (a b : Reg) (n z : Bool) (r : BitVec 4) : Major.Statement (.mmas d a b n z r) :=
  fun _ h => .inr (Option.some.inj h ▸ major_of_join _ _ (by decide))
theorem Major.mzero (d : TileReg) : Major.Statement (.mzero d) :=
  fun _ h => .inr (Option.some.inj h ▸ major_of_join _ _ (by decide))
theorem Major.mdrain (d a b : Reg) (r : BitVec 4) (c : Bool) (k : DrainKind) : Major.Statement (.mdrain d a b r c k) :=
  fun _ h => .inr (Option.some.inj h ▸ major_of_join _ _ (by decide))
theorem Major.mchain (d : Reg) (a : TileReg) (b : Reg) (c : Bool) : Major.Statement (.mchain d a b c) :=
  fun _ h => .inr (Option.some.inj h ▸ major_of_join _ _ (by decide))
theorem Major.mcoll (d a : Reg) (b : TileReg) (r : BitVec 4) (c : Bool) : Major.Statement (.mcoll d a b r c) :=
  fun _ h => .inr (Option.some.inj h ▸ major_of_join _ _ (by decide))
theorem Major.mstat (d : Reg) : Major.Statement (.mstat d) :=
  fun _ h => .inr (Option.some.inj h ▸ major_of_join _ _ (by decide))
theorem Major.amoswap (d a b : Reg) (s : Scope) (r q : Bool) (w : AmoWidth) : Major.Statement (.amoswap d a b s r q w) :=
  fun _ h => .inr (Option.some.inj h ▸ major_of_join _ _ (by decide))
theorem Major.amoadd (d a b : Reg) (s : Scope) (r q : Bool) (w : AmoWidth) : Major.Statement (.amoadd d a b s r q w) :=
  fun _ h => .inr (Option.some.inj h ▸ major_of_join _ _ (by decide))
theorem Major.amoand (d a b : Reg) (s : Scope) (r q : Bool) (w : AmoWidth) : Major.Statement (.amoand d a b s r q w) :=
  fun _ h => .inr (Option.some.inj h ▸ major_of_join _ _ (by decide))
theorem Major.amoor (d a b : Reg) (s : Scope) (r q : Bool) (w : AmoWidth) : Major.Statement (.amoor d a b s r q w) :=
  fun _ h => .inr (Option.some.inj h ▸ major_of_join _ _ (by decide))
theorem Major.amoxor (d a b : Reg) (s : Scope) (r q : Bool) (w : AmoWidth) : Major.Statement (.amoxor d a b s r q w) :=
  fun _ h => .inr (Option.some.inj h ▸ major_of_join _ _ (by decide))
theorem Major.amomin (d a b : Reg) (s : Scope) (r q : Bool) (w : AmoWidth) : Major.Statement (.amomin d a b s r q w) :=
  fun _ h => .inr (Option.some.inj h ▸ major_of_join _ _ (by decide))
theorem Major.amomax (d a b : Reg) (s : Scope) (r q : Bool) (w : AmoWidth) : Major.Statement (.amomax d a b s r q w) :=
  fun _ h => .inr (Option.some.inj h ▸ major_of_join _ _ (by decide))
theorem Major.amocas (d a b : Reg) (s : Scope) (r q : Bool) (w : AmoWidth) : Major.Statement (.amocas d a b s r q w) :=
  fun _ h => .inr (Option.some.inj h ▸ major_of_join _ _ (by decide))
theorem Major.amofadd (d a b : Reg) (s : Scope) (r q : Bool) (w : AmoWidth) : Major.Statement (.amofadd d a b s r q w) :=
  fun _ h => .inr (Option.some.inj h ▸ major_of_join _ _ (by decide))
theorem Major.redadd (a b : Reg) (s : Scope) (r : Bool) (w : AmoWidth) : Major.Statement (.redadd a b s r w) :=
  fun _ h => .inr (Option.some.inj h ▸ major_of_join _ _ (by decide))
theorem Major.redmin (a b : Reg) (s : Scope) (r : Bool) (w : AmoWidth) : Major.Statement (.redmin a b s r w) :=
  fun _ h => .inr (Option.some.inj h ▸ major_of_join _ _ (by decide))
theorem Major.redmax (a b : Reg) (s : Scope) (r : Bool) (w : AmoWidth) : Major.Statement (.redmax a b s r w) :=
  fun _ h => .inr (Option.some.inj h ▸ major_of_join _ _ (by decide))
theorem Major.redfadd (a b : Reg) (s : Scope) (r : Bool) (w : AmoWidth) : Major.Statement (.redfadd a b s r w) :=
  fun _ h => .inr (Option.some.inj h ▸ major_of_join _ _ (by decide))
theorem Major.redfmax (a b : Reg) (s : Scope) (r : Bool) (w : AmoWidth) : Major.Statement (.redfmax a b s r w) :=
  fun _ h => .inr (Option.some.inj h ▸ major_of_join _ _ (by decide))
theorem Major.vredm (d a b : Reg) (s : Scope) (r : Bool) (t : RedType) : Major.Statement (.vredm d a b s r t) :=
  fun _ h => .inr (Option.some.inj h ▸ major_of_join _ _ (by decide))
theorem Major.binit (a : Reg) : Major.Statement (.binit a) :=
  fun _ h => .inr (Option.some.inj h ▸ major_of_join _ _ (by decide))
theorem Major.barr (d a : Reg) (c : BitVec 8) : Major.Statement (.barr d a c) :=
  fun _ h => .inr (Option.some.inj h ▸ major_of_join _ _ (by decide))
theorem Major.bexp (d a : Reg) (r : Bool) : Major.Statement (.bexp d a r) :=
  fun _ h => .inr (Option.some.inj h ▸ major_of_join _ _ (by decide))
theorem Major.bwait (d a : Reg) : Major.Statement (.bwait d a) :=
  fun _ h => .inr (Option.some.inj h ▸ major_of_join _ _ (by decide))
theorem Major.btestCnt (d a : Reg) : Major.Statement (.btestCnt d a) :=
  fun _ h => .inr (Option.some.inj h ▸ major_of_join _ _ (by decide))
theorem Major.btestFlg (d a : Reg) : Major.Statement (.btestFlg d a) :=
  fun _ h => .inr (Option.some.inj h ▸ major_of_join _ _ (by decide))
theorem Major.bdomRect (a : Reg) (j : BitVec 6) : Major.Statement (.bdomRect a j) :=
  fun _ h => .inr (Option.some.inj h ▸ major_of_join _ _ (by decide))
theorem Major.bdomList (a : Reg) (j : BitVec 6) : Major.Statement (.bdomList a j) :=
  fun _ h => .inr (Option.some.inj h ▸ major_of_join _ _ (by decide))
theorem Major.evwait (d a : Reg) : Major.Statement (.evwait d a) :=
  fun _ h => .inr (Option.some.inj h ▸ major_of_join _ _ (by decide))
theorem Major.evsig (d a : Reg) (x : Bool) : Major.Statement (.evsig d a x) :=
  fun _ h => .inr (Option.some.inj h ▸ major_of_join _ _ (by decide))
theorem Major.evlock (d a : Reg) (t : Bool) : Major.Statement (.evlock d a t) :=
  fun _ h => .inr (Option.some.inj h ▸ major_of_join _ _ (by decide))
theorem Major.evunlock (a : Reg) : Major.Statement (.evunlock a) :=
  fun _ h => .inr (Option.some.inj h ▸ major_of_join _ _ (by decide))
theorem Major.waitv (d a b : Reg) (k : MaskReg) (l : Bool) (c : WaitCond) : Major.Statement (.waitv d a b k l c) :=
  fun _ h => .inr (Option.some.inj h ▸ major_of_join _ _ (by decide))
theorem Major.cpq (d a : Reg) : Major.Statement (.cpq d a) :=
  fun _ h => .inr (Option.some.inj h ▸ major_of_join _ _ (by decide))
theorem Major.cpqt (d a : Reg) : Major.Statement (.cpqt d a) :=
  fun _ h => .inr (Option.some.inj h ▸ major_of_join _ _ (by decide))
theorem Major.qfence (m : BitVec 4) : Major.Statement (.qfence m) :=
  fun _ h => .inr (Option.some.inj h ▸ major_of_join _ _ (by decide))
theorem Major.qstatOcc (d : Reg) (q : BitVec 2) : Major.Statement (.qstatOcc d q) :=
  fun _ h => .inr (Option.some.inj h ▸ major_of_join _ _ (by decide))
theorem Major.qstatFaddr (d : Reg) (q : BitVec 2) : Major.Statement (.qstatFaddr d q) :=
  fun _ h => .inr (Option.some.inj h ▸ major_of_join _ _ (by decide))
theorem Major.qstatFcause (d : Reg) (q : BitVec 2) : Major.Statement (.qstatFcause d q) :=
  fun _ h => .inr (Option.some.inj h ▸ major_of_join _ _ (by decide))
theorem Major.gcast (d a b : Reg) : Major.Statement (.gcast d a b) :=
  fun _ h => .inr (Option.some.inj h ▸ major_of_join _ _ (by decide))
theorem Major.fence (s r q : Bool) (c : Scope) : Major.Statement (.fence s r q c) :=
  fun _ h => .inr (Option.some.inj h ▸ major_of_join _ _ (by decide))
theorem Major.fencei (c : Scope) : Major.Statement (.fencei c) :=
  fun _ h => .inr (Option.some.inj h ▸ major_of_join _ _ (by decide))
theorem Major.seedput (d a : Reg) : Major.Statement (.seedput d a) :=
  fun _ h => .inr (Option.some.inj h ▸ major_of_join _ _ (by decide))
theorem Major.seedyield (d a : Reg) : Major.Statement (.seedyield d a) :=
  fun _ h => .inr (Option.some.inj h ▸ major_of_join _ _ (by decide))
theorem Major.seedend : Major.Statement (.seedend) := fun _ h => .inr (Option.some.inj h ▸ major_of_join _ _ (by decide))
theorem Major.nestgo (d a : Reg) : Major.Statement (.nestgo d a) :=
  fun _ h => .inr (Option.some.inj h ▸ major_of_join _ _ (by decide))
theorem Major.prio (d a : Reg) : Major.Statement (.prio d a) :=
  fun _ h => .inr (Option.some.inj h ▸ major_of_join _ _ (by decide))
theorem Major.slotwait (d : Reg) (n : Bool) : Major.Statement (.slotwait d n) :=
  fun _ h => .inr (Option.some.inj h ▸ major_of_join _ _ (by decide))
theorem Major.tokb (d : Reg) : Major.Statement (.tokb d) := fun _ h => .inr (Option.some.inj h ▸ major_of_join _ _ (by decide))
theorem Major.verstage (d a b : Reg) : Major.Statement (.verstage d a b) :=
  fun _ h => .inr (Option.some.inj h ▸ major_of_join _ _ (by decide))
theorem Major.verpub (d a : Reg) : Major.Statement (.verpub d a) :=
  fun _ h => .inr (Option.some.inj h ▸ major_of_join _ _ (by decide))
theorem Major.verqCur (d : Reg) : Major.Statement (.verqCur d) :=
  fun _ h => .inr (Option.some.inj h ▸ major_of_join _ _ (by decide))
theorem Major.verqReg (d a : Reg) : Major.Statement (.verqReg d a) :=
  fun _ h => .inr (Option.some.inj h ▸ major_of_join _ _ (by decide))
theorem Major.verqSlot (d a : Reg) : Major.Statement (.verqSlot d a) :=
  fun _ h => .inr (Option.some.inj h ▸ major_of_join _ _ (by decide))
theorem Major.mark (a : Reg) (w : Bool) : Major.Statement (.mark a w) :=
  fun _ h => .inr (Option.some.inj h ▸ major_of_join _ _ (by decide))
theorem Major.ttgo (d a b : Reg) : Major.Statement (.ttgo d a b) :=
  fun _ h => .inr (Option.some.inj h ▸ major_of_join _ _ (by decide))
theorem Major.ttstatSt (d : Reg) : Major.Statement (.ttstatSt d) :=
  fun _ h => .inr (Option.some.inj h ▸ major_of_join _ _ (by decide))
theorem Major.ttstatEnt (d a : Reg) : Major.Statement (.ttstatEnt d a) :=
  fun _ h => .inr (Option.some.inj h ▸ major_of_join _ _ (by decide))
theorem Major.ttstatFaddr (d : Reg) : Major.Statement (.ttstatFaddr d) :=
  fun _ h => .inr (Option.some.inj h ▸ major_of_join _ _ (by decide))
theorem Major.pin (d a b : Reg) (w r : BitVec 3) : Major.Statement (.pin d a b w r) :=
  fun _ h => .inr (Option.some.inj h ▸ major_of_join _ _ (by decide))
theorem Major.unpin (r : BitVec 3) : Major.Statement (.unpin r) :=
  fun _ h => .inr (Option.some.inj h ▸ major_of_join _ _ (by decide))
theorem Major.hintef (a b : Reg) (r : BitVec 3) : Major.Statement (.hintef a b r) :=
  fun _ h => .inr (Option.some.inj h ▸ major_of_join _ _ (by decide))
theorem Major.pref (a b : Reg) (x : Bool) (l : PrefLevel) : Major.Statement (.pref a b x l) :=
  fun _ h => .inr (Option.some.inj h ▸ major_of_join _ _ (by decide))
theorem Major.cflushWb (a b : Reg) : Major.Statement (.cflushWb a b) :=
  fun _ h => .inr (Option.some.inj h ▸ major_of_join _ _ (by decide))
theorem Major.cflushWbi (a b : Reg) : Major.Statement (.cflushWbi a b) :=
  fun _ h => .inr (Option.some.inj h ▸ major_of_join _ _ (by decide))
theorem Major.cflushInv (a b : Reg) : Major.Statement (.cflushInv a b) :=
  fun _ h => .inr (Option.some.inj h ▸ major_of_join _ _ (by decide))
theorem Major.alloc (d a : Reg) : Major.Statement (.alloc d a) :=
  fun _ h => .inr (Option.some.inj h ▸ major_of_join _ _ (by decide))
theorem Major.free (a b : Reg) : Major.Statement (.free a b) :=
  fun _ h => .inr (Option.some.inj h ▸ major_of_join _ _ (by decide))
theorem Major.ecall : Major.Statement (.ecall) := fun _ h => .inr (Option.some.inj h ▸ major_of_join _ _ (by decide))
theorem Major.ebreak : Major.Statement (.ebreak) := fun _ h => .inr (Option.some.inj h ▸ major_of_join _ _ (by decide))
theorem Major.eret : Major.Statement (.eret) := fun _ h => .inr (Option.some.inj h ▸ major_of_join _ _ (by decide))
theorem Major.csrrd (d : Reg) (c : BitVec 12) : Major.Statement (.csrrd d c) :=
  fun _ h => .inr (Option.some.inj h ▸ major_of_join _ _ (by decide))
theorem Major.csrwr (d a : Reg) (c : BitVec 12) : Major.Statement (.csrwr d a c) :=
  fun _ h => .inr (Option.some.inj h ▸ major_of_join _ _ (by decide))
theorem Major.csrset (d a : Reg) (c : BitVec 12) : Major.Statement (.csrset d a c) :=
  fun _ h => .inr (Option.some.inj h ▸ major_of_join _ _ (by decide))
theorem Major.csrclr (d a : Reg) (c : BitVec 12) : Major.Statement (.csrclr d a c) :=
  fun _ h => .inr (Option.some.inj h ▸ major_of_join _ _ (by decide))
theorem Major.tlbinvPage (a : Reg) (s : Scope) : Major.Statement (.tlbinvPage a s) :=
  fun _ h => .inr (Option.some.inj h ▸ major_of_join _ _ (by decide))
theorem Major.tlbinvCid (a : Reg) (s : Scope) : Major.Statement (.tlbinvCid a s) :=
  fun _ h => .inr (Option.some.inj h ▸ major_of_join _ _ (by decide))
theorem Major.tlbinvCtx (a : Reg) (s : Scope) : Major.Statement (.tlbinvCtx a s) :=
  fun _ h => .inr (Option.some.inj h ▸ major_of_join _ _ (by decide))
theorem Major.tlbinvAll (a : Reg) (s : Scope) : Major.Statement (.tlbinvAll a s) :=
  fun _ h => .inr (Option.some.inj h ▸ major_of_join _ _ (by decide))
theorem Major.rdtime (d : Reg) : Major.Statement (.rdtime d) :=
  fun _ h => .inr (Option.some.inj h ▸ major_of_join _ _ (by decide))
theorem Major.rdcyc (d : Reg) : Major.Statement (.rdcyc d) :=
  fun _ h => .inr (Option.some.inj h ▸ major_of_join _ _ (by decide))
theorem Major.userReturn (k : Nat) : Major.Statement (.userReturn k) := fun _ h => nomatch h
theorem Major.spadwaysWrite (core : Nat) (value : Word) : Major.Statement (.spadwaysWrite core value) := fun _ h => nomatch h
theorem Major.prioceilWrite (core : Nat) (value : Word) : Major.Statement (.prioceilWrite core value) := fun _ h => nomatch h
theorem Major.diversionTableWrite (core : Nat) (count : Bool) (value : Word) : Major.Statement (.diversionTableWrite core count value) :=
  fun _ h => nomatch h
theorem Major.dbgctlWrite (value : Word) : Major.Statement (.dbgctlWrite value) := fun _ h => nomatch h
theorem Major.spanSwitch (core : Nat) : Major.Statement (.spanSwitch core) := fun _ h => nomatch h
theorem Major.timer (core : Nat) : Major.Statement (.timer core) := fun _ h => nomatch h
theorem Major.asyncEventTake (core : Nat) : Major.Statement (.asyncEventTake core) := fun _ h => nomatch h
theorem Major.elementProgressTimer (k elem kind port : Nat) : Major.Statement (.elementProgressTimer k elem kind port) :=
  fun _ h => nomatch h
theorem Major.seedDispatch (k : Nat) : Major.Statement (.seedDispatch k) := fun _ h => nomatch h
theorem Major.loadDataReturn (k : Nat) (reg : Reg) : Major.Statement (.loadDataReturn k reg) := fun _ h => nomatch h
theorem Major.acknowledgement (i : Nat) : Major.Statement (.acknowledgement i) := fun _ h => nomatch h
theorem Major.remoteWriteArrival (i : Nat) : Major.Statement (.remoteWriteArrival i) := fun _ h => nomatch h
theorem Major.heldRead (i : Nat) : Major.Statement (.heldRead i) := fun _ h => nomatch h
theorem Major.amoArrival (i : Nat) : Major.Statement (.amoArrival i) := fun _ h => nomatch h
theorem Major.messageRetry (i : Nat) : Major.Statement (.messageRetry i) := fun _ h => nomatch h
theorem Major.barrierArrival (i : Nat) : Major.Statement (.barrierArrival i) := fun _ h => nomatch h
theorem Major.expectation (i : Nat) : Major.Statement (.expectation i) := fun _ h => nomatch h
theorem Major.byteSubtraction (i : Nat) : Major.Statement (.byteSubtraction i) := fun _ h => nomatch h
theorem Major.phaseMessage (i : Nat) : Major.Statement (.phaseMessage i) := fun _ h => nomatch h
theorem Major.bexpReply (k : Nat) : Major.Statement (.bexpReply k) := fun _ h => nomatch h
theorem Major.bwaitWake (k : Nat) : Major.Statement (.bwaitWake k) := fun _ h => nomatch h
theorem Major.evwaitWake (k : Nat) : Major.Statement (.evwaitWake k) := fun _ h => nomatch h
theorem Major.evlockWake (k : Nat) : Major.Statement (.evlockWake k) := fun _ h => nomatch h
theorem Major.waitvWake (k : Nat) : Major.Statement (.waitvWake k) := fun _ h => nomatch h
theorem Major.slotwaitWake (k : Nat) : Major.Statement (.slotwaitWake k) := fun _ h => nomatch h
theorem Major.eventLineUpdate (i : Nat) : Major.Statement (.eventLineUpdate i) := fun _ h => nomatch h
theorem Major.copyChunk (core queue : Nat) : Major.Statement (.copyChunk core queue) := fun _ h => nomatch h
theorem Major.collectivePerform (cluster : Nat) : Major.Statement (.collectivePerform cluster) := fun _ h => nomatch h
theorem Major.leaseGrant (cluster : Nat) : Major.Statement (.leaseGrant cluster) := fun _ h => nomatch h
theorem Major.budgetExpiry (core : Nat) : Major.Statement (.budgetExpiry core) := fun _ h => nomatch h
theorem Major.millCommandPerform (core : Nat) : Major.Statement (.millCommandPerform core) := fun _ h => nomatch h
theorem Major.mchainLanding (k : Nat) (reg : Reg) : Major.Statement (.mchainLanding k reg) := fun _ h => nomatch h
theorem Major.slottedInjection (core : Nat) : Major.Statement (.slottedInjection core) := fun _ h => nomatch h
theorem Major.shareRefill : Major.Statement (.shareRefill) := fun _ h => nomatch h
theorem Major.loadMonitorWindow (die : Nat) : Major.Statement (.loadMonitorWindow die) := fun _ h => nomatch h
theorem Major.ttEntryBegin (part entry : Nat) : Major.Statement (.ttEntryBegin part entry) := fun _ h => nomatch h
theorem Major.ttEntryComplete (part entry : Nat) : Major.Statement (.ttEntryComplete part entry) := fun _ h => nomatch h
theorem Major.hostSeedWrite (port offset : Nat) (x : HostAccess) : Major.Statement (.hostSeedWrite port offset x) :=
  fun _ h => nomatch h
theorem Major.semTake (agent : BitVec 16) (cell : Nat) : Major.Statement (.semTake agent cell) := fun _ h => nomatch h
theorem Major.semRelease (agent : BitVec 16) (cell : Nat) (value : Word) : Major.Statement (.semRelease agent cell value) :=
  fun _ h => nomatch h
theorem Major.mailboxWrite (core : Nat) (sender : BitVec 16) (value : Word) : Major.Statement (.mailboxWrite core sender value) :=
  fun _ h => nomatch h
theorem Major.barrierWindowArrive (core bar : Nat) (value : Word) : Major.Statement (.barrierWindowArrive core bar value) :=
  fun _ h => nomatch h
theorem Major.barrierWindowExpect (core bar : Nat) (value : Word) : Major.Statement (.barrierWindowExpect core bar value) :=
  fun _ h => nomatch h
theorem Major.eventLineInit (line : Nat) (value : Word) : Major.Statement (.eventLineInit line value) := fun _ h => nomatch h
theorem Major.eventLineSignal (line : Nat) (value : Word) : Major.Statement (.eventLineSignal line value) :=
  fun _ h => nomatch h
theorem Major.hostHdmWrite (port offset : Nat) (x : HostAccess) : Major.Statement (.hostHdmWrite port offset x) :=
  fun _ h => nomatch h
theorem Major.fwCreatePartition (k : Nat) : Major.Statement (.fwCreatePartition k) := fun _ h => nomatch h
theorem Major.fwSetShareWeight (k : Nat) : Major.Statement (.fwSetShareWeight k) := fun _ h => nomatch h
theorem Major.fwDestroyPartition (k : Nat) : Major.Statement (.fwDestroyPartition k) := fun _ h => nomatch h
theorem Major.fwSetPowerState (k : Nat) : Major.Statement (.fwSetPowerState k) := fun _ h => nomatch h
theorem Major.fwDebugGrant (k : Nat) : Major.Statement (.fwDebugGrant k) := fun _ h => nomatch h
theorem Major.fwStartChipletCore (k : Nat) : Major.Statement (.fwStartChipletCore k) := fun _ h => nomatch h
theorem Major.reset : Major.Statement (.reset) := fun _ h => nomatch h
theorem Major.powerWake : Major.Statement (.powerWake) := fun _ h => nomatch h
theorem Major.supplySag (cluster : Nat) : Major.Statement (.supplySag cluster) := fun _ h => nomatch h
theorem Major.tamper (k : Nat) : Major.Statement (.tamper k) := fun _ h => nomatch h
theorem Major.debugHalt (x : DebugAct) : Major.Statement (.debugHalt x) := fun _ h => nomatch h
theorem Major.getVersion (port : Nat) : Major.Statement (.getVersion port) := fun _ h => nomatch h
theorem Major.getCapabilities (port : Nat) : Major.Statement (.getCapabilities port) := fun _ h => nomatch h
theorem Major.negotiateAlgorithms (port : Nat) : Major.Statement (.negotiateAlgorithms port) := fun _ h => nomatch h
theorem Major.getDigests (port : Nat) : Major.Statement (.getDigests port) := fun _ h => nomatch h
theorem Major.getCertificate (port slot offset length : Nat) : Major.Statement (.getCertificate port slot offset length) :=
  fun _ h => nomatch h
theorem Major.challenge (port : Nat) (nonce : BitVec 256) : Major.Statement (.challenge port nonce) := fun _ h => nomatch h
theorem Major.getMeasurements (port : Nat) (r : MeasRequest) : Major.Statement (.getMeasurements port r) :=
  fun _ h => nomatch h
theorem Major.keyExchange (port : Nat) : Major.Statement (.keyExchange port) := fun _ h => nomatch h
theorem Major.finish (port : Nat) : Major.Statement (.finish port) := fun _ h => nomatch h
theorem Major.endSession (port : Nat) : Major.Statement (.endSession port) := fun _ h => nomatch h
theorem Major.unassignedInstructionWord (w : IWord) : Major.Statement (.unassignedInstructionWord w) := by
  intro x h
  simp only [encode] at h
  split at h
  · exact .inl (by rw [Option.some.inj h])
  · exact absurd h (by simp)
theorem Major.longLatencyResult (k : Nat) (reg : Reg) : Major.Statement (.longLatencyResult k reg) := fun _ h => nomatch h
theorem Major.tlbinvComplete (i : Nat) : Major.Statement (.tlbinvComplete i) := fun _ h => nomatch h
theorem Major.hostLinkTraining (port : Nat) : Major.Statement (.hostLinkTraining port) := fun _ h => nomatch h
theorem Major.supplySagEnd (cluster : Nat) : Major.Statement (.supplySagEnd cluster) := fun _ h => nomatch h

end Sys2Proof.Laws
end

