-- ==== Sys2Proof/Safety.lean ====
section
/-!
DEFINITION. Safety.lean: what counts as a safe run.
-/

namespace Sys2Proof.Machine

/-- A step keeps the machine going: it answers a next state. -/
def Goes (o : Out) : Prop := ∃ s, o = .next s

/-- A state from which every run goes on: each of the first `n` steps answers a next state. -/
def SafeFor : Nat → State → Prop
  | 0, _ => True
  | n + 1, s => ∃ t, step s = .next t ∧ SafeFor n t

/-- A safe machine: it never stops. -/
def Safe (s : State) : Prop := ∀ n, SafeFor n s

end Sys2Proof.Machine
end

