-- ==== Sys2Proof/Tests/Slice0.lean ====
section
/-!
SUPPORT. Tests/Slice0.lean: the operand checks refuse ill-formed terms; words written out from the spec's encodings decode; small
states meet the hypotheses of the statements; and single steps give the results of the spec's tables and worked examples.
-/

namespace Sys2Proof.Tests

open Sys2Proof
open Sys2Proof.Machine
open Sys2Proof.Claims

set_option Elab.async false

/-! ## Ill-formed terms, one or more for each check of the operands (02 R28, R38) -/

theorem test_wf_integer_forms :
    ([.vadd 1 2 3 0 .f32, .vsub 1 2 3 0 .nf, .vmul 1 2 3 0 .f16, .vmulh 1 2 3 0 .bf16, .vmulhz 1 2 3 0 .f32, .vmin 1 2 3 0 .f32,
      .vmax 1 2 3 0 .f32, .vminz 1 2 3 0 .f32, .vmaxz 1 2 3 0 .f32, .vand 1 2 3 0 .f32, .vor 1 2 3 0 .f32, .vxor 1 2 3 0 .nf,
      .vshl 1 2 3 0 .f32, .vshr 1 2 3 0 .f32, .vsar 1 2 3 0 .f32, .vsadd 1 2 3 0 .f32, .vssub 1 2 3 0 .f32,
      .vmacc 1 2 3 0 .f32] : List Instr).all (fun i => !i.wf) = true := by decide

theorem test_wf_scalar_integer_forms :
    ([.vaddScalar 1 2 3 0 .f32, .vsubScalar 1 2 3 0 .nf, .vmulScalar 1 2 3 0 .f16, .vmulhScalar 1 2 3 0 .f32,
      .vmulhzScalar 1 2 3 0 .f32, .vminScalar 1 2 3 0 .f32, .vmaxScalar 1 2 3 0 .f32, .vminzScalar 1 2 3 0 .f32,
      .vmaxzScalar 1 2 3 0 .f32, .vandScalar 1 2 3 0 .f32, .vorScalar 1 2 3 0 .f32, .vxorScalar 1 2 3 0 .f32,
      .vshlScalar 1 2 3 0 .f32, .vshrScalar 1 2 3 0 .f32, .vsarScalar 1 2 3 0 .f32, .vsaddScalar 1 2 3 0 .f32,
      .vssubScalar 1 2 3 0 .f32, .vmaccScalar 1 2 3 0 .f32, .vnarrow 1 2 0 0 .b64, .vwiden 1 2 false 0 .b8]
      : List Instr).all (fun i => !i.wf) = true := by decide

theorem test_wf_floating_forms :
    ([.vfadd 1 2 3 0 .b8, .vfsub 1 2 3 0 .b16, .vfmul 1 2 3 0 .b32, .vfdiv 1 2 3 0 .nf, .vfsqrt 1 2 0 .b8, .vfma 1 2 3 0 .b8,
      .vfms 1 2 3 0 .b8, .vfnma 1 2 3 0 .b8, .vfmin 1 2 3 0 .b8, .vfmax 1 2 3 0 .b8, .vfrcpe 1 2 0 .b8, .vfrsqe 1 2 0 .b8,
      .vfscale 1 2 3 0 .b8, .vfsgn 1 2 3 0 .b8, .vfaddScalar 1 2 3 0 .b8, .vfsubScalar 1 2 3 0 .b8, .vfmulScalar 1 2 3 0 .b8,
      .vfdivScalar 1 2 3 0 .b8, .vfmaScalar 1 2 3 0 .b8, .vfmsScalar 1 2 3 0 .b8, .vfnmaScalar 1 2 3 0 .b8,
      .vfminScalar 1 2 3 0 .b8, .vfmaxScalar 1 2 3 0 .b8, .vfscaleScalar 1 2 3 0 .b8, .vfsgnScalar 1 2 3 0 .b8,
      .vfcvt 1 1 .dyn .f16 0 .f32, .vfcvt 1 2 .dyn .nf 0 .nf, .vfcvti 1 1 .dyn false .b8 0 .f32,
      .vfcvtf 1 1 .dyn false .b8 0 .f32, .vfmxq 1 2 .dyn 0 0 .b64] : List Instr).all (fun i => !i.wf) = true := by decide

theorem test_wf_mask_and_movement_forms :
    ([.vcmpeq 0 1 2 0 .b8, .vcmpne 1 1 2 0 .f32, .vcmplt 0 1 2 0 .b8, .vcmple 0 1 2 0 .b8, .vcmplo 0 1 2 0 .b8,
      .vcmpls 0 1 2 0 .b8, .vfcmpeq 0 1 2 0 .f32, .vfcmplt 1 1 2 0 .b8, .vfcmple 0 1 2 0 .f32, .mand 0 1 2 0 .b8,
      .mor 0 1 2 0 .b8, .mxor 0 1 2 0 .b8, .mandn 0 1 2 0 .b8, .mtofirst 0 1 0 .b8, .mbefore 0 1 0 .b8, .mfromg 0 1 2,
      .vextr 1 2 3 .nf, .vredsum 1 2 3 0 .f32, .vredmax 1 2 3 0 .f32, .vredmin 1 2 3 0 .f32, .vscan 1 2 3 0 .f32,
      .vpart 1 2 3 0 .f32, .vconflict 1 2 0 .f32, .vrand 1 0 .f32, .vfredsum 1 2 3 0 .b8, .vfredmax 1 2 3 0 .b8,
      .vhash 1 2 3 0 .b8, .vmatchb 0 1 2 0] : List Instr).all (fun i => !i.wf) = true := by decide

theorem test_wf_memory_and_system_forms :
    ([.setvl 1 2 .nf, .setvli 1 4 .nf, .vldx 1 2 1 0 .b8, .vldseg 1 2 0 0 .b8, .vldseg 30 2 2 0 .b8, .vstseg 1 2 0 0 .b8,
      .vstseg 31 2 1 0 .b8, .mcoll 1 0 0 0 false, .mcoll 1 6 0 0 false, .amoswap 1 2 3 .module false false .pair,
      .amoadd 1 2 3 .module false false .pair, .amoand 1 2 3 .module false false .pair, .amoor 1 2 3 .module false false .pair,
      .amoxor 1 2 3 .module false false .pair, .amomin 1 2 3 .module false false .pair, .amomax 1 2 3 .module false false .pair,
      .amocas 1 2 3 .module false false .pair, .redadd 1 2 .module false .pair, .redmin 1 2 .module false .pair,
      .redmax 1 2 .module false .pair, .redfmax 1 2 .module false .pair, .cpq 1 0, .cpq 1 5, .cpqt 1 2, .gcast 1 3 2,
      .fence false false false .core, .csrrd 1 0x002, .csrwr 1 2 0x004, .csrwr 1 2 0x300, .csrset 1 2 0x020, .csrset 1 2 0x005,
      .csrclr 1 2 0x220, .csrclr 1 0 0x30F, .tlbinvPage 1 .strand, .tlbinvCid 1 .strand, .tlbinvCtx 1 .strand,
      .tlbinvAll 1 .strand, .mdrain 1 2 3 0 true .tile] : List Instr).all (fun i => !i.wf) = true := by decide

/-! ## Words written out from the layouts (02 R42 to R49 and the tables of the chapters) -/

/-- ADD: major 0x01, d 5, a 6, b 7, fn 0. -/
theorem test_word_add : decode 0b000001_00101_00110_00111_00000000000 = .ok (.add 5 6 7) := rfl
/-- LEA: fn 27 with the shift 3 in fn[10:8]. -/
theorem test_word_lea : decode 0b000001_10110_01110_01111_011_00011011 = .ok (.lea 22 14 15 3) := rfl
/-- SARI: major 0x07, imm[7:6] 10, amount 12. -/
theorem test_word_sari : decode 0b000111_01001_01001_00000000_10_001100 = .ok (.sari 9 9 12) := rfl
/-- SW: major 0x1D, data 7, base 3, imm 16. -/
theorem test_word_sw : decode 0b011101_00111_00011_0000000000010000 = .ok (.sw 7 3 16) := rfl
/-- BNE: major 0x0D, a 5, b 0, offset -3. -/
theorem test_word_bne : decode 0b001101_00101_00000_1111111111111101 = .ok (.bne 5 0 (-3)) := rfl
/-- LDHI: major 0x08, d 5, imm 0x1235. -/
theorem test_word_ldhi : decode 0b001000_00101_00000_0001001000110101 = .ok (.ldhi 5 0x1235) := rfl
/-- FADD: major 0x23, d 1, a 2, b 3, rounding RNE in fn[10:8], f32. -/
theorem test_word_fadd : decode 0x8C221900 = .ok (.fadd 1 2 3 .rne .f32) := rfl
/-- VADD: major 0x24, d 1, a 2, b 3, mk 0, et b32, fn 0. -/
theorem test_word_vadd : decode 0b100100_00001_00010_00011_000_010_00000 = .ok (.vadd 1 2 3 0 .b32) := rfl
/-- The scalar operand form of VADD lies in major 0x37. -/
theorem test_word_vadd_scalar : decode 0b110111_00001_00010_00111_000_010_00000 = .ok (.vaddScalar 1 2 7 0 .b32) := rfl
/-- VFMA: major 0x25, d 4, a 5, b 6, mk 2, et f32, fn 5. -/
theorem test_word_vfma : decode 0b100101_00100_00101_00110_010_110_00101 = .ok (.vfma 4 5 6 2 .f32) := rfl
/-- VCMPLT: major 0x26, d m3, a 1, b 2, mk 1, et b32, fn 2. -/
theorem test_word_vcmplt : decode 0b100110_00011_00001_00010_001_010_00010 = .ok (.vcmplt 3 1 2 1 .b32) := rfl
/-- VREDSUM: major 0x27, d g14, a v1, b g0, et b32, fn 12. -/
theorem test_word_vredsum : decode 0b100111_01110_00001_00000_000_010_01100 = .ok (.vredsum 14 1 0 0 .b32) := rfl
/-- VLDS: major 0x28, mode 1, data 1, base 5, stride 6, et b32. -/
theorem test_word_vlds : decode 0b101000_00001_00101_00110_000_010_00001 = .ok (.vlds 1 5 6 0 .b32) := rfl
/-- MMA: major 0x2B, fn 4. -/
theorem test_word_mma : decode 0xAC2006E4 = .ok (.mma 1 0 0 true true 7) := rfl
/-- AMOADD: major 0x2C. -/
theorem test_word_amoadd : decode 0xB1CF84D1 = .ok (.amoadd 14 15 16 .module true true .w64) := rfl
/-- REDADD: major 0x2D. -/
theorem test_word_redadd : decode 0xB4053490 = .ok (.redadd 5 6 .module true .w64) := rfl
/-- BEXP.arr: op 0x2E, d 16, a 15, imm12 1, fn 2. -/
theorem test_word_bexp : decode 0b101110_10000_01111_000000000001_0010 = .ok (.bexp 16 15 true) := rfl
/-- CPQ: major 0x2F, d 16, a 20. -/
theorem test_word_cpq : decode 0b101111_10000_10100_0000000000000000 = .ok (.cpq 16 20) := rfl
/-- FENCE, SEEDPUT, PIN, TLBINV, VSTRCMP, SETVLI and CSRRD, one word of each of their majors. -/
theorem test_words_of_the_other_majors :
    decode 0xC00001D0 = .ok (.fence false true true .system) ∧ decode 0xC5CF0000 = .ok (.seedput 14 15) ∧
    decode 0xCDCF81A0 = .ok (.pin 14 15 16 3 2) ∧ decode 0xD00E0057 = .ok (.tlbinvPage 14 .system) ∧
    decode 0xD4811065 = .ok (.vstrcmp 4 1 2 0) ∧ decode 0b110110_01110_00000_00100101100_001_01 = .ok (.setvli 14 300 .b16) ∧
    decode 0xD1C00013 = .ok (.csrrd 14 1) := ⟨rfl, rfl, rfl, rfl, rfl, rfl, rfl⟩
/-- The words that 02 lists as refused, with their reason codes, and the legal load that looks empty. -/
theorem test_words_refused :
    decode 0x04000040 = .error .reserved ∧ decode 0x04A63901 = .error .reserved ∧
    decode 0x1D2900CC = .ok (.unassignedInstructionWord 0x1D2900CC) ∧
    decode 0x948532F5 = .ok (.unassignedInstructionWord 0x948532F5) ∧
    unassignedReason 0x1D2900CC = some 1 ∧ unassignedReason 0x948532F5 = some 1 ∧
    decode 0x60000000 = .ok (.lbz 0 0 0) := ⟨rfl, rfl, rfl, rfl, rfl, rfl, rfl⟩

/-! ## Small states that meet the hypotheses of the statements -/

/-- `m` runs from `s` to its end, and `q` holds of its answer and the state it leaves. -/
def runsTo {α : Type} (m : M α) (s : State) (q : α → State → Bool) : Bool :=
  match m.run.run s with
  | (.ok a, t) => q a t
  | _ => false

/-- `m` raises an exception from `s`, and `q` holds of it and the state it leaves. -/
def raises {α : Type} (m : M α) (s : State) (q : Exc → State → Bool) : Bool :=
  match m.run.run s with
  | (.error (.trap e), t) => q e t
  | _ => false

/-- `runsTo` says that there is a `Yields`, the hypothesis of the statements. -/
theorem runsTo_yields {α : Type} {m : M α} {s : State} {q : α → State → Bool} (h : runsTo m s q = true) :
    ∃ a t, Yields m s a t ∧ q a t = true := by
  unfold runsTo at h
  split at h
  · exact ⟨_, _, ‹_›, h⟩
  · cases h

/-- `raises` says that there is a `Traps`, the hypothesis of the statements. -/
theorem raises_traps {α : Type} {m : M α} {s : State} {q : Exc → State → Bool} (h : raises m s q = true) :
    ∃ e t, Traps m s e t ∧ q e t = true := by
  unfold raises at h
  split at h
  · exact ⟨_, _, ‹_›, h⟩
  · cases h

/-- A strand with some g registers written, at 0x1000 with four elements. -/
def strandOf (gs : List (Reg × Word)) : Strand :=
  gs.foldl (fun t x => t.writeG x.1 x.2) { kind := .seed, pc := 0x1000, vl := 4 }

/-- A compute core of partition 1, with a carve of 256 KiB and translation on. -/
def coreOf : Core := { resident := true, part := 1, csrs := { ptbase := 0x1001, cidtag := 7, spadways := 4, prioceil := 11 } }

/-- A core where that context has gone, and a strand of it runs. -/
def stateOf (t : Strand) (c : Core) : State :=
  { booted := true, cur := 0, strands := [(0, t)], cores := [(0, c)],
    parts := [(1, { made := true, mask := BitVec.allOnes 128, weight := 1, sched := 0x300000, vtable := 0x200000 })] }

/-- The leaves of those pages, as a core's TLB holds them. -/
def leaves : List TlbEntry :=
  [{ core := 0, cid := 7, base := 0, size := 2 ^ 30, leaf := 0xDF, glob := false },
   { core := 0, cid := 7, base := 0xFFFFFFFF80000000, size := 4096, leaf := 0x20000000000DF, glob := false },
   { core := 0, cid := 7, base := 0xFFFFFFFF80001000, size := 4096, leaf := 0x20000080000DF, glob := false }]

/-- The state with a page table at 0x1000, whose leaves are in the TLB: the first GiB of G-space in place, the event lines, and the mutex
lines. -/
def mapped (s : State) : State :=
  ((((((({ s with tlb := leaves }.writePa 0x1000 8 0x2001).writePa 0x2000 8 0xDF).writePa 0x1FF8 8 0x3001).writePa 0x3FF0
    8 0x4001).writePa 0x4000 8 0x5001).writePa 0x5000 8 0x20000000000DF).writePa 0x5008 8 0x20000080000DF)

/-- The state of core 0 with some g registers written. -/
def small (gs : List (Reg × Word)) : State := stateOf (strandOf gs) coreOf

/-- Offset 64 of the scratchpad of core 0. -/
def ownVa : Word := 0xFFFFFFFFC0000040

/-- Offset 64 of the scratchpad of core 1. -/
def farVa : Word := 0xFFFFFFFFC0100040

/-- An address of G-space that is homed on die 0. -/
def memVa : Word := 0x100000

/-- Its place under that page table. -/
def memPlace : Place := .mem 0x40000 0 { part := some 1, va := 0x100000 } none

theorem witness_registers : (1 : Reg) ≠ 0 ∧ (2 : Reg) ≠ 1 := by decide

theorem witness_clear : Clear (small []) [1, 2, 3] [1] := by unfold Clear; decide +kernel

theorem witness_vclear : VClear (small []) [1, 2] [3] [0, 31] := by unfold VClear Clear; decide +kernel

theorem witness_barclear : BarClear (small []) [1, 2] [31] := by unfold BarClear Clear; decide +kernel

theorem witness_landing :
    (((small []).setMe ((small []).me.setMark 5 (.landing .longLatency 7 none))).strandAt 0).mark 5 =
      .landing .longLatency 7 none ∧
    (((small []).setMe ((small []).me.setMark 5 (.landing .load 7 (some 9)))).strandAt 0).mark 5 = .landing .load 7 (some 9) := by
  decide +kernel

/-- R97: each of the four cases has operands. -/
theorem witness_division : (0 : Word) = 0 ∧ BitVec.intMin 64 = 0x8000000000000000#64 ∧
    (-2 : Word) ≠ 0 ∧ ¬((7 : Word) = BitVec.intMin 64 ∧ (-2 : Word) = BitVec.allOnes 64) := by decide

/-- Each branch form has operands for which it is taken, and operands for which it is not. -/
theorem witness_branches : ∀ p ∈ branchForms, (p.2 5 5 ∨ p.2 5 6) ∧ (¬p.2 5 5 ∨ ¬p.2 5 6) := by
  simp only [branchForms, List.forall_mem_cons]
  refine ⟨?_, ?_, ?_, ?_, ?_, ?_, fun _ h => nomatch h⟩ <;> decide

theorem witness_mask_branches : (∃ e < 4, (1 : MWord).getLsbD e = true) ∧ (∀ e < 1, (1 : MWord).getLsbD e = true) ∧
    (∀ e < 4, (0 : MWord).getLsbD e = false) := by decide +kernel

theorem witness_jumps : (ea (small [(3, 0x1000)]) 3 4).toNat % 4 = 0 ∧ (ea (small [(3, 0x1000)]) 3 2).toNat % 4 ≠ 0 := by
  decide +kernel

/-- A load from the own scratchpad, one from another core's, and one from memory. -/
theorem witness_loads :
    (runsTo (M.check (small [(2, ownVa)]).myAgent .load (ea (small [(2, ownVa)]) 2 0) 8 false 0) (small [(2, ownVa)])
      fun p s1 => p == .carve 0 64 && runsTo (M.read p 8) s1 fun x _ => x == (0, false)) = true ∧
    (runsTo (M.check (small [(2, farVa)]).myAgent .load (ea (small [(2, farVa)]) 2 0) 8 false 0) (small [(2, farVa)])
      fun p s1 => p == .carve 1 64 && runsTo (M.send (some 1) 1 (.load (scratchKey 1 64) 8 false 5 false) false) s1 fun _ _ => true)
      = true ∧
    (runsTo (M.check (mapped (small [(2, memVa)])).myAgent .load (ea (mapped (small [(2, memVa)])) 2 0) 8 false 0)
      (mapped (small [(2, memVa)])) fun p s1 => p == memPlace && runsTo (M.read p 8) s1 fun x _ => x == (0, false))
      = true := by decide +kernel

theorem witness_own_carve : OwnCarve (small [(2, ownVa)]) (ea (small [(2, ownVa)]) 2 0) 8 := by
  unfold OwnCarve; decide +kernel

/-- A store performed in the own slice, and one that goes out as a message. -/
theorem witness_stores :
    (runsTo (M.check (mapped (small [(2, memVa)])).myAgent .store (ea (mapped (small [(2, memVa)])) 2 0) 8 false 0)
      (mapped (small [(2, memVa)])) fun p s1 => p == memPlace &&
        decide (s1.route p 8 5 = .here { part := some 1, va := 0x100000 } (cellsOf 0x40000 8 5)) &&
        runsTo (M.clearOf (cellsOf 0x40000 8 5)) s1 (fun _ t => t == s1) && runsTo (M.takeLines (cellsOf 0x40000 8 5)) s1 fun _ _ => true)
      = true ∧
    (runsTo (M.check (small [(2, farVa)]).myAgent .store (ea (small [(2, farVa)]) 2 0) 8 false 0) (small [(2, farVa)])
      fun p s1 => decide (s1.route p 8 5 = .away (some 1) 1 {} (cellsOf (scratchKey 1 64) 8 5)) && decide (s1.me.usc < 1024) &&
        !s1.slottedNow && runsTo (M.send (some 1) 1 (.store (cellsOf (scratchKey 1 64) 8 5)) true) s1 fun _ _ => true) = true := by
  decide +kernel

theorem witness_checks : (memVa + 1).toNat % 8 ≠ 0 ∧ spaceOf (0x0000FFFF80000000 : Word) = .absent ∧ spaceOf memVa = .global ∧
    (stateOf (strandOf []) { coreOf with csrs := {} }).walk 0 memVa = .invalid 0 ∧
    (small []).carveFor (small []).myAgent (localCore 0xFFFFFFFFC003FFF8) < localOff 0xFFFFFFFFC003FFF8 + 16 ∧
    localOff 0xFFFFFFFFC003FFF8 + 8 ≤ (small []).carveFor (small []).myAgent (localCore 0xFFFFFFFFC003FFF8) := by
  decide +kernel

/-- The tables that the walks of two addresses read, at the first level, at the second and at the fourth. -/
theorem witness_tables_at : TableAt (mapped (small [])) 0x1001 memVa 0 0x1000 ∧ TableAt (mapped (small [])) 0x1001 memVa 1 0x2000 ∧
    TableAt (mapped (small [])) 0x1001 0xFFFFFFFF80001000 3 0x5000 := by
  refine ⟨rfl, ⟨0x1000, (locateHbm 0 0x1000).getD 0, rfl, by decide +kernel, by decide +kernel⟩, ?_⟩
  exact ⟨0x4000, (locateHbm 0 0x4000).getD 0, ⟨0x3000, (locateHbm 0 0x3FF0).getD 0, ⟨0x1000, (locateHbm 0 0x1FF8).getD 0, rfl,
    by decide +kernel, by decide +kernel⟩, by decide +kernel, by decide +kernel⟩, by decide +kernel, by decide +kernel⟩

/-- Entries at which a walk ends: one that is not valid, leaves at level 1 and at level 3, and one with a reserved field. -/
theorem witness_walks : let s := mapped (small [])
    let key := fun (pa : Nat) => (locateHbm 0 pa).getD 0
    bitAt (0x1001 : Word) 0 = true ∧ pteValid (entryAt s (key 0x2008)) = false ∧
    (pteValid (entryAt s (key 0x2000)) = true ∧ bitsNat (entryAt s (key 0x2000)) 3 1 ≠ 0) ∧
    (pteValid (entryAt s (key 0x5000)) = true ∧ entryPa 0xFFFFFFFF80000000 3 0x5000 = 0x5000) ∧
    (let e := entryAt (s.writePa 0x1000 8 0x2011) (key 0x1000)
     pteValid e = true ∧ bitsNat e 3 1 = 0 ∧ bitsNat e 11 4 ≠ 0) ∧
    locateHbm 0 (entryPa memVa 0 0xC000000000) = none := by decide +kernel

/-- The table of `mapped` with nothing in the TLB: one page each that a load may use, that no access finds, that a user may not use, that
has no write permission, that is lossy, and that is in a weight region. -/
theorem witness_translations :
    let s := { mapped (small []) with tlb := [] }
    let leaf := fun (x : Nat) => { mapped (small []) with tlb := [] }.writePa 0x2000 8 x
    let walk := fun (s : State) (va : Word) => match s.walk 0x1001 va with
      | .leaf _ _ e _ => some e
      | .invalid _ => none
    memVa.toNat % 8 = 0 ∧ s.tlb = [] ∧ OnePage s s.myAgent 0xFFFFFFFF80000000 ∧ spaceOf memVa = .global ∧
    spaceOf 0xFFFFFFFF80000000 = .sync ∧ s.walk 0x1001 0x40000000 = .invalid 1 ∧
    ((walk s memVa).any fun e => pteUser e && Acc.load.needs.all (bitAt e ·)) = true ∧
    ((walk (leaf 0xCF) memVa).any fun e => !pteUser e) = true ∧
    ((walk (leaf 0xD3) memVa).any fun e => !Acc.store.needs.all (bitAt e ·)) = true ∧
    ((walk (leaf 0x4DF) memVa).any fun e => pteLossy e != 0) = true ∧
    ((walk (leaf 0x800000000000DF) memVa).any fun e => (pteRegion e).isSome) = true := by
  refine ⟨by decide +kernel, rfl, .inl (by decide +kernel), ?_⟩
  decide +kernel

theorem witness_exact_numbers : (3 : Nat) ≠ 0 ∧ 3 < 2 ^ 200 := by decide

/-- The greatest finite code of each of the four formats is not a NaN, and neither is its infinity. -/
theorem witness_codes : ∀ f ∈ [fp64, fp32, fp16, bf16], 2 ^ (f.width - 1) - 2 ^ f.man < 2 ^ f.width ∧
    (f.value (2 ^ (f.width - 1) - 2 ^ f.man)).isNaN = false ∧ (f.value (2 ^ (f.width - 1) - 2 ^ f.man - 1)).isNaN = false := by
  decide +kernel

theorem witness_nans : (FpVal.nan true).isNaN = true ∧ (0 : Word).toNat / 2 ^ fp32.width ≠ 2 ^ (64 - fp32.width) - 1 ∧
    0x3F800000 < 2 ^ fp32.width := by decide

/-- 3 * 2^0 lies within the ranges of both estimates in FP32. -/
theorem witness_estimates : (3 : Nat) ≠ 0 ∧ 3 < 2 ^ (fp32.man + 1) ∧ fp32.minExp ≤ -topExp 3 0 - 1 ∧ -topExp 3 0 < fp32.bias ∧
    2 * fp32.minExp ≤ -topExp 3 0 - 2 ∧ -topExp 3 0 < 2 * fp32.bias - 2 := by decide +kernel

/-- The formats that the NFMT registers hold at reset are valid. -/
theorem witness_formats : ∀ n < 4, nfmtValid ((small []).me.nfmtAt n) = true := by decide +kernel

/-- v1 holds an infinity in FP32; v2 holds 1.0 and zeros. -/
def blocks : State := (small []).setMe (((small []).me.writeV 1 0x7F800000).writeV 2 0x3F800000)

theorem witness_blocks : Active blocks.me 256 0 0 ∧ (fpElem blocks.me .f32 1 0).notFinite = true ∧
    (fpElem blocks.me .f32 2 0).isZero = false ∧ expOf (fpElem blocks.me .f32 2 0) = 0 ∧
    ((fpElem blocks.me .f32 2 1).isZero = true ∧ ¬Active blocks.me 256 0 4) := by decide +kernel

/-- m1 holds the bit of element 2 alone. -/
def masks : State := (small []).setMe ((small []).me.writeM 1 4)

theorem witness_masks : (1 : MaskReg) ≠ 0 ∧
    (Active masks.me 256 0 2 ∧ maskBit masks.me 1 2 = true ∧ ∀ i < 2, ¬(Active masks.me 256 0 i ∧ maskBit masks.me 1 i = true)) ∧
    (∀ j < 4, ¬(Active masks.me 256 0 j ∧ maskBit masks.me 2 j = true)) := by decide +kernel

/-- v1 holds the stub of "walnut" (05 R156). -/
def stubs : State := (small []).setMe { (small []).me.writeV 1 (BitVec.ofNat 8192 (0x74756E6C6177 + 6 * 2 ^ 112)) with vl := 2 }

theorem witness_strings : StubActive stubs.me 0 0 ∧ stubTodo stubs.me 0 = [0] ∧ (stubAt (stubs.me.readV 1) 0).len = 6 ∧
    (runsTo ((stubTodo stubs.me 0).mapM fun i => atElem (2 * i) (M.stubCompare (stubAt (stubs.me.readV 1) i)
      (stubAt (stubs.me.readV 1) i) (2 * i))) (begun stubs) fun xs _ => xs == [(0, 6)]) = true ∧
    (∀ j < 6, runsTo (M.stubByte (stubAt (stubs.me.readV 1) 0) j 0) stubs
      (fun a t => a == 0x74756E6C6177 / 256 ^ j % 256 && t == stubs) = true) := by unfold StubActive; decide +kernel

/-- An ordered load of four words from the own scratchpad, and one whose third element leaves the carve. -/
theorem witness_ordered_loads :
    ((small [(6, 4)]).me.readG 6).toNat % Et.b32.bytes = 0 ∧
    orderedTodo (small []).me (min (small []).me.vl 256) 0 = [0, 1, 2, 3] ∧
    (runsTo ([0, 1, 2, 3].mapM fun j => atElem j (M.fieldsRead 4 j [ownVa + BitVec.ofNat 64 (j * 4)])) (begun (small [(5, ownVa)]))
      fun xs _ => xs == [[0], [0], [0], [0]]) = true ∧
    (runsTo ([0, 1].mapM fun j => atElem j (M.fieldsRead 4 j [(0xFFFFFFFFC003FFF8 : Word) + BitVec.ofNat 64 (j * 4)]))
      (begun (small [])) fun xs t => xs == [[0], [0]] &&
        raises (atElem 2 (M.fieldsRead 4 2 [(0xFFFFFFFFC003FFF8 : Word) + BitVec.ofNat 64 (2 * 4)])) t fun e _ => e.code == 7) = true := by
  decide +kernel

/-- v3 holds the indices 0 and 1, and then the index of a page that is not mapped; g5 a G-space address. -/
def gather : State :=
  mapped ((small [(5, memVa)]).setMe { (small [(5, memVa)]).me.writeV 3 (BitVec.ofNat 8192 (2 ^ 64 + 2 ^ 30 * 2 ^ 128)) with vl := 3 })

theorem witness_gathers : indexedTodo gather.me 3 0 = [0, 1, 2] ∧
    (∀ j ∈ [0, 1, 2], gather.outOfRange (indexAddr gather.me 5 3 8 j) 8 = false) ∧
    (runsTo ([0, 1, 2].mapM fun j => M.attemptElem false j (indexAddr gather.me 5 3 8 j) (M.elemRead (indexAddr gather.me 5 3 8 j) 8 j))
      (begun gather)
      fun rs _ => rs.map (fun r => match r with
        | .ok x => x
        | .error e => e.code + 100) == [0, 0, 104]) = true := by decide +kernel

/-- What a store of elements with these addresses notes for its slots. -/
def noteOf (addr : Nat → Word) : SlotNote := { addr, settled := some (0, 0), indexed := false, fault := none }

/-- The checks of a vector store of four words pass, and its writes go out. -/
def storesAt (va : Word) : Bool :=
  let addr := fun j => va + BitVec.ofNat 64 (j * 4)
  runsTo ([0, 1, 2, 3].mapM fun j => atElem j (M.fieldsRoute 4 j [(addr j, j)])) (begun (small [(5, va)]))
    fun rss s1 => decide (awayIn (batchesOf [0, 1, 2, 3] rss) ≤ 1024) &&
      runsTo (atElem 0 (M.storeBatches (addr 0) (noteOf addr) (batchesOf [0, 1, 2, 3] rss))) s1 fun b _ => b == false

/-- The writes of that store meet what `StoreMessages` asks of them. -/
def batchesAt (va : Word) : Bool :=
  runsTo ([0, 1, 2, 3].mapM fun j => M.fieldsRoute 4 j [(va + BitVec.ofNat 64 (j * 4), j)]) (small [(5, va)])
    fun rss s1 =>
      let bs := batchesOf [0, 1, 2, 3] rss
      let here := (bs.map (·.route.hereCells)).flatten
      !(s1.slottedNow && bs.any (·.route.isLocal)) && runsTo (M.clearOf here) s1 (fun _ t => t == s1) &&
      runsTo (M.takeLines here) s1 fun _ s2 => decide (s1.me.usc + awayIn bs ≤ 1024) && runsTo (bs.forM M.sendBatch) s2 fun _ _ => true

/-- A vector store to the own scratchpad, and one to another core's in one message. -/
theorem witness_vector_stores : storesAt ownVa = true ∧ storesAt farVa = true := by decide +kernel

theorem witness_batches : batchesAt ownVa = true ∧ batchesAt farVa = true := by decide +kernel

/-- The fields of an element that go to one home are one run. -/
theorem witness_runs : joinRuns [.away (some 1) 1 {} [(0, 5)], .away (some 1) 1 {} [(1, 6)]] = [.away (some 1) 1 {} [(0, 5), (1, 6)]] := by
  decide

/-- A reduction for each of four indices 0. -/
theorem witness_vector_reductions :
    let s := mapped (small [(5, memVa)])
    (∀ j ∈ [0, 1, 2, 3], s.outOfRange (indexAddr s.me 5 3 8 j) 8 = false) ∧ s.readBusy s.cur = false ∧
    (runsTo ([0, 1, 2, 3].mapM fun j => atElem j (M.redElem .w64 (indexAddr s.me 5 3 8) 2 s.me j)) (begun s) fun es s1 =>
      runsTo (atElem 0 (M.sendReds .add .w64 true memVa (noteOf (indexAddr s.me 5 3 8)) (groupReds 8 ([0, 1, 2, 3].zip es)))) s1
        fun b _ => b == false) = true := by
  decide +kernel

/-- A weight region 0 that is declared for twin stores: [0x100000, 0x200000) of 16 rows and 16 columns, with its twin behind it,
and a STAGING slot of version 5 (15 R371, R382). -/
def staged : State :=
  let s := mapped (small [(5, memVa)])
  let s := s.writePa 0x200100 8 0x100000
  let s := s.writePa 0x200108 8 0x100000
  let s := s.writePa 0x200110 8 0x400000
  let s := s.writePa 0x200118 4 16
  let s := s.writePa 0x20011C 4 16
  let s := s.writePa 0x200120 1 11
  let s := s.writePa 0x200124 1 1
  s.writePa 0x200128 4 5

theorem witness_declared : staged.declared 1 0 = true ∧ slotIn staged 1 0 1 = some 0 ∧ staged.slotVer 1 0 0 = 5 ∧
    staged.declared 1 1 = false ∧ slotIn staged 1 0 0 = some 1 ∧ slotIn staged 1 0 2 = none := by decide +kernel

/-- AMOs at memory, at the own scratchpad and at another core's. -/
theorem witness_atomics :
    (runsTo (M.check (mapped (small [])).myAgent .amo memVa 8 false 0) (mapped (small [])) fun p s1 =>
      p == .mem 0x40000 0 { va := 0x100000 } none && s1.me.usc == 0 && !s1.anyBusy s1.cur && !s1.readBusy s1.cur && !s1.inFlight s1.cur 0x40000 8 &&
        runsTo (M.exchange 0x40000 2 2) s1 fun _ _ => true) = true ∧
    (runsTo (M.check (small []).myAgent .amo ownVa 8 false 0) (small []) fun p s1 =>
      p == .carve 0 64 && !s1.pairBusy s1.myCoreNo s1.myCoreNo) = true ∧
    (runsTo (M.check (small []).myAgent .amo farVa 8 false 0) (small []) fun p s1 => p == .carve 1 64 &&
      runsTo (M.send (some 1) 1 (.amo .add .w64 1 (scratchKey 1 64) farVa 1 0 5) false) s1 fun _ _ => true) = true := by
  decide +kernel

/-- REDs at memory and at another core's scratchpad. -/
theorem witness_reductions :
    (runsTo (M.check (mapped (small [])).myAgent .red memVa 8 false 0) (mapped (small [])) fun p s1 =>
      p == .mem 0x40000 0 { va := 0x100000 } none && !s1.readBusy s1.cur && decide (s1.me.usc < 1024) &&
        runsTo (M.send none (destOfKey 0x40000) (.red .add .w64 0x40000 5) true true) s1 fun _ _ => true) = true ∧
    (runsTo (M.check (small []).myAgent .red farVa 8 false 0) (small []) fun p s1 => p == .carve 1 64 && !s1.slottedNow &&
        runsTo (M.send (some 1) 1 (.red .add .w64 (scratchKey 1 64) 5) true false) s1 fun _ _ => true) = true := by
  decide +kernel

theorem witness_memory_operations : (small []).isPoisoned 64 8 = false ∧
    ({ small [] with poisoned := [64] } : State).isPoisoned 64 8 = true := by decide +kernel

/-- Barriers whose arrivals have reached their target, with nothing to count and with something. -/
theorem witness_firing :
    let s := (small []).setBarrier 0 5 { target := 2, arr := 2 }
    let u := (small []).setBarrier 0 5 { target := 2, arr := 2, count := 4096 }
    (s.barrierHome 0 5 = 0 ∧ (s.barrierOf 0 5).target ≤ (s.barrierOf 0 5).arr ∧ (s.barrierOf 0 5).count = 0) ∧
    ¬(u.barrierOf 0 5).count = 0 ∧ 2 ^ 32 - 1 < (u.barrierOf 0 5).count + (2 ^ 32 : Nat) ∧
    (u.barrierOf 0 5).count + (64 : Nat) ≤ 2 ^ 32 - 1 := by decide +kernel

theorem witness_binit : (small [(2, binitWord 5 4 0 false)]).me.readG 2 = binitWord 5 4 0 false ∧
    ((small []).setMyCore { coreOf with domains := [(2, [0, 1])] }).domainOf 0 2 ≠ [] := by decide +kernel

/-- Arrivals and expectations go out; the counts can be read where the home is resident. -/
theorem witness_barriers : (small []).uncountedBusy (small []).cur = false ∧ (small []).readBusy (small []).cur = false ∧
    (small []).pairBusy (small []).myCoreNo ((small []).barrierHome (small []).myCoreNo 5) = false ∧
    (runsTo (M.send (some 0) 0 (.arrive 5 1) false) (small []) fun _ _ => true) = true ∧
    (runsTo (M.send (some 0) 0 (.expect 5 4096 true (some 3)) false) (small []) fun _ _ => true) = true := by decide +kernel

/-- A domain of two rows and two columns whose members' clusters are in the partition's mask, and the list of two cores. -/
theorem witness_domains : (small []).myPart = some 1 ∧
    (small [(2, BitVec.ofNat 64 (0 + 1 * 2 ^ 16 + 1 * 2 ^ 20))]).me.readG 2 = 0x110000 ∧ (0 : Nat) ∈ rectCores 0 2 2 ∧
    (∀ m ∈ rectCores 0 2 2, ((small []).partAt 1).mask.getLsbD (clusterOf m) = true) ∧
    (let s := (small []).writeCells [(scratchKey 0 64, 2), (scratchKey 0 68, 1)]
     runsTo (M.halfword ownVa 0) s fun n s1 => n == 2 &&
       runsTo ((List.range 2).mapM fun i => M.halfword ownVa (i + 1)) s1 fun ms s2 => ms == [0, 1] &&
         decide (s2.myCoreNo ∈ ms) && s2.myPart == some 1) = true := by decide +kernel

/-- An event line and a mutex line at hand. -/
theorem witness_lines :
    (runsTo (M.lineOf false .load 0xFFFFFFFF80000040) (mapped (small [])) fun l s1 => l == 1 && s1.me == (mapped (small [])).me)
      = true ∧
    (runsTo (M.lineOf false .store 0xFFFFFFFF80000040) (mapped (small [])) fun l s1 => l == 1 && !s1.readBusy s1.cur && !s1.uncountedBusy s1.cur &&
      s1.me == (mapped (small [])).me && runsTo (M.send (some 1) 1 (.evsig 1 3 true) false) s1 fun _ _ => true) = true ∧
    (runsTo (M.lineOf true .amo 0xFFFFFFFF80001040) (mapped (small [])) fun l s1 => l == 0x200001 &&
      s1.me == (mapped (small [])).me && !s1.readBusy s1.cur && !s1.uncountedBusy s1.cur && mutexNext (s1.lineWord l) == mutexServe (s1.lineWord l)) = true := by
  decide +kernel

/-- A mutex line that another strand owns has a ticket to draw; a ticket in hand has bit 63 set. -/
theorem witness_tickets : mutexNext (mutexWord 2 1 9) ≠ mutexServe (mutexWord 2 1 9) ∧
    (0x8000000000000001 : Word).getLsbD 63 = true ∧ (0 : Word).getLsbD 63 = false := by decide

/-- v1 holds the address of the own scratchpad's byte 64 in two elements. -/
def waits : State := (small []).setMe { (small []).me.writeV 1 (BitVec.ofNat 8192 (ownVa.toNat * (1 + 2 ^ 64))) with vl := 2 }

theorem witness_waitv : waitElems waits 0 = [0, 1] ∧
    (runsTo ([0, 1].mapM fun e => M.waitPlace (waitAddr waits 1 e) e) waits fun ps s1 => ps == [.carve 0 64, .carve 0 64] &&
      s1.me == waits.me && runsTo (M.read (.carve 0 64) 8) s1 fun x t => x == (0, false) && t == s1) = true := by decide +kernel

theorem witness_fences : (small []).readBusy 0 = false ∧ (small []).anyBusy 0 = false ∧ (small []).writeBusy 0 = false ∧ (small []).me.usc = 0 ∧
    ((small []).setMe { (small []).me with usc := 1 }).me.usc ≠ 0 := by decide +kernel

/-- The tile file can be claimed, a tile of it read, and rows of a tile loaded and stored. -/
theorem witness_tiles : tileFree (small []) 1 true = true ∧
    (runsTo M.claim (small []) fun _ s1 => s1.me == (small []).me) = true ∧
    (let s := (small [(5, ownVa)]).setMyCore { coreOf with tiles := { valid := true, cid := 7, slot := 0, part := some 1 } }
     s.ownsFile s.myCoreNo s.mySlotNo = true ∧
     (runsTo (M.readTile 1) s fun x s1 => x == 0 && s1.me == s.me &&
       (runsTo ((List.range 2).mapM (M.rowLoad ownVa 1024)) s1 fun rows _ => rows == [0, 0]) &&
       runsTo ((List.range 2).mapM (M.rowPlaces ownVa 1024)) s1 fun rows s2 =>
         runsTo (M.storeBatches ownVa { addr := rowAddr ownVa 1024, settled := none, indexed := false, fault := none }
           (groupRoutes (rows.zipIdx.map fun r => (r.2, s2.rowRoutes x r.2 r.1)))) s2 fun b _ => b == false) = true ∧
     (runsTo (M.spill s.myCoreNo (List.range 8)) s fun _ s1 => s1.myCoreNo == s.myCoreNo) = true ∧
     (runsTo ((List.range 8).mapM M.readTile) s fun _ _ => true) = true ∧
     ownVa.toNat % 64 = 0 ∧ (1024 : Word).toNat % 64 = 0) ∧
    (small []).ownsFile 0 0 = false := by decide +kernel

/-- Zero products set no flag, so no trap. -/
theorem witness_outer : ∀ r < 2, ∀ j < 2, (small []).me.trapEnables &&& (outer (small []) 1 2 0 r j).2 = 0 := by decide +kernel

/-- The state `staged` with its page in region 0, and with the lines of its stores in the own slice. -/
def twins : State :=
  { staged.writePa 0x2000 8 0x800000000000DF with
    tlb := [{ core := 0, cid := 7, base := 0, size := 2 ^ 30, leaf := 0x800000000000DF, glob := false }]
    slices := [4096, 8192, 8193].map fun line => { core := 0, line, state := .modified } }

/-- Both writes of a twin store pass their checks. -/
theorem witness_twins : (runsTo ([0, 1].mapM fun j => atElem j (M.twinElem 2 5 4 twins.me j)) (begun twins)
    fun ts s1 => ts.map (fun t => t.streams.length) == [2, 2] && ts.all (fun t => t.fault.isNone) &&
      runsTo (atElem 0 (M.storeBatches memVa (noteOf (fun j => memVa + BitVec.ofNat 64 (j * 4))) (groupStreams ([0, 1].zip ts)))) s1
        fun b _ => b == false) = true := by
  decide +kernel

/-- A lease of one tray, one region and one command of budget, granted to slot 0. -/
def lease1 : Lease :=
  { slot := 0, part := some 1, request := leaseRequest 1 1 1 0 false, save := memVa, pages := [], prio := 0, issued := 0, status := .granted, left := 1 }

/-- The state whose strand holds that lease and the tile file. -/
def leasing (gs : List (Reg × Word)) : State :=
  let tiles : TileFile := { valid := true, cid := 7, slot := 0, part := some 1 }
  mapped (stateOf (strandOf gs) { coreOf with leases := [lease1], tiles := tiles })

theorem witness_requests : reqGood 0 = false ∧ GoodRequest 1 1 1 0 false ∧ GoodRequest 40 1 8 255 false ∧
    2097152 < 8 * 64 * (256 * 40 / 1) ∧ leased (leasing []) = true ∧ leased (small []) = false ∧
    (runsTo (M.saveArea memVa (4096 + 64 * 256 + 65536)) (mapped (small [(3, memVa)])) fun ps s1 => ps.length == 21 &&
      s1.me.readG 3 == memVa && s1.myCore.leases == [] && s1.fits (clusterOf 0) (leaseRequest 1 1 1 0 false)) = true := by
  unfold GoodRequest; decide +kernel

theorem witness_under : Under (leasing []) lease1 := by unfold Under; decide +kernel

/-- Commands within the lease's one column block and one region, and a region and a block outside. -/
theorem witness_mill_checks :
    (runsTo (M.mmaChecks lease1 0 0 4 true) (leasing []) fun x t => x == (0, 1) && t == leasing []) = true ∧
    (raises (M.mmaChecks lease1 1 0 4 true) (leasing []) fun e _ => e.info == 0x403) = true ∧
    (raises (M.blocks lease1 1 4) (leasing []) fun e _ => e.info == 0x404) = true ∧
    (raises (M.lease 4) (small []) fun e _ => e.info == 0x401) = true := by decide +kernel

/-- MFMT of FP32 words; MMA, MMAS, MDRAIN and MCHAIN on region 0, block 0. -/
theorem witness_mill_commands : fmtGood (leasing []).me 0 = true ∧ (0 : Nat) < reqRegions lease1.request ∧
    (0 : Nat) < reqCols lease1.request / 256 ∧ rowsAt memVa 1024 4 4 ∧
    (runsTo (M.readTile 1) (leasing []) fun _ s1 =>
      runsTo (M.versionCheck lease1 (blockTrays lease1.request 0 1)) s1 fun _ t => t == s1) = true ∧
    (runsTo (M.blocks lease1 0 7) (leasing []) fun x t => x == (0, 1) && t == leasing []) = true ∧
    1 * 256 * ((leasing []).myCore.issueFmt lease1).drain.2 ≤ 1024 ∧ (runsTo M.claim (leasing []) fun _ _ => true) = true := by
  unfold rowsAt; decide +kernel

/-- The descriptor of a plant of one tray from memory at 0x110000, at 0x100000. -/
def planting : State := ((leasing [(2, memVa), (3, 0x100)]).writePa 0x100000 8 0x110000).writePa 0x100010 8 (16 + 16 * 2 ^ 32)

/-- That plant. -/
def plantArgs : PlantArgs :=
  { src := 0x110000, pitch := 0, kv := 16, nv := 16, aux := 0, t0 := 0, nt := 1, tile := false, tag := .none, slotNo := 0,
    mode := .user, adopted := none }

theorem witness_plants : 0 + 1 ≤ reqTrays lease1.request ∧ (planting.me.readG 3).toNat / 256 % 64 = 1 ∧
    (runsTo (do return (← M.descWord memVa 0, ← M.descWord memVa 1, ← M.descWord memVa 2, ← M.descWord memVa 3)) planting
      fun x s1 => x == (0x110000, 0, 16 + 16 * 2 ^ 32, 0) && runsTo (M.plantTag plantArgs
        lease1.request 4) s1 fun _ _ => true) = true ∧
    16 ≤ reqRows lease1.request ∧ 16 ≤ reqCols lease1.request := by decide +kernel

/-- Cells of two groups: 3 * 1.0 and an infinity. -/
theorem witness_groups : (PanelGroup.at { exp := 0, cells := [(0, .num false 3)] } 0).1 = .num false 3 ∧
    (PanelGroup.at { exp := 0, cells := [(0, .nan)] } 0).1 = .nan ∧
    (PanelGroup.at { exp := 0, cells := [(0, .inf false), (1, .inf true)] } 1).1 = .inf true ∧
    (PanelGroup.at { exp := 0, cells := [(0, .num false 1)] } 0).1 = .num false 1 := by decide +kernel

/-- A command at the head of a mill queue under a granted lease; a request that contends alone; a lease whose budget is spent. -/
theorem witness_mill_events :
    let cmd : MillCmd := { op := .mzero 0, slot := 0, seq := 0, mode := .user, part := some 1, adopted := none }
    let s := stateOf (strandOf []) { coreOf with leases := [lease1], q3 := [cmd] }
    let u := stateOf { strandOf [] with cond := .lease 5 } { coreOf with leases := [{ lease1 with status := .contending }] }
    ((s.coreAt 0).held = some lease1 ∧ (s.coreAt 0).halt = none ∧ (s.coreAt 0).q3 = [cmd] ∧ lease1.spent s.cycles = false ∧
      s.allPerformed cmd.after = true) ∧
    (runsTo (M.asStrand 0 (M.millStep 0 lease1 cmd)) s fun b _ => b) = true ∧
    u.contenders 0 = [(0, { lease1 with status := .contending })] ∧ u.fits 0 lease1.request = true ∧
    (u.strandAt 0).cond = .lease 5 ∧ ({ lease1 with left := 0 } : Lease).spent s.cycles = true := by decide +kernel

/-- An MMA whose operand row lies in a page that is not mapped halts its queue; a landing row waits for its register. -/
theorem witness_mill_halt :
    let cmd : MillCmd := { op := .mmas 0 (2 ^ 40) 0 0 1 1 false false, slot := 0, seq := 0, mode := .user, part := some 1, adopted := none }
    (raises (M.asStrand 0 (M.millStep 0 lease1 cmd)) (stateOf (strandOf []) { coreOf with leases := [lease1], q3 := [cmd] })
      fun e _ => e.code == 4) = true ∧ cmd.dead = false ∧
    ((stateOf { strandOf [] with vland := [(3, 7)] } coreOf).strandAt 0).vland = [(3, 7)] := by decide +kernel

/-- A linear copy of 64 bytes is a good request; a request of kind 0 is not. -/
theorem witness_requests_of_queues :
    let s := small [(4, copyWord 1 0 0 64 false), (5, memVa), (6, memVa)]
    requestGood s.domain (s.me.readG 4) (s.me.readG 7) = true ∧ requestGood s.domain 0 0 = false ∧
    (s.myCore.queues[queueOf (s.me.readG 4)]).length < 16 ∧
    16 ≤ ((stateOf s.me { coreOf with queues := #v[List.replicate 16 {}, [], []] }).myCore.queues[queueOf (s.me.readG 4)]).length := by
  decide +kernel

/-- Entries of the strand in q0 and q3, and none. -/
theorem witness_qfence :
    (∃ e ∈ (stateOf (strandOf []) { coreOf with queues := #v[[{ slot := 0 }], [], []] }).myCore.queues.toList.getD 0 [],
      e.slot = (small []).mySlotNo) ∧ (1 : BitVec 4).getLsbD 0 = true ∧ (0 : BitVec 4).getLsbD 0 = false := by decide +kernel

/-- A gang cast of 64 bytes from the own scratchpad to member 1 of a gang of two. -/
theorem witness_gcast :
    let s := stateOf { strandOf [(4, ownVa), (5, 64), (6, 2)] with kind := .gang, gang := 3, sizem1 := 1 } coreOf
    (s.me.readG 5).extractLsb' 48 16 = 0 ∧ (s.me.readG 5).extractLsb' 43 4 = 0 ∧ s.me.gang ≠ 0xFFFF ∧
    (s.me.readG 6).toNat < 2 ^ (s.me.sizem1 + 1) ∧ spaceOf (s.me.readG 4) = .scratch ∧ localCore (s.me.readG 4) = s.myCoreNo ∧
    localOff (s.me.readG 4) + 64 ≤ 2 ^ 20 ∧ (s.myCore.queues[0]).length < 16 := by decide +kernel

/-- A collective over one row of region 0: kind 0x11, queue 2, 1,024 bytes. -/
theorem witness_mcoll : ∃ c3 : Word,
    let c0 : Word := 0x1120000000000400
    (c0.extractLsb' 56 8 = 0x10 ∨ c0.extractLsb' 56 8 = 0x11) ∧ c0.extractLsb' 52 4 = 2 ∧
    (c0.extractLsb' 0 32).toNat = 1 * reqCols lease1.request * ((leasing []).myCore.issueFmt lease1).drain.2 ∧
    requestGood (leasing []).domain c0 c3 = true := ⟨0x3000, by decide +kernel⟩

/-- An entry of q0 at its head: a copy of 64 bytes within G-space, with register 9 as its token. -/
def entry1 : QEntry :=
  let s := mapped (small [])
  s.newEntry (copyWord 1 0 0 64 false) memVa 0x110000 0 9 none

/-- The state where that entry stands at the head of q0. -/
def queueing (e : QEntry) : State :=
  mapped (stateOf ((strandOf []).setMark 9 (.waiting .token)) { coreOf with queues := #v[[e], [], []] })

/-- The head's next chunk is performed, and one from a page that is not mapped fails. -/
theorem witness_queue_events :
    ((queueing entry1).coreAt 0).queueAt 0 = [entry1] ∧ entry1.isColl = false ∧ entry1.status = none ∧
    (queueing entry1).allPerformed entry1.after = true ∧
    (let x := (queueing entry1).settle 0 0 entry1
     x.2.status = none ∧ runsTo (M.chunkStep 0 x.2) x.1 (fun _ _ => true) = true) ∧
    (let x := (queueing { entry1 with w1 := 2 ^ 40 }).settle 0 0 { entry1 with w1 := 2 ^ 40 }
     raises (M.chunkStep 0 x.2) x.1 (fun e _ => e.code == 4) = true) ∧
    ((queueing entry1).settle 0 0 { entry1 with status := some 0 }).2.status = some 0 ∧
    entry1.token ≠ 0 ∧ ((queueing entry1).strandAt 0).kind ≠ .supervisor ∧
    ((queueing entry1).strandAt 0).mark entry1.token = .waiting .token := by decide +kernel

/-- A chunk of that entry has one piece, with a destination in G-space. -/
theorem witness_chunks : entry1.nextChunk.1.map (fun p => (p.n, p.dst)) = [(64, some 0x110000)] := by decide +kernel

/-- The head of q2: a barrier of no group, and a collective of one member. -/
theorem witness_collectives :
    let e : QEntry := { w0 := 0x1120000000000400, w3 := 0x3000 }
    let g : CollGroup := { gang := none, cores := [0], rank := 0, count := 1 }
    let s := stateOf (strandOf []) { coreOf with queues := #v[[], [], [e]] }
    let u := stateOf (strandOf []) { coreOf with queues := #v[[], [], [{ e with coll := some g }]] }
    let m : Member := { core := 0, queue := 2, entry := e }
    let n : Member := { m with entry := { e with coll := some g } }
    ((clusterCores 0).map fun c => (s.coreAt c).collectives c).flatten.filter (fun m => m.entry.isColl && m.entry.status.isNone) = [m] ∧
    m.entry.coll = none ∧ s.membersReady [m] = true ∧
    ((clusterCores 0).map fun c => (u.coreAt c).collectives c).flatten.filter (fun m => m.entry.isColl && m.entry.status.isNone) = [n] ∧
    u.members n.entry = some [n] ∧ u.membersReady [n] = true := by decide +kernel

/-- A seed record of priority 5, and one of priority 12; a nest record of one dimension, and one of none (12 R309, R314). -/
theorem witness_records :
    let near := fun (s : State) => { s with l1 := [(0, 4096), (0, 4097)] }
    let s := near (mapped (small []))
    let seed := near (s.writePa 0x100038 4 5)
    let bad := near (s.writePa 0x100038 4 12)
    let nest := near (s.writePa 0x100010 4 0x100)
    (runsTo (M.readRecord memVa 64) seed fun bs s1 => seedGood bs && seedPrio bs == 5 && s1.myCore.csrs == seed.myCore.csrs) = true ∧
    (runsTo (M.readRecord memVa 64) bad fun bs _ => !seedGood bs) = true ∧
    (runsTo (M.readRecord memVa 128) nest fun bs s1 => nestGood bs && decide ((s1.partAt 1).nests.length < 8) &&
      s1.myCore.csrs == nest.myCore.csrs) = true ∧
    (runsTo (M.readRecord memVa 128) s fun bs _ => !nestGood bs) = true ∧
    8 ≤ ({ (s.partAt 1) with nests := List.replicate 8 (nestOf [] 0 []) } : Partition).nests.length := by decide +kernel

/-- A partition's free list with one block, and without. -/
theorem witness_seed_queues :
    let x : Seed := seedOf [] 5 []
    let s := (small []).writePa 0x300000 8 0x310000
    ((small []).enqueueSeed 1 x).isNone = true ∧ (s.enqueueSeed 1 x).isSome = true ∧ x.prio < 12 ∧
    ((s.enqueueSeed 1 x).any fun t => (t.dequeueSeed 1 5).isSome) = true := by decide +kernel

theorem witness_seed_ends : PartClear (small []) 1 [1, 2, 10, 11, 12, 13] [9] ∧ Idle (small []) ∧ (small []).me.kind ≠ .gang ∧
    (small []).me.harvest = 0 ∧ (stateOf { strandOf [] with kind := .gang } coreOf).me.kind = .gang ∧
    (let s := (mapped (stateOf { strandOf [] with harvest := memVa } coreOf)).writePa 0x100000 4 2
     s.me.harvest ≠ 0 ∧ (runsTo (M.harvest 1 s.me.harvest) s fun _ s1 => !leased s1) = true) := by
  unfold PartClear Idle Clear; decide +kernel

theorem witness_nests : let x := { nestOf [] 0 [] with dims := [(10, 3, 10), (0, 2, -1)] }
    x.order ≤ 1 ∧ x.extents.foldl (· * ·) 1 = 6 ∧ x.position 6 = none := by decide +kernel

/-- A slot that is idle, and a seed at the head of queue 5. -/
theorem witness_dispatch :
    let s0 := (stateOf {} { coreOf with slots := #v[{ state := .seedIdle, top := 0x8000 }, {}, {}, {}] }).writePa 0x300000 8 0x310000
    ((s0.enqueueSeed 1 (seedOf [] 5 [])).any fun s => s.mayDispatch 0 && ((chooseContender (s.seedContenders 1)).any fun x =>
      ((s.takeContender 1 x).any fun y => !y.2.adopt))) = true := by decide +kernel

/-- The slots 4 and 5 of 256 ticks; the present tick lies in slot 1, and in slot 4 (the case of 14 R369). -/
theorem witness_slots :
    let c : CtxCsrs := { coreOf.csrs with slotper := 0x10008, slotmap := 0x30 }
    let s := { stateOf (strandOf []) { coreOf with csrs := c } with gtime := 0x10005 }
    let owned := fun (tick : Nat) => s.myCore.csrs.slotmap.getLsbD (tick / 2 ^ (s.myCore.csrs.slotper.toNat % 16 - 6) % 64)
    s.myCore.csrs.slotper.getLsbD 16 = true ∧ owned 0x10005 = false ∧ owned 0x10010 = true ∧ owned 0x1000C = false ∧
    ({ s with strands := [(0, { strandOf [] with cond := .asleep (.slotwait 14 0x10005) })] } : State).strandAt 0 =
      { strandOf [] with cond := .asleep (.slotwait 14 0x10005) } := by decide +kernel

/-- Nothing stands in the way of a version table where no message is in flight and no byte is poisoned. -/
theorem tableClear_of_quiet {s : State} (h : s.net = []) (hp : s.poisoned = []) (p off n : Nat) : TableClear s p off n := by
  intro i _ key _
  simp [h, hp]

theorem witness_tables : TableClear staged 1 0 0x4100 ∧ TableClear staged 1 0x100 64 :=
  ⟨tableClear_of_quiet rfl rfl 1 0 0x4100, tableClear_of_quiet rfl rfl 1 0x100 64⟩

/-- A version table that is no bare one, one that is, and an adoption entry for its version. -/
theorem witness_versions : PartClear staged 1 [] [14] ∧ staged.verField 1 4 4 % 2 = 0 ∧
    (staged.writePa 0x200004 4 1).verField 1 4 4 % 2 = 1 ∧ adoptionEntry staged 1 5 = some 0 ∧
    (staged.me.adopted.isSome = false) ∧ staged.readBusy staged.cur = false ∧
    staged.myCore.hasEntries staged.mySlotNo (isSup staged) 15 = false := by unfold PartClear Clear; decide +kernel

theorem witness_settled : Settled staged := by unfold Settled; decide +kernel

/-- A region that is published, and read at version 5 and at version 4. -/
theorem witness_resolution :
    let s := staged.writePa 0x200124 1 2
    let a := { s.myAgent with adopted := some 5 }
    let q := { a with noted := some [{ region := 0, write := false, slotNo := 0, state := 2 }] }
    (s.resolve q .load 0).toOption = some 0 ∧ s.slotState 1 0 0 = 2 ∧
    a.part = some 1 ∧ s.declared 1 0 = true ∧ slotIn s 1 0 2 = some 0 ∧ (s.resolve a .load 0).toOption = some 0 ∧
    (∀ j < 4, 2 ≤ s.slotState 1 0 j → 4 < s.slotVer 1 0 j) := by decide +kernel

/-- A timetable of no entries at 0x100000, and one whose reserved bytes are not zero. -/
theorem witness_timetables :
    let s := mapped (small [(2, memVa)])
    (s.me.readG 2).toNat % 32 = 0 ∧ s.me.readG 2 ≠ 0 ∧ s.anyBusy s.cur = false ∧ (s.partAt 1).tier.active = false ∧
    (runsTo (M.ttRead s.myAgent memVa) s fun r _ => match r with
      | .ok es => es == []
      | .error _ => false) = true ∧
    (runsTo (M.ttRead s.myAgent memVa) (s.writePa 0x10000E 1 1) fun r _ => match r with
      | .ok _ => false
      | .error w => w == 1) = true := by decide +kernel

/-- A hard entry that MARK 3 waits for. -/
def entryAt3 : TtEntry := { marker := 3, action := 3, tier := 0, base := 0, length := 0, flags := 0 }

/-- A state with a timetable of that entry. -/
def timetable (e : TtEntry) : State :=
  let s := mapped (small [])
  s.setPart 1 { s.partAt 1 with tier := { active := true, header := memVa, latest := 3, entries := [e], cid := 7, ptbase := 0x1001 } }

theorem witness_marks : dueEntries ((timetable entryAt3).partAt 1).tier 3 = [(entryAt3, 0)] ∧
    dueEntries ((timetable entryAt3).partAt 1).tier 2 = [] ∧ entryAt3.state ≠ .failed ∧
    ({ entryAt3 with state := .failed } : TtEntry).state = .failed := by decide +kernel

/-- That entry is ready and begins; with another kernel in its record it fails; in flight it is met. -/
theorem witness_entries :
    let s := timetable entryAt3
    let t := (s.partAt 1).tier
    t.entries[0]? = some entryAt3 ∧ s.ttReady t 1 0 = true ∧
    (runsTo (M.ttBegin t 1 0) (((s.writePa 0x100020 4 3).writePa 0x100026 1 3)) fun e _ => e.state == .inFlight) = true ∧
    (raises (M.ttBegin t 1 0) (s.writePa 0x100024 1 1) fun e _ => e.code == 1) = true ∧
    (∀ y ∈ (timetable { entryAt3 with state := .inFlight }).ttBefore t 1 0, y.state = .met) := by decide +kernel

/-- A fetch to the rim cache of 64 bytes, which its first page ends. -/
theorem witness_fetches :
    let e : TtEntry := { entryAt3 with action := 0, tier := 1, base := memVa, length := 64, state := .inFlight }
    let s := timetable e
    e.fetched < e.length.toNat ∧ (s.prefRange ((s.partAt 1).tier.agent 1) false .rim 1 memVa 64).2 = true ∧
    ((s.coreAt (s.partAt 1).tier.core).departed.find? fun d => d.cid == 7 && d.part == 1) = none := by decide +kernel

/-- A copy in flight goes on where its tier is G-space; where its tier is a scratchpad it fails. -/
theorem witness_tier_copies :
    let q := { entry1 with token := 0 }
    let e : TtEntry := { entryAt3 with action := 0, tier := 1, state := .inFlight, copy := some q }
    let s := timetable e
    s.allPerformed q.after = true ∧ (s.settleEntry 0 q).2.status = none ∧
    (let u := withEntry (s.settleEntry 0 q).1 1 0 { e with copy := some (s.settleEntry 0 q).2 }
     (runsTo (M.ttChunk 0 0 1 (s.settleEntry 0 q).2) u fun _ _ => true) = true ∧
       (raises (M.ttChunk 0 0 0 (s.settleEntry 0 q).2) u fun x _ => x.code == 1) = true) := by decide +kernel

theorem witness_ranges : (0x100000 : Word) ≠ 0 ∧ memVa.toNat + (4096 : Word).toNat ≤ 0x0000FFFF80000000 ∧
    ¬(0x0000FFFF7FFFF000 : Word).toNat + (8192 : Word).toNat ≤ 0x0000FFFF80000000 ∧ (small []).me.mode = .user ∧
    (runsTo (M.flushPages (mapped (small [])).myAgent .writeBack 3 memVa 4096) (mapped (small [])) fun _ _ => true) = true ∧
    ((mapped (small [])).prefPlace (mapped (small [])).myAgent memVa).2.isSome = true := by decide +kernel

/-- A line in the own slice that has newer data than its home. -/
theorem witness_flushes : let s := (mapped (small [])).storeOwn 0 { part := some 1, va := 0x100000 } [(0x40000, 5)]
    s.byteAt 0x40000 = 5 ∧ ((s.slices.filter (·.line == 0x1000)).findSome? (·.home)).map List.length = some 64 := by decide +kernel

/-- A heap descriptor at 0x100000 with one block of 64 bytes at 0x100400 (08 R236). -/
def heap : State :=
  let s := (mapped (small [(2, 64), (3, 0x100400)])).writePa 0x100000 8 0x100400
  s.setPart 1 { s.partAt 1 with heapbase := 0x100001 }

theorem witness_heap : heap.myCore.resident = true ∧
    (heap.partAt heap.myCore.part).heapbase.getLsbD 0 = true ∧ (heap.me.readG 2).toNat ≤ 2 ^ 20 ∧ 64 ≤ 64 * 2 ^ 0 ∧
    (heap.me.readG 3).toNat % (64 * 2 ^ 0) = 0 ∧ heap.me.usc = 0 ∧ heap.anyBusy heap.cur = false ∧
    (runsTo (M.heapRead memVa) heap fun old s1 => old == 0x100400 && runsTo (M.heapRead old) s1 fun next s2 =>
      runsTo (M.heapPlace .store memVa) s2 fun p s3 => runsTo (M.heapWrite p next) s3 fun _ _ => true) = true ∧
    (runsTo (M.heapRead memVa) heap fun old s1 => runsTo (M.heapPlace .store 0x100400) s1 fun pb s2 =>
      runsTo (M.heapPlace .store memVa) s2 fun ph s3 => runsTo (M.heapWrite pb old) s3 fun _ s4 =>
        runsTo (M.heapWrite ph 0x100400) s4 fun _ _ => true) = true ∧
    ((small []).partAt 1).heapbase.getLsbD 0 = false ∧ ((small []).partAt 1).alloctrap.getLsbD 0 = false := by decide +kernel

/-- Exceptions that are taken in user mode, in supervisor mode and in firmware mode. -/
theorem witness_exceptions :
    let t := { strandOf [] with utvec := 0x2001 }
    let c := { coreOf with csrs := { coreOf.csrs with sdeleg := 0x8000 } }
    TakenInUser t c { code := 0x0F } ∧ ¬TakenInUser t c { code := 0x04 } ∧
    ({ t with mode := .firmware } : Strand).mode = .firmware ∧ ¬TakenInUser { t with mode := .firmware } c { code := 0x0F } := by
  unfold TakenInUser; decide

/-- A strand in each mode; ERET in supervisor mode by a strand and by a supervisor strand. -/
theorem witness_modes :
    (small []).me.mode = .user ∧ (stateOf { strandOf [] with mode := .supervisor } coreOf).me.mode = .supervisor ∧
    (stateOf { strandOf [] with mode := .firmware, fstatus := 1 } coreOf).me.fstatus.toNat % 4 = Mode.supervisor.code ∧
    (stateOf { strandOf [] with mode := .firmware, fstatus := 1, fepc := 0x1002 } coreOf).me.fepc.toNat % 4 ≠ 0 ∧
    (let s := stateOf { strandOf [] with mode := .supervisor, kind := .supervisor } { coreOf with waiting0 := some (strandOf []) }
     s.me.kind = .supervisor ∧ s.myCore.pending.absent = none ∧ s.myCore.merging = false) ∧
    (small []).dbg ≠ 2 := by decide +kernel

/-- A user handler that has ended, and one that a CSR instruction ends. -/
theorem witness_user_return :
    let s := stateOf { strandOf [] with ucause := 0x400000000000000F } coreOf
    (s.strandAt 0).ucause.getLsbD 62 = true ∧ s.me.mode = .user ∧ (s.csrWrite 0x062 0).me.ucause.getLsbD 62 = false := by
  decide +kernel

/-- A CSR that is not assigned, one above the mode, one that is RO, and one that may be written. -/
theorem witness_csrs : Csr.assigned 0x002 = false ∧ Csr.assigned 0x100 = true ∧ Csr.readOnly 0x020 = true ∧
    Csr.assigned 0x061 = true ∧ Csr.readOnly 0x061 = false ∧ (0x061 : Nat) < 0x100 := by decide

/-- Words that no major and no function is assigned to. -/
theorem witness_unassigned : (0xE4000000#32).toNat / 2 ^ 26 = 0x39 ∧ unassignedReason 0x1D2900CC = some 1 := by decide

/-- A page invalidation under way, and one that waits for a message that has been performed. -/
theorem witness_tlb :
    let x : TlbInv := { core := 0, slot := 0, scope := .module, kind := .page memVa 7 }
    let s := { small [] with tlbinv := [x, { x with after := some [3] }] }
    s.tlbinv[0]? = some x ∧ x.after = none ∧ s.tlbinv[1]? = some { x with after := some [3] } ∧
      s.net ++ s.spilled = [] := by decide +kernel

/-- A message of strand 0 to the scratchpad of core 0. -/
def message (body : MsgBody) : Msg := { sender := { core := 0, slot := 0, cid := 7, part := some 1 }, home := some 0, dest := 0, body }

/-- The state with that message in the network. -/
def sending (body : MsgBody) (t : Strand) : State := { stateOf t coreOf with net := [message body] }

theorem witness_messages :
    let store := message (.store [(scratchKey 0 64, 5)])
    let s := sending store.body (strandOf [])
    let wait := (strandOf []).setMark 5 (.waiting .load)
    let load := message (.load (scratchKey 0 64) 8 false 5 false)
    let amo := message (.amo .add .w64 1 (scratchKey 0 64) ownVa 1 0 5)
    let acq := { strandOf [] with cond := .acquire 5 }
    Arrives s 0 store false ∧ Received s store ∧ (∀ c ∈ [(scratchKey 0 64, (5 : Byte))], InCarve s store c.1 1) ∧
    InCarve s (message (.red .add .w64 (scratchKey 0 64) 1)) (scratchKey 0 64) 8 ∧
    Arrives { s with net := [{ store with refused := true }] } 0 { store with refused := true } true ∧
    Arrives (sending load.body wait) 0 load false ∧ AtSender (sending load.body wait) load ∧
    ((sending load.body wait).strandAt 0).mark 5 = .waiting .load ∧ ((sending load.body wait).strandAt 0).cond ≠ .acquire 5 ∧
    Arrives (sending amo.body acq) 0 amo false ∧ AtSender (sending amo.body acq) amo ∧
    ((sending amo.body acq).strandAt 0).cond = .acquire 5 := by
  refine ⟨?_, ?_, ?_, ?_, ?_, ?_, ?_, ?_, ?_, ?_, ?_, ?_⟩
  · unfold Arrives; decide +kernel
  · exact .inr ⟨0, by decide +kernel, by decide +kernel⟩
  · intro c hc h e
    cases e
    revert c
    decide +kernel
  · intro h e
    cases e
    decide +kernel
  · unfold Arrives; decide +kernel
  · unfold Arrives; decide +kernel
  · unfold AtSender; decide +kernel
  · decide +kernel
  · decide +kernel
  · unfold Arrives; decide +kernel
  · unfold AtSender; decide +kernel
  · decide +kernel

/-- Messages of barriers and lines at core 0, whose barriers are homed there; an acknowledgement. -/
theorem witness_units :
    let s := sending (.arrive 5 1) { strandOf [] with cond := .bexp 9 8 none }
    Arrives s 0 (message (.arrive 5 1)) false ∧ s.isHome 0 (some 1) = true ∧ s.barrierHome 0 5 = 0 ∧
    (s.strandAt 0).cond = .bexp 9 8 none ∧ AtSender s (message (.arrive 5 1)) ∧
    ({ s with acks := [(message (.arrive 5 1)).sender] } : State).acks[0]? = some (message (.arrive 5 1)).sender := by
  unfold Arrives AtSender; decide +kernel

/-- Strands that wait for a reply, or sleep at a barrier, an event line or a mutex line. -/
theorem witness_wakes :
    (∀ r ∈ [BexpReply.phase true, .overflow, .discarded],
      ((stateOf { strandOf [] with cond := .bexp 9 8 (some r) } coreOf).strandAt 0).cond = .bexp 9 8 (some r)) ∧
    ((stateOf { strandOf [] with cond := .asleep (.bwait 9 8) } coreOf).strandAt 0).cond = .asleep (.bwait 9 8) ∧
    (let s := mapped (stateOf { strandOf [(8, 0xFFFFFFFF80000040)] with cond := .asleep (.evwait 9 8) } coreOf)
     runsTo (M.lineOf false .load ((s.strandAt 0).readG 8)) { s with cur := 0 } (fun _ s1 => s1.me == s.strandAt 0 && s1.cur == 0) = true) ∧
    (let s := mapped (stateOf { strandOf [(8, 0xFFFFFFFF80001040)] with cond := .asleep (.evlock 9 8 1) } coreOf)
     runsTo (M.lineOf true .amo ((s.strandAt 0).readG 8)) { s with cur := 0 } (fun _ s1 => s1.me == s.strandAt 0 && s1.cur == 0) = true) := by
  decide +kernel

/-- Four reductions in one message, and an arrival at a core whose barrier is homed on another. -/
theorem witness_forwarding :
    let reds := message (.reds .add .w64 [(scratchKey 0 64, 1), (scratchKey 0 72, 1)])
    let s := sending (.arrive 5 1) (strandOf [])
    let u := { s with cores := [(0, { coreOf with domains := [(2, [1, 0])], barriers := [(5, { target := 2, bound := true, dom := 2 })] })] }
    Arrives (sending reds.body (strandOf [])) 0 reds false ∧
    (∀ x ∈ [(scratchKey 0 64, (1 : Word)), (scratchKey 0 72, 1)], InCarve (sending reds.body (strandOf [])) reds x.1 8) ∧
    Arrives u 0 (message (.arrive 5 1)) false ∧ u.isHome 0 (some 1) = true ∧ u.barrierHome 0 5 = 1 ∧
    (message (.arrive 5 1)).origin = none ∧ (message (.arrive 5 1)).counted = false := by
  refine ⟨?_, ?_, ?_, by decide +kernel, by decide +kernel, rfl, rfl⟩
  · unfold Arrives; decide +kernel
  · intro c hc h e
    cases e
    revert c
    decide +kernel
  · unfold Arrives; decide +kernel

/-- A slotted message in a slot of its core; refills that are due and not yet due; a window that is uneven, and one that is not. -/
theorem witness_ports :
    let x : Slotted := { slot := 0, msg := { message (.store []) with slotted := true } }
    let c := { coreOf with slotPend := [x], csrs := { coreOf.csrs with slotper := 0x10006, slotmap := 1 } }
    let s := stateOf (strandOf []) c
    ((s.coreAt 0).slotPend = [x] ∧ x.msg.slotted = true ∧ slotOwned (s.coreAt 0).csrs s.gtime = true ∧ x.serial = none ∧
      slotOwned ((s.coreAt 0).slotsAt s.gtime) s.gtime = true ∧ s.mayBegin s.net x.msg = true ∧ (s.strandAt 0).usc < 1024 ∧
      (s.cores.map (·.1)).Nodup) ∧
    ({ s with gtime := 1024 } : State).refilled + 1024 ≤ 1024 ∧ s.gtime < s.refilled + 1024 ∧
    ({ s with gtime := 4096 } : State).gtime = (s.monitorAt 0).began + 4096 ∧ ¬Uneven {} 5 := by
  unfold Uneven; decide +kernel

/-- A core where TIMER is due, one with a pending message that its strand may take, and one with none to take it. -/
theorem witness_core_events :
    let mail : Mail := { value := 7, sender := 3, fromHost := false, lost := false }
    let s := stateOf (strandOf []) { coreOf with switchat := 0, nextcid := 0x8000000000000000, pending := { mail := some mail } }
    let e : Exc := { code := 0x42, int := true, info := BitVec.ofNat 64 (7 + 3 * 2 ^ 32) }
    ((s.coreAt 0).switchat ≠ BitVec.allOnes 64 ∧ (s.coreAt 0).switchat.toNat ≤ s.gtime ∧ (s.coreAt 0).nextcid.getLsbD 63 = true) ∧
    Takes s 0 ∧ FirstPending (s.coreAt 0).pending {} e ∧ OpenTo (s.strandAt 0) ∧ (s.strandAt 0).cond.between = true ∧
    Undisturbed s 0 ∧ (s.strandAt 0).kind ≠ .none ∧ (∀ i < 4, (s.strandAt (1 * 4 + i)).kind = .none) ∧
    (s.clusterAt (clusterOf 1)).gated = false := by
  refine ⟨by decide +kernel, ?_, ?_, .inl rfl, by decide +kernel, ?_, by decide +kernel, by decide +kernel, by decide +kernel⟩
  · unfold Takes Clocked; decide +kernel
  · exact .inr (.inr (.inr ⟨_, rfl, rfl, rfl, rfl, rfl, rfl⟩))
  · unfold Undisturbed; decide +kernel

/-- A debugger that halts strands; a strand of a chiplet core. -/
theorem witness_debug : ({ small [] with dbg := 2 } : State).dbg = 2 ∧ (small []).power = .active ∧
    ((small []).coreAt 0).switchat = BitVec.allOnes 64 ∧ 4096 ≤ (4100 : Nat) := by decide +kernel

/-- A span switch that is due, of a context that leaves no one behind it, and of one that comes in from a husk at 0x400000 with
nothing in it. -/
theorem witness_switches :
    let leave := stateOf (strandOf []) { coreOf with switchat := 0 }
    let enter := stateOf {} { coreOf with resident := false, switchat := 0, nextcid := BitVec.ofNat 64 (7 + 0x40 * 2 ^ 16) }
    ((leave.coreAt 0).switchat ≠ BitVec.allOnes 64 ∧ (leave.coreAt 0).nextcid.toNat % 65536 = 0 ∧ (leave.coreAt 0).leases = [] ∧
      (leave.coreAt 0).resident = true ∧ (∀ i < 4, (leave.contextStrand 0 i).cond.awaitsAnswer = false) ∧ ∀ i < 4, (leave.strandAt (0 * 4 + i)).kind ≠ .supervisor) ∧
    (enter.coreAt 0).nextcid.toNat % 65536 ≠ 0 ∧ (enter.coreAt 0).nextcid.toNat / 65536 % 2 ^ 36 * 65536 = 0x400000 ∧
    (enter.coreAt 0).departed = [] ∧ (enter.readPa 0x400000 8).testBit 16 = false ∧ enter.readPa 0x404000 1 = 0 := by decide +kernel

/-- A vector load from the scratchpad of core 1, where no context is resident (word 0xA0250040), that waits at 0x100000 and whose timer
has come to its limit; and a slotted store of which a message is not injected. -/
theorem witness_progress :
    let t := { strandOf [(5, farVa)] with pc := 0x100000, cond := .stalled, timer := some { since := 0 } }
    let d : DivEntry := { index := 0, addr := 0, cid := 7, kind := 1, full := false, lo := 0, hi := 0xFFFFF, part := 1, shadow := 0,
                          size := 64, used := 0 }
    let s := ((mapped (stateOf t coreOf)).writePa 0x100000 4 0xA0250040).setCore 1 { divtab := [d] }
    let s := { s with cycles := 0x100000, gtime := 0x100000 }
    let x : Slotted := { slot := 0, msg := message (.store [(scratchKey 1 64, 5)]), elems := [(2, farVa)], settled := some (0, 0) }
    let u := stateOf { t with cond := .slotted } { coreOf with slotPend := [x] }
    let limit := (s.coreAt 0).csrs.ptimerlim.toNat % 2 ^ 32
    limit ≠ 0 ∧ (s.strandAt 0).cond = .stalled ∧ 0 + limit ≤ s.cyclesOf 0 ∧
    (runsTo M.fetch { s with cur := 0 } fun w s1 => (vmemForm w).any fun x =>
      !s1.me.busy x.gs && !s1.me.vbusy x.vs && raises (M.timed (x.work true)) s1 fun e _ => e.code == 9) = true ∧
    s.awaited 0 = (0, 0, 0) ∧ (u.strandAt 0).cond = .slotted ∧ u.unperformed x = true ∧
    u.awaited 0 = (2, 1, 1) := by
  decide +kernel

/-- The module with a trained port that runs CXL. -/
def hosting : State := (small []).setPort 0 { linkUp := true, cxl := true }

/-- An active module; a port that is up, and one that is down; a block whose record is good, and one whose record is not; cells and
mailboxes that exist. -/
theorem witness_hosts : Awake (small []) ∧ Awake hosting ∧ HostUp hosting 0 ∧ ¬HostUp hosting 1 ∧ (hosting.portAt 0).cxl = true ∧ seedGood (bytesOf 64 0) = true ∧ seedGood (bytesOf 64 1) = false ∧
    ((small []).partAt 1).made = true ∧ ((small []).partAt 2).made = false ∧ (0x0012 : BitVec 16).toNat < 0xFFF0 ∧
    hostCode 3 = 0xFFF3 ∧ (small []).isHome 0 (some 1) = true ∧ (small []).barrierHome 0 5 = 0 ∧
    ({ small [] with hdmSize := 4096 } : State).hdmSize = 0 + 4096 ∧
    ({ small [] with power := .retention, hostHeld := [.hdm 0 0 (.read 8)] } : State).hostHeld = [.hdm 0 0 (.read 8)] := by
  refine ⟨⟨rfl, rfl⟩, ⟨rfl, rfl⟩, by unfold HostUp; decide +kernel, by unfold HostUp; decide +kernel, ?_⟩; decide +kernel

/-- Each state of a responder. -/
theorem witness_spdm : ∀ x ∈ [SpdmState.start, .version, .capabilities, .negotiated, .exchanging, .session],
    (({ small [] with ports := [(0, { spdm := x })] } : State).portAt 0).spdm = x ∧ (small []).power ≠ .off := by decide +kernel

/-- A strand of chiplet core 1 that has called firmware function n with two arguments. -/
def calling (n a b : Word) : State :=
  { small [] with strands := [(0, strandOf []), (4100, { strandOf [(14, n), (15, a), (16, b)] with
    kind := .chiplet, mode := .firmware, fcause := 0x17, pc := 0x10000 })] }

theorem witness_calls : (∀ n ∈ [1, 2, 3, 4, 5, 6], Called (calling (BitVec.ofNat 64 n) 1 2) 4100 n) ∧
    ¬Called (small []) 0 1 ∧ (calling 1 1 2).secState ≠ .faultLocked ∧ ({ calling 1 1 2 with secState := .faultLocked } : State).secState =
      .faultLocked ∧ (calling 3 1 0).partitionBusy 1 = true ∧ (calling 2 1 0).spansRemain = true := by
  refine ⟨?_, ?_, ?_, ?_, ?_, ?_⟩ <;> (try unfold Called) <;> decide +kernel

/-- The descriptor of partition 2, of weight 3 and with cluster 5, which no partition has. -/
theorem witness_partitions :
    let s := { calling 1 2 0x100000 with parts := [(1, { made := true, mask := 1, weight := 1 })] }
    let s := (s.writePa 0x100000 1 0x20).writePa 0x100010 1 3
    ((s.bytesPa 0x100000 64).any fun bs => decide (BitVec.ofNat 128 (recField bs 0 16) = 0x20) && decide (recField bs 16 8 = 3) &&
      decide (recField bs 40 24 = 0) && decide (recField bs 24 8 % 256 = 0)) = true ∧
    (s.partAt 2).made = false ∧ (∀ e ∈ s.parts, e.2.made = true → 0x20 &&& e.2.mask = 0) ∧ 0x20 &&& s.gatedMask = 0 ∧
    (s.bytesPa 0xC000000000 64).isNone = true := by decide +kernel

/-- A strand that issues next, and whose word is read and decodes; a fetch that fails; an event at the head of the agenda. -/
theorem witness_steps :
    let s := (mapped (small [])).writePa 0x1000 8 0x2001
    let t := { s with strands := [(0, { strandOf [] with pc := 0x100000 })] }.writePa 0x100000 4 0x04A63800
    (match t.nextAction with
      | .issue k => k == 0
      | _ => false) = true ∧
    (runsTo M.fetch { t.chosen with cur := 0 } fun w _ => w == 0x04A63800) = true ∧
    (raises M.fetch { (small []).chosen with cur := 0 } fun e _ => e.code == 3) = true ∧
    ({ t with agenda := [.shareRefill] } : State).dueEvents.isEmpty = true := by decide +kernel

theorem witness_memory_form : Memory.wf (small []) = true ∧ Memory.wf (mapped (small [])) = true := by decide +kernel

/-- An instruction whose word decodes to it. -/
theorem witness_encoding : (Instr.add 5 6 7).wf = true ∧ encode (.add 5 6 7) = some 0x04A63800 := ⟨rfl, rfl⟩

/-! ## Forms that fail, wait or are diverted -/

/-- A strand of `slots` with these registers, at a tick out of its slots or in slot 4, under STRICT. -/
def strict (gs : List (Reg × Word)) (tick : Nat) : State :=
  { stateOf (strandOf gs) { coreOf with csrs := { coreOf.csrs with slotper := 0x10008, slotmap := 0x30, slotstrict := 1 } } with
    gtime := tick }

theorem witness_slotted_stores :
    let s := strict [(2, farVa)] 0x10005
    let u := strict [(2, farVa)] 0x10010
    (runsTo (M.check s.myAgent .store (ea s 2 0) 8 false 0) s fun p s1 => p == .carve 1 64 && s1 == s) = true ∧
    (runsTo (M.check u.myAgent .red (u.me.readG 2) 8 false 0) u fun p s1 => p == .carve 1 64 && s1 == u) = true ∧
    OutOfSlot s ∧ WritesSlotted u ∧ ¬OutOfSlot u ∧ (1 : Nat) ≠ u.myCoreNo ∧ u.me.usc < 1024 := by
  unfold OutOfSlot WritesSlotted; decide +kernel

/-- `OutOfSlot` as a test. -/
def outOfSlot (s : State) : Bool := @decide (OutOfSlot s) (by unfold OutOfSlot WritesSlotted; infer_instance)

/-- The writes of a vector store to another core's scratchpad pass out of a slot and in one, where they wait for it; those of a VREDM. -/
theorem witness_slotted_vectors :
    (∀ tick ∈ [0x10005, 0x10010], runsTo ([0, 1, 2, 3].mapM fun j => atElem j (M.fieldsRoute 4 j [(farVa + BitVec.ofNat 64 (j * 4), j)]))
      (begun (strict [(5, farVa)] tick)) (fun rss s1 =>
        let bs := batchesOf [0, 1, 2, 3] rss
        outOfSlot s1 == (tick == 0x10005) && bs.any (·.route.isLocal) && decide (awayIn bs ≤ 1024) && (tick == 0x10005 ||
          runsTo (atElem 0 (M.storeBatches farVa (noteOf fun j => farVa + BitVec.ofNat 64 (j * 4)) bs)) s1 fun b s2 =>
            b && s2.me.cond == .slotted)) = true) ∧
    (runsTo ([0, 1].mapM fun j => atElem j (M.redElem .w64 (fun j => farVa + BitVec.ofNat 64 (j * 8)) 2 (strict [] 0x10005).me j))
      (begun (strict [] 0x10005)) fun es _ => (groupReds 8 ([0, 1].zip es)).any (·.home == some 1)) = true ∧
    outOfSlot (strict [] 0x10005) = true := by
  decide +kernel

/-- The end of the own carve: of a store's elements the third fails, or the first. -/
theorem witness_store_faults :
    let route := fun (base : Word) j => atElem j (M.fieldsRoute 4 j [(base + BitVec.ofNat 64 (j * 4), j)])
    (runsTo ([0, 1].mapM (route 0xFFFFFFFFC003FFF8)) (begun (small [])) fun _ t =>
      raises (route 0xFFFFFFFFC003FFF8 2) t fun e _ => e.code == 7) = true ∧
    (raises (route 0xFFFFFFFFC0040000 0) (begun (small [])) fun e _ => e.code == 7) = true := by decide +kernel

/-- v3 holds indices of eight bytes of which one lies past the carve of 256 KiB. -/
def ranged (xs : List Nat) : State :=
  (small [(5, ownVa)]).setMe { (small [(5, ownVa)]).me.writeV 3 (BitVec.ofNat 8192 (packElems 64 (fun i => xs.getD i 0) xs.length)) with
    vl := xs.length }

theorem witness_ranges_cut :
    (∃ j, (indexedTodo (ranged [0x8000, 0]).me 2 0).head? = some j ∧
      (ranged [0x8000, 0]).outOfRange (indexAddr (ranged [0x8000, 0]).me 5 3 8 j) 8 = true) ∧
    RangeCut (ranged [0, 1, 0x8000]) (indexAddr (ranged [0, 1, 0x8000]).me 5 3 8) 8
      (indexedTodo (ranged [0, 1, 0x8000]).me 3 0) [0, 1] (some 2) ∧
    RangeCut gather (indexAddr gather.me 5 3 8) 8 (indexedTodo gather.me 3 0) [0, 1, 2] none := by
  refine ⟨⟨0, by decide +kernel, by decide +kernel⟩, .inr ⟨2, 2, ?_⟩, .inl ?_⟩ <;> decide +kernel

/-- The codes with which elements have failed. -/
def failed {α : Type} (rs : List (Except Exc α)) : List Nat := rs.map fun r => match r with
  | .ok _ => 0
  | .error e => e.code

/-- The state of `gather` with the line of its first elements in the own slice. -/
def scattering : State := { gather with slices := [{ core := 0, line := 4096, state := .modified }] }

/-- A scatter and a VREDM to pages of which the third is not mapped. -/
theorem witness_scatters :
    let addr := indexAddr gather.me 5 3 8
    (runsTo ([0, 1, 2].mapM fun j => M.attemptElem false j (addr j) (M.fieldsRoute 8 j [(addr j, 1)])) (begun scattering) fun rs s1 =>
      let xs := succeeded [0, 1, 2] rs
      failed rs == [0, 0, 5] && runsTo (atElem 0 (M.storeBatches memVa (noteOf addr) (batchesOf (xs.map (·.1)) (xs.map (·.2))))) s1
        fun b _ => b == false) = true ∧
    (runsTo ([0, 1, 2].mapM fun j => M.attemptElem false j (addr j) (M.redElem .w64 addr 2 gather.me j)) (begun scattering) fun rs s1 =>
      failed rs == [0, 0, 5] &&
        runsTo (atElem 0 (M.sendReds .add .w64 true memVa (noteOf addr) (groupReds 8 (succeeded [0, 1, 2] rs)))) s1 fun b _ => b == false)
      = true := by decide +kernel

theorem witness_strides : VClear (small [(5, ownVa), (6, 2)]) [5, 6] [] [1] ∧ ((small [(5, ownVa), (6, 2)]).me.readG 6).toNat % Et.b32.bytes ≠ 0 := by
  unfold VClear Clear; decide +kernel

/-- The end of the carve: the second row of a tile cannot be loaded, or stored.  A product of an infinity and zero traps. -/
theorem witness_tile_faults :
    let s := small [(5, 0xFFFFFFFFC003FC00), (6, 1024)]
    (runsTo (M.rowLoad 0xFFFFFFFFC003FC00 1024 0) s fun _ t => raises (M.rowLoad 0xFFFFFFFFC003FC00 1024 1) t fun e _ => e.code == 7) = true ∧
    (runsTo (M.rowPlaces 0xFFFFFFFFC003FC00 1024 0) s fun _ t => raises (M.rowPlaces 0xFFFFFFFFC003FC00 1024 1) t fun e _ => e.code == 7)
      = true ∧
    (let u := s.setMe { (s.me.writeV 1 0x7F80) with fstat := 1 + 2 ^ 16 }
     u.me.trapEnables &&& (outer u 1 2 0 0 0).2 ≠ 0) ∧
    (let u := strict [(5, farVa &&& ~~~0xFFF), (6, 1024)] 0x10005
     (runsTo ((List.range 2).mapM (M.rowPlaces (farVa &&& ~~~0xFFF) 1024)) u fun rows s1 =>
       (rows.any fun ps => ps.any fun p => p.1.isRemote s1.myCoreNo) &&
         raises (M.slotCheck (farVa &&& ~~~0xFFF)) s1 fun e _ => e.code == 0x0E) = true) := by decide +kernel

/-- Files with a tile to save, and one to fill, whose area is not enabled; a file of another owner. -/
theorem witness_save_faults :
    let file : TileFile := { valid := true, cid := 7, slot := 0, part := some 1, dirty := 1, absent := 2 }
    let s := (small []).setMyCore { coreOf with tiles := file }
    let u := (small []).setMyCore { coreOf with tiles := { file with slot := 1 } }
    let c := s.coreAt 0
    s.ownsFile s.myCoreNo s.mySlotNo = true ∧ c.tiles.dirty.getLsbD 0 = true ∧ c.tiles.dirty.getLsbD 1 = false ∧
    (runsTo (M.spill 0 []) s fun _ _ => true) = true ∧ c.tiles.absent.getLsbD 1 = true ∧
    (raises (M.areaWrite (c.ownerAgent 0) c.ownerArea.1 0 0 (tileBytes (c.tiles.tile 0))) s fun _ _ => true) = true ∧
    (raises (M.areaRead s.myAgent (s.tsaveaOf s.myAgent.core s.mySlotNo) 1 0 16384) s fun e _ => e.code == 6) = true ∧
    (raises (M.readTile 1) s fun e _ => e.code == 0x0A) = true ∧
    (raises (M.spill s.myCoreNo (List.range 8)) s fun e _ => e.code == 0x0A) = true ∧
    u.ownsFile u.myCoreNo u.mySlotNo = false ∧ u.myCore.tiles.valid = true ∧
    (raises (M.spill u.myCoreNo (List.range 8)) u fun e _ => e.code == 0x0A) = true ∧
    (raises M.claim u fun e _ => e.code == 0x0A) = true := by decide +kernel

/-- The home of a version table is asked, and the words that a query reads are, where its requests have gone out. -/
theorem witness_version_requests :
    let u := staged.setMe { staged.me with awaits := { paid := 19 } }
    let quiet := fun (s : State) => s.net == [] && s.poisoned == [] && (s.partAt 1).vtable == 0x200000
    (runsTo (M.askTable 1) staged fun _ s1 => quiet s1 && decide (slotIn s1 1 0 1 = some 0 ∧ s1.me.adopted = none)) = true ∧
    (runsTo (M.askTable 1) (staged.setMe { staged.me with fenced := staged.sent }) fun _ s1 => quiet s1) = true ∧
    (runsTo (M.verLoad 1 0) staged fun _ s1 => quiet s1) = true ∧ (runsTo (M.verLoad 1 0x120) staged fun _ s1 => quiet s1) = true ∧
    (runsTo ((List.range 16).forM fun j => M.verLoad 1 (0x40 + 8 * j)) u fun _ s1 =>
      quiet s1 && runsTo ([32, 40, 48].forM fun o => M.verLoad 1 (0x100 + o)) s1 fun _ s2 => quiet s2) = true ∧
    (staged.partAt 1).vtable % 256 = 0 ∧ (staged.partAt 1).vtable + 16640 ≤ hbmEnd := by decide +kernel

theorem witness_retirement : RetireClear staged 1 :=
  ⟨tableClear_of_quiet rfl rfl 1 0x40 128, fun _ _ => tableClear_of_quiet rfl rfl 1 _ 24⟩

/-- The list of the greatest blocks is empty; a size beyond them; a block that its class does not align; the state of a partition that
has no heap. -/
theorem witness_heap_failures :
    let head := heapWord heap (8 * 14)
    (0x80000 : Nat) < 2 ^ 20 ∧ (runsTo (M.heapRead head) heap fun old s1 => old == 0 && s1.l1 == heap.l1) = true ∧
    (heapBase heap).getLsbD 0 = true ∧ (heapTrap heap).getLsbD 0 = false ∧ (heapBase (small [])).getLsbD 0 = false ∧
    (heapTrap ((small []).setPart 1 { (small []).partAt 1 with alloctrap := 1 })).getLsbD 0 = true ∧
    (2 ^ 20 < (0x100001 : Nat)) ∧ (0x100420 : Nat) % 64 ≠ 0 ∧
    (runsTo (M.heapRead (heapWord heap 120)) heap fun n s1 => runsTo (M.heapPlace .store (heapWord heap 120)) s1 fun place s2 =>
      runsTo (M.heapWrite place (n + 1)) s2 fun _ _ => true) = true := by decide +kernel

/-- A call with good values, and one whose second argument is poisoned; a descriptor of a grant that can be read. -/
theorem witness_good_calls :
    (∀ n ∈ [1, 2, 3, 4, 5, 6], CalledWell (calling (BitVec.ofNat 64 n) 1 2) 4100 n) ∧
    (let s := calling 2 1 2
     let u := s.setStrand 4100 ((s.strandAt 4100).setMark 16 (.poison 0x40))
     Called u 4100 2 ∧ ¬GoodArguments u 4100 2) ∧
    ((calling 5 0 0x100000).bytesPa 0x100000 4699).isSome = true ∧ ((calling 4 1 0x100000).bytesPa 0x100000 16).isSome = true := by
  refine ⟨?_, ?_, ?_, ?_⟩ <;> (try unfold CalledWell) <;> (try unfold Called GoodArguments) <;> decide +kernel

/-- A responder that has agreed algorithms, in an active module and in retention; one whose first boot stage has failed. -/
theorem witness_responders :
    let s := { hosting.setPort 0 { linkUp := true, cxl := true, spdm := .negotiated } with salhal := true }
    HostUp s 0 ∧ s.salhal = true ∧ s.power = .active ∧ (s.portAt 0).spdm ∈ agreedStates ∧
    HostUp { s with power := .retention } 0 ∧ HostUp hosting 0 ∧ hosting.salhal = false := by
  unfold HostUp agreedStates; decide +kernel

/-- An entry of the diversion table for the scratchpad of partition 1's context, whose shadow image holds two records. -/
def divEntry : DivEntry :=
  { index := 0, addr := 0x500000, cid := 7, kind := 1, full := false, lo := 0, hi := 0x1000, part := 1, shadow := 0x510000, size := 2,
    used := 0 }

/-- A message of strand 0 to core 1. -/
def messageTo1 (body : MsgBody) : Msg := { message body with home := some 1, dest := 1 }

/-- The state in which it has come to core 1, whose context is absent, with this diversion table. -/
def absent (body : MsgBody) (tab : List DivEntry) : State :=
  { small [] with cores := [(0, coreOf), (1, { divtab := tab })], net := [messageTo1 body] }

/-- A message to a core that merges; messages that an entry covers, with room for their records and without; one that none covers. -/
theorem witness_diverted :
    let body : MsgBody := .store [(scratchKey 1 64, 5)]
    let load : MsgBody := .load (scratchKey 1 64) 8 false 5 false
    let merging := stateOf (strandOf []) { coreOf with merging := true }
    Arrives { merging with net := [message body] } 0 (message body) false ∧ (merging.coreAt 0).resident = true ∧
    Arrives (absent body [divEntry]) 0 (messageTo1 body) false ∧ Arrives (absent load [divEntry]) 0 (messageTo1 load) false ∧
    AtSender (absent load [divEntry]) (messageTo1 load) ∧ Arrives (absent body []) 0 (messageTo1 body) false ∧
    MatchedBy [divEntry] (messageTo1 body) 1 divEntry ∧ MatchedBy [divEntry] (messageTo1 load) 1 divEntry ∧
    divEntry.used + 1 ≤ divEntry.size ∧ ({ divEntry with used := 2 } : DivEntry).size < 2 + 1 ∧
    ∀ e ∈ [{ divEntry with kind := 2 }], ¬Covers e (messageTo1 body) 1 := by
  refine ⟨?_, rfl, ?_, ?_, ?_, ?_, ?_, ?_, by decide, by decide, ?_⟩
  · unfold Arrives; decide +kernel
  · unfold Arrives; decide +kernel
  · unfold Arrives; decide +kernel
  · unfold AtSender; decide +kernel
  · unfold Arrives; decide +kernel
  · exact ⟨[], [], rfl, ⟨False.elim, fun _ => rfl, rfl, by decide +kernel⟩, fun x hx => nomatch hx⟩
  · exact ⟨[], [], rfl, ⟨False.elim, fun _ => rfl, rfl, by decide +kernel⟩, fun x hx => nomatch hx⟩
  · intro e he h
    cases List.mem_singleton.1 he
    exact absurd (h.2.1 False.elim) (by decide)

/-- A record of two bytes, one of a load that has been diverted, and places for them. -/
theorem witness_replays :
    let r : ShadowRec := { target := 64, src := 0, op := 0, width := 1, mask := 3, tag := 0, value := 0, data := 0x0605 }
    let load := { message (.load (scratchKey 0 64) 8 false 5 false) with diverted := true, serial := 9 }
    let s := { small [] with strands := [(0, (strandOf []).setMark 5 (.waiting .load))], net := [load] }
    let d := (load.records (scratchKey 0 0)).getD 0 r
    (r.op = 0 ∧ r.target + 32 ≤ (small []).carveSize 0) ∧ (small []).carveSize 0 ≤ ({ r with target := 0x40000 } : ShadowRec).target ∧
    (small []).barrierHome 0 5 = 0 ∧ (locateHbm 0 0x510000).isSome = true ∧
    (d.op = 10 ∧ s.divertedOf 0 1 d = some 0 ∧ AtSender s load ∧ (s.strandAt 0).cond ≠ .acquire 5 ∧
      (s.strandAt (senderKey load)).mark 5 = .waiting .load ∧ d.target + 32 ≤ s.carveSize 0 ∧ s.carveHas 0 (scratchKey 0 64) 8 = true) := by
  unfold AtSender; decide +kernel

/-- A core to which a context of partition 1 comes in from a valid husk at 0x400000, with nothing in its log or with one fault. -/
theorem witness_switch_in : ∀ log ∈ [0, 0x100000001],
    let s := stateOf {} { coreOf with resident := false, switchat := 0, nextcid := BitVec.ofNat 64 (7 + 0x40 * 2 ^ 16) }
    let s := (s.writePa 0x400000 8 0x1010007).writePa 0x404000 8 log
    Clocked s 0 ∧ (s.coreAt 0).switchat ≠ BitVec.allOnes 64 ∧ (s.coreAt 0).switchat.toNat ≤ s.gtime ∧
    (s.coreAt 0).nextcid.getLsbD 63 = false ∧ (s.coreAt 0).merging = false ∧ (s.coreAt 0).nextcid.toNat % 65536 = 7 ∧
    (∀ i < 4, (s.contextStrand 0 i).cond.awaitsAnswer = false) ∧ (s.coreAt 0).divtab = [] ∧ s.packets = [] ∧
    (s.readPa 0x400000 8).testBit 16 = true ∧ ((s.imageWord 0x404000).toNat % 512 = 0 ↔ log = 0) := by
  unfold Clocked; decide +kernel

/-- A budget that is spent with nothing under way, while a core of the cluster asks for more than is free with a higher priority, and
while none does. -/
theorem witness_expiry :
    let spent := { lease1 with left := 0 }
    let ask := { lease1 with status := .contending, request := leaseRequest 40 1 8 255 false, prio := 9 }
    let s := stateOf (strandOf []) { coreOf with leases := [spent] }
    let u := { s with cores := s.cores ++ [(1, { coreOf with leases := [ask] })] }
    (s.coreAt 0).held = some spent ∧ spent.status = .granted ∧ spent.spent (s.cyclesOf 0) = true ∧ spent.replant = false ∧
    s.contenders (clusterOf 0) = [] ∧ u.contenders (clusterOf 0) = [(1, ask)] ∧ u.fits (clusterOf 0) ask.request = false ∧
    leaseAhead (u.cyclesOf 0) (1, ask) (0, { spent with joined := u.cyclesOf 0, prio := (u.senderStrand (spent.owner 0)).prio }) = true := by
  decide +kernel

/-- The steps of the commands of a lease: a row of a product, of an MDRAIN to memory and to a tile; and a port that is not open. -/
theorem witness_command_steps :
    let cmd : MillCmd := { op := .release, slot := 0, seq := 0, mode := .user, part := some 1, adopted := none }
    let s := { leasing [] with slices := [4096, 4097].map fun line => { core := 0, line, state := .modified } }
    let a := s.cmdAgent 0 cmd
    s.portOpen a = true ∧ (s.coreAt 0).held = some lease1 ∧
    (runsTo (M.queueTile a 0 1 0 (lease1.fmt.rowBytes lease1.request)) s fun _ s1 => (s1.coreAt 0).held == some lease1) = true ∧
    (runsTo (M.readBytes a false (pagesOf (rowAddr memVa 0 0) (lease1.fmt.rowBytes lease1.request))) s fun _ s1 =>
      (s1.coreAt 0).held == some lease1) = true ∧
    (runsTo (M.bulkSend { a with plain := true } (cmd.sender 0 a.cid) 0 (rowAddr memVa 0 0) (drained lease1 0 0 0 1)) s fun _ s1 =>
      (s1.coreAt 0).held == some lease1) = true ∧
    (runsTo (M.queueTilePut a 0 1 0 (drained lease1 0 0 0 1)) s fun _ s1 => (s1.coreAt 0).held == some lease1) = true ∧
    (s.setCore 0 { s.coreAt 0 with buckets := [(1, { level := 0, capacity := 1024 })] }).portOpen a = false := by decide +kernel

/-- A collective of one member whose bytes are read, and whose result is written. -/
theorem witness_collective_results :
    let e : QEntry := { (mapped (small [])).newEntry 0x1120000000000004 memVa 0x110000 0x3000 0 none with
      coll := some { gang := none, cores := [0], rank := 0, count := 1 } }
    let m : Member := { core := 0, queue := 2, entry := e }
    let s := mapped (stateOf (strandOf []) { coreOf with queues := #v[[], [], [e]] })
    collAgree [m] = true ∧ s.membersReady [m] = true ∧ s.members e = some [m] ∧
    (runsTo (M.tryMembers M.contribution [m]) s fun r s1 => match r with
      | .ok cs => cs.map List.length == [4] && runsTo (M.collWrite [m] [collResult e.w0 e.w3 cs 0]) s1 fun r _ => r.isOk
      | .error _ => false) = true ∧
    (let bad := { m with entry := { e with w1 := 2 ^ 40 } }
     runsTo (M.tryMembers M.contribution [bad]) s fun r _ => match r with
      | .ok _ => false
      | .error x => x.2.code == 4) = true := by decide +kernel

/-- A group of that plant, dense; the indices and rows of one in a sparse panel. -/
theorem witness_plant_units :
    let cmd : MillCmd := { op := .plant plantArgs, slot := 0, seq := 0, mode := .user, part := some 1, adopted := none }
    let a := planting.cmdAgent 0 cmd
    let sparse : FmtCtx := { word := 2 ^ 28 }
    let p := { plantArgs with aux := memVa }
    planting.portOpen a = true ∧ lease1.fmt.spn = 0 ∧ sparse.spn ≠ 0 ∧
    (runsTo (M.denseUnit lease1 plantArgs lease1.fmt a .source 0 0) planting fun cols s1 =>
      cols.length == 256 && (s1.coreAt 0).held == some lease1) = true ∧
    (runsTo ((rangeFrom 0 lease1.fmt.group).mapM fun row => M.plantRow lease1 plantArgs lease1.fmt a .source 0 row fun _ => true) planting
      fun _ _ => true) = true ∧
    (runsTo (M.sparseUnit lease1 p sparse a .source 0 0) planting fun cols s1 =>
      cols.length == 256 && (s1.coreAt 0).held == some lease1) = true ∧
    (runsTo ((rangeFrom 0 sparse.nz).mapM fun row => if row < p.kv then M.auxRow lease1 p a 0 row else pure []) planting
      fun _ s1 => runsTo ((List.range sparse.nz).mapM fun i => M.plantRow lease1 p sparse a .source 0 i fun _ => false) s1 fun _ _ => true)
      = true ∧
    (runsTo (M.plantUnit 0 lease1 plantArgs lease1.fmt a .source 0 0) planting fun _ _ => true) = true := by decide +kernel

/-- Pages of no region, of a region that is declared for twin stores, and of one that is not. -/
theorem witness_twin_elements :
    let page := fun (s : State) => M.page s.myAgent .store memVa 0
    (runsTo (page (mapped (small []))) (mapped (small [])) fun x _ => pteRegion x.1 == none) = true ∧
    (runsTo (page twins) twins fun x s1 => pteRegion x.1 == some 0 && s1.myPart == some 1 &&
      decide (s1.verField 1 (0x100 + 32) 1 / 2 % 2 = 1) && runsTo (M.pagePlace s1.myAgent .store memVa 0 x) s1 fun p s2 => s2 == s1 &&
        runsTo (M.placeCheck s1.myAgent .store memVa 4 true 0 p) s1 fun _ s3 => s3 == s1) = true ∧
    (let s := twins.writePa 0x200120 1 1
     runsTo (page s) s fun x s1 => pteRegion x.1 == some 0 && s1.myPart == some 1 && decide (s1.verField 1 (0x100 + 32) 1 / 2 % 2 = 0))
      = true := by decide +kernel

/-! ## Single steps, with the results of the spec's tables and worked examples -/

/-- The state after an instruction. -/
def after (i : Instr) (s : State) : State :=
  match exec i s with
  | .next t => t
  | _ => {}

/-- The strand of `s` with other registers. -/
def with_ (s : State) (f : Strand → Strand) : State := s.setMe (f s.me)

/-- A v register that holds elements of `w` bits. -/
def vec (w : Nat) (xs : List Nat) : VWord := BitVec.ofNat 8192 (packElems w (fun i => xs.getD i 0) xs.length)

/-- The first elements of a v register. -/
def elems (s : State) (w n : Nat) (r : Reg) : List Nat := (List.range n).map fun i => velem w (s.me.readV r) i

/-- A sum wraps, and the pc moves on (04 R95, R96). -/
theorem test_add_wraps : let t := after (.add 5 6 7) (small [(6, BitVec.allOnes 64), (7, 2)])
    t.me.readG 5 = 1 ∧ t.me.pc = 0x1004 := by decide +kernel

/-- 04, the example after R101: LDHI and ADDI build 0x12349ABC. -/
theorem test_ldhi_addi : (after (.addi 5 5 (-25924)) (after (.ldhi 5 0x1235) (small []))).me.readG 5 = 0x12349ABC := by
  decide +kernel

/-- 04 R97: a division by zero is on its way to its register as all ones. -/
theorem test_div_by_zero : (after (.div 5 6 7) (small [(6, 9)])).me.mark 5 = .landing .longLatency (BitVec.allOnes 64) none := by
  decide +kernel

/-- 02's table: BNE with offset -3 goes 12 bytes back. -/
theorem test_bne_back : (after (.bne 5 0 (-3)) (small [(5, 1)])).me.pc = 0x0FF4 := by decide +kernel

/-- 04 R103: a jump through a register to an odd address raises MISALIGN, and g[d] is not written. -/
theorem test_jalr_misaligned : let t := after (.jalr 1 6 0) (small [(1, 3), (6, 0x2002)])
    t.me.scause = 2 ∧ t.me.saddr = 0x2002 ∧ t.me.sepc = 0x1000 ∧ t.me.readG 1 = 3 ∧ t.me.mode = .supervisor := by decide +kernel

/-- 04 R105: a store and a load of the own scratchpad, little-endian and sign-extended. -/
theorem test_store_load : let s := after (.sw 7 3 16) (small [(3, ownVa), (7, 0x80000001)])
    s.byteAt (scratchKey 0 83) = 0x80 ∧
    (after (.lw 8 3 16) s).me.mark 8 = .landing .load 0xFFFFFFFF80000001 none := by decide +kernel

/-- 04 R113: FCLASS.f64 of -0 writes 0x100, and FCLASS.f32 of a boxed infinity 0x003. -/
theorem test_fclass : (after (.fclass 5 1 .f64) (with_ (small []) (·.writeF 1 0x8000000000000000))).me.readG 5 = 0x100 ∧
    (after (.fclass 5 1 .f32) (with_ (small []) (·.writeF 1 0xFFFFFFFF7F800000))).me.readG 5 = 0x003 := by decide +kernel

/-- 03 R64: 1 + 2^-24 is a tie in FP32, which RNE takes to 1 with NX. -/
theorem test_fadd_tie :
    let s := with_ (small []) fun t => (t.writeF 2 0xFFFFFFFF3F800000).writeF 3 0xFFFFFFFF33800000
    let t := after (.fadd 1 2 3 .rne .f32) s
    t.me.readF 1 = 0xFFFFFFFF3F800000 ∧ t.me.fstat = 0x1001 := by decide +kernel

/-- 05 R135, the example: three ways to narrow 300, -200, 127 and -1, and whether SAT is set. -/
theorem test_vnarrow : let s := with_ (small []) (·.writeV 3 (vec 16 [300, 65336, 127, 65535]))
    elems (after (.vnarrow 2 3 1 0 .b8) s) 8 4 2 = [127, 0x80, 127, 0xFF] ∧
    elems (after (.vnarrow 2 3 2 0 .b8) s) 8 4 2 = [255, 255, 127, 255] ∧
    elems (after (.vnarrow 2 3 0 0 .b8) s) 8 4 2 = [0x2C, 0x38, 0x7F, 0xFF] ∧
    (after (.vnarrow 2 3 1 0 .b8) s).me.fstat ≠ s.me.fstat ∧ (after (.vnarrow 2 3 0 0 .b8) s).me.fstat = s.me.fstat := by
  decide +kernel

/-- 05 R148, the example: the tree of R77 gives 16,777,220, with NX. -/
theorem test_vfredsum :
    let x := vec 32 [0x4B800000, 0x3F800000, 0x3F800000, 0x3F800000, 0x3F800000]
    let s := with_ (small []) fun t => { (t.writeV 1 x).writeF 0 0xFFFFFFFF00000000 with vl := 5 }
    let t := after (.vfredsum 0 1 0 0 .f32) s
    t.me.readF 0 = 0xFFFFFFFF4B800002 ∧ t.me.fstat = 0x1001 := by decide +kernel

/-- The example of 05 R154: v1 under m1. -/
def matches_ : State :=
  with_ (small []) fun t => { (t.writeV 1 (vec 32 [5, 3, 5, 7, 3, 5, 0, 9])).writeM 1 0xB7 with vl := 8 }

/-- 05, the example after R155. -/
theorem test_vconflict_and_masks : elems (after (.vconflict 2 1 1 .b32) matches_) 32 8 2 = [0, 0, 1, 0, 1, 2, 0, 0] ∧
    elems (after (.vcompress 3 1 1 .b32) matches_) 32 6 3 = [5, 3, 5, 3, 5, 9] ∧
    elems (after (.viota 4 1 0 .b32) matches_) 32 8 4 = [0, 1, 2, 3, 3, 4, 5, 5] ∧
    (after (.mpopc 14 1 0 .b32) matches_).me.readG 14 = 6 ∧ (after (.mfirst 15 1 0 .b32) matches_).me.readG 15 = 0 := by decide +kernel

/-- 05, the example after R159: walnut, hazelnut and almond against walnut, hazelnuts and acorn. -/
theorem test_vstrcmp : elems (after (.vstrcmp 4 1 2 0) (with_ (small []) fun t =>
      { (t.writeV 1 (vec 64 [0x74756E6C6177, 6 * 2 ^ 48, 0x74756E6C657A6168, 8 * 2 ^ 48, 0x646E6F6D6C61, 6 * 2 ^ 48])).writeV 2
        (vec 64 [0x74756E6C6177, 6 * 2 ^ 48 + 99, 0x74756E6C657A6168, 9 * 2 ^ 48, 0x6E726F6361, 5 * 2 ^ 48]) with vl := 6 })) 64 6 4 =
    [0, 6, 0xFFFFFFFFFFFFFFFF, 8, 1, 1] := by decide +kernel

/-- 05 R161, the example: MIX(0) = 0, the inactive elements stay, and RNGCTR becomes 4. -/
theorem test_vrand : let t := after (.vrand 9 2 .b64) (with_ (small []) fun t => (t.writeM 2 5).writeV 9 (vec 64 [7, 7, 7, 7]))
    velem 64 (t.me.readV 9) 0 = 0 ∧ velem 64 (t.me.readV 9) 1 = 7 ∧ velem 64 (t.me.readV 9) 3 = 7 ∧ t.me.rngctr = 4 := by
  decide +kernel

/-- The strand of 07's first example, on core (0, 1, 2) with a carve of 128 KiB. -/
def core012 (g5 g6 : Word) : State :=
  { small [] with
    cur := 72, strands := [(72, { strandOf [(5, g5), (6, g6)] with vl := 128 })],
    cores := [(18, { coreOf with csrs := { coreOf.csrs with spadways := 2 } })] }

/-- 07, the first example: the address, the 64 elements that are in range, and the first one out of range. -/
theorem test_local_range : (after (.laddrNear 5 6 0 0) (core012 0 0x1FE00)).me.readG 5 = 0xFFFFFFFFC121FE00 ∧
    (let t := after (.vld 1 5 0 .b64) (core012 0xFFFFFFFFC121FE00 0)
     t.me.vl = 64 ∧ t.me.estart = 0 ∧ t.me.pc = 0x1004) ∧
    (let t := after (.vld 1 5 0 .b64) (core012 0xFFFFFFFFC1220000 0)
     t.me.scause = 7 ∧ t.me.saddr = 0xFFFFFFFFC1220000 ∧ t.me.sinfo.extractLsb' 0 10 = 0 ∧ t.me.vl = 128) := by decide +kernel

/-- 07, the third example: three elements go to the neighbour in one message, and VL becomes 4. -/
theorem test_remote_strided_store :
    let s := stateOf { ((strandOf [(8, 0xFFFFFFFFC010FFF8), (9, 2)]).writeM 2 0xFE) with vl := 8 }
      { coreOf with csrs := { coreOf.csrs with spadways := 1 } }
    let t := after (.vsts 5 8 9 2 .b16) s
    t.me.vl = 4 ∧ t.me.usc = 1 ∧ t.me.pc = 0x1004 ∧ t.net.map (fun m => m.body.flits) = [2] ∧
      t.net.map (·.body) = [.store ((List.range 6).map fun i => (scratchKey 1 (0xFFFA + i), 0))] := by decide +kernel

/-- 03, the table of alignments: the BF16 row gives 32,768, 96 and 0, and only the third loses bits. -/
theorem test_alignment : alignCell (-15) (bf16.value 0x3F80) = (.num false 32768, false) ∧
    alignCell (-15) (bf16.value 0x3B40) = (.num false 96, false) ∧ alignCell (-15) (bf16.value 0x3740) = (.tiny false, true) := by
  decide +kernel

/-- 03 R78: 65,504 is stored in a page of E5M2 as infinity. -/
theorem test_lossy_store : lossyWrite 2 2 0x7BFF = 0x7C00 := by decide +kernel

/-- The core of 14's example: slots 4 and 5 of 256 ticks, STRICT, at tick 0x10005. -/
def slots : State :=
  { stateOf (strandOf [(3, farVa)]) { coreOf with csrs := { coreOf.csrs with slotper := 0x10008, slotmap := 0x30, slotstrict := 1 } } with
    gtime := 0x10005 }

/-- 14, the example: SLOTWAIT.next sleeps until 0x10010; a store outside the slots raises SLOT_VIOLATION with slot 1. -/
theorem test_slots : (after (.slotwait 14 true) slots).me.cond = .asleep (.slotwait 14 0x10010) ∧
    (let t := after (.sd 4 3 0) slots
     t.me.scause = 0x0E ∧ t.me.sinfo.extractLsb' 0 6 = 1 ∧ t.net = []) := by decide +kernel

/-- 11, the example: after one subtraction the counts and the flags of barrier 5, and the firing with the last one. -/
theorem test_barrier : let s := small [(15, 5)]
    let x : Barrier := { target := 4, bound := true, dom := 2 }
    let t := (s.setMyCore { s.myCore with domains := [(2, [0, 1, 16, 17])], barriers := [(5, x)] }).subtractAt 0 5 1024
    (after (.btestCnt 14 15) t).me.readG 14 = 0x0004000000000400 ∧ (after (.btestFlg 14 15) t).me.readG 14 = 0x10A ∧
    (let u := ((t.setBarrier 0 5 { x with arr := 4, count := 1024 }).subtractAt 0 5 1024)
     (after (.btestCnt 14 15) u).me.readG 14 = 0x0004000000000000 ∧ (after (.btestFlg 14 15) u).me.readG 14 = 0x00B) := by
  decide +kernel

/-- 11, case 5: 0 + 2^24 + 1 + 1 at one location ends at 16,777,216. -/
theorem test_scatter_add : let s1 := ((small []).performOp .fadd .w32 64 0x4B800000 0).1
    let s2 := (s1.performOp .fadd .w32 64 0x3F800000 0).1
    ((s2.performOp .fadd .w32 64 0x3F800000 0).1).readMem 64 4 = 0x4B800000 := by decide +kernel

/-- The state after uses of lines of one set of a rim bank, each with its tag; their addresses are multiples of 4 MiB. -/
def rimRun (s : State) (xs : List (Nat × RimMark)) : State := xs.foldl (fun s x => s.rimUse (x.1 * 65536) (some x.2)) s

/-- Which of the lines `xs` that set holds. -/
def rimHolds (s : State) (xs : List Nat) : List Nat := xs.filter fun n => (Tab.get [] s.rim 0).any (·.line == n * 2048)

/-- 08, the example of a stream beside a pinned table, in a set that has a line of the table (line 0): the first line of the stream
evicts w1 and the second the first; without HINTEF both evict lines of W; the table stays until it is unpinned. -/
theorem test_rim_set :
    let ws := ((List.range 16).drop 1).map fun n => (n, RimMark.ordinary)
    let s := (small []).setPart 1 { (small []).partAt 1 with retention := (Vector.replicate 8 {}).set 2 { mode := .pinned, ways := 1 } }
    let table := (0, RimMark.pinned 1 2)
    let s2 := rimRun s (table :: ws)
    let s3 := rimRun s2 [(16, .evictFirst 1 3), (17, .evictFirst 1 3)]
    let s4 := rimRun s3 (table :: ws)
    let s5 := rimRun (s4.unpin 1 2) [(18, .evictFirst 1 3), (19, .evictFirst 1 3)]
    rimHolds s2 (List.range 20) = List.range 16 ∧ rimHolds s3 (List.range 20) = [0, 2, 3, 4, 5, 6, 7, 8, 9, 10, 11, 12, 13, 14, 15, 17] ∧
    rimHolds s4 (List.range 20) = List.range 16 ∧ rimHolds s5 (List.range 20) = (List.range 16).drop 1 ++ [19] ∧
    rimHolds (rimRun s2 [(16, .ordinary), (17, .ordinary)]) [0, 1, 2, 16, 17] = [0, 16, 17] := by decide +kernel

/-- Sets of rim bank 0: one with room that holds the line; full ones of evict-first lines, of ordinary lines, and of lines that are all
protected, which do not hold it. -/
theorem witness_rim :
    let line := fun (mark : Nat → RimMark) (n : Nat) => ({ line := 2048 * (n + 1), mark := mark n, filled := n, used := 40 - n } : RimLine)
    let full := fun (mark : Nat → RimMark) => ({ small [] with rim := [(0, (List.range 16).map (line mark))] } : State)
    let two := fun (n : Nat) => RimMark.pinned (n % 2) 2
    let held : Partition := { made := true, retention := (Vector.replicate 8 {}).set 2 { mode := .pinned, ways := 8 } }
    let s := ((full two).setPart 0 held).setPart 1 held
    let set := Tab.get [] s.rim (rimSetOf 0)
    rimSetOf 0 = 0 ∧ rimSetOf 0x20000 = 0 ∧
    (Tab.get [] ({ small [] with rim := [(0, [line two 1])] } : State).rim 0).length < 16 ∧ (line two 1).line = 0x20000 / 32 ∧
    (Tab.get [] (full fun _ => .evictFirst 1 3).rim 0).length = 16 ∧
    (Tab.get [] (full fun _ => .ordinary).rim 0).all (fun x => !(full fun _ => .ordinary).rimProtected [] x) = true ∧
    set.length = 16 ∧ set.all (fun x => x.line != 0 && s.rimProtected set x) = true ∧
    (s.rimUse 0 none).rim.map (fun e => e.2.map (·.line)) = [(0, 0 :: ((List.range 15).map fun n => 2048 * (n + 1)))].map (·.2) := by
  decide +kernel

/-- Two stores at one router, at the heads of two inputs, for the same output port; the one of the higher priority is chosen. -/
theorem witness_routers :
    let at1 := fun (n prio inPort : Nat) => ({ message (.store [(scratchKey 5 64, 5)]) with
      home := some 5, dest := 5, serial := n, prio, travel := some { x := 1, y := 0, inPort, injected := 0 } } : Msg)
    let s := { small [] with net := [at1 1 3 1, at1 2 7 6] }
    s.waitingPackets.all (fun w => !w.busy && w.isHead s.waitingPackets && w.port == 4) = true ∧
    s.chosenPackets.map (·.serial) = [2] ∧
    ({ x := 1, y := 0, inPort := 1, injected := 0 } : Travel).blocked = 0 := by decide +kernel

/-- 12, the example of a Morton nest: two of its positions, and what the fourth iteration receives. -/
theorem test_morton : let x := { nestOf [] 0 [] with order := 2, dims := [(10, 3, 10), (0, 2, -1)] }
    (x.position 1).map (·.2) = some [1, 0] ∧ x.position 5 = some (6, [2, 1]) ∧
    (x.seedAt [1, 1]).args = #v[20, 0xFFFFFFFFFFFFFFFF, 0, 0] := by decide +kernel

/-- 12, the example of PRIO: under CEIL 9 a request for 11 gives 9, and the old priority is written. -/
theorem test_prio : let s := with_ (small [(15, 11)]) fun t => { t with prio := 2 }
    let t := after (.prio 14 15) (s.setMyCore { s.myCore with csrs := { s.myCore.csrs with prioceil := 9 } })
    t.me.readG 14 = 2 ∧ t.me.prio = 9 := by decide +kernel

/-- 13 R332: ECALL saves the address of the next instruction, and ERET goes there. -/
theorem test_ecall_eret : let t := after .ecall (small [])
    t.me.scause = 0x16 ∧ t.me.sepc = 0x1004 ∧ t.me.mode = .supervisor ∧ (after .eret t).me.pc = 0x1004 ∧
    (after .eret t).me.mode = .user := by decide +kernel

/-- 02 R28, 13 R336: a supervisor CSR is refused in user mode with reason code 4. -/
theorem test_csr_privilege : let t := after (.csrrd 14 0x100) (small [])
    t.me.scause = 1 ∧ t.me.sinfo.toNat / 2 ^ 32 = 4 := by decide +kernel

/-- 05 R128: a request of 300 elements at b64 grants 128. -/
theorem test_setvl : let t := after (.setvli 14 300 .b64) (small [])
    t.me.vl = 128 ∧ t.me.readG 14 = 128 := by decide +kernel

/-- 06 R177: a request of no trays is answered with status 2. -/
theorem test_mlease_refused : (after (.mlease 14 2 3 true) (small [])).me.readG 14 = 0x0200000000000000 := by decide +kernel

/-- 09 R253: a request of kind 0 is illegal. -/
theorem test_cpq_illegal : let t := after (.cpq 16 20) (small [])
    t.me.scause = 1 ∧ t.me.sinfo.toNat / 2 ^ 32 = 3 := by decide +kernel

/-- A word that is placed at the first fetch runs as the first instruction. -/
theorem test_first_step : (match step (State.reset.withFetchWord 32 0x20A01235) with
    | .next t => (t.strandAt t.cur).readG 5 == 0x12350000
    | _ => false) = true := by decide +kernel

end Sys2Proof.Tests
end

section
/-!
Every step keeps memory in canonical form (O57).

The model changes memory in many places, and each in the end through `Mem.write`, `Mem.cut` or a filter of the cells.
The lemmas below follow the model's files in their order, one for each function of the model that a step runs:
`f_mem` says that `f` leaves memory alone, `wf_f` that it keeps the canonical form, `keeps_f` that a longer meaning
(`M`) keeps it however it ends, and `canonical_f` that the next state it answers, if any, has it.  Where `Laws` has a
fact about `Memory.wf` already, the lemma here only puts it into the form that `simp` applies.
-/
namespace Sys2Proof.MemoryForm

open Sys2Proof.Machine Sys2Proof.Laws

/-- A longer meaning keeps the canonical form, however it ends. -/
def Keeps {α : Type} (m : M α) : Prop := ∀ s, Mem.wf s.mem → Mem.wf (m.run.run s).2.mem

/-- The next state that a meaning answers, if any, has memory in canonical form. -/
structure Canonical (o : Out) : Prop where
  wf : ∀ {t}, o = .next t → Mem.wf t.mem

theorem Canonical.next {t : State} (h : Mem.wf t.mem) : Canonical (.next t) where
  wf e := by
    cases e
    exact h

@[simp] theorem canonical_next (t : State) : Canonical (.next t) ↔ Mem.wf t.mem := ⟨fun h => h.wf rfl, .next⟩
theorem canonical_fault (r : Fault) : Canonical (.fault r) := ⟨nofun⟩
theorem canonical_refused (r : Refusal) : Canonical (.refused r) := ⟨nofun⟩

theorem canonical_if {c : Prop} [Decidable c] {o p : Out} (ho : Canonical o) (hp : Canonical p) :
    Canonical (if c then o else p) := by
  split
  · exact ho
  · exact hp

section
variable {α β γ : Type}

theorem wf_fst {p : State × α} {t : State} {a : α} (e : p = (t, a)) (h : Mem.wf p.1.mem) : Mem.wf t.mem := by
  subst e
  exact h

theorem wf_snd {p : α × State} {t : State} {a : α} (e : p = (a, t)) (h : Mem.wf p.2.mem) : Mem.wf t.mem := by
  subst e
  exact h

theorem fst_mem {p : State × α} {t : State} {a : α} (e : p = (t, a)) : t.mem = p.1.mem := by
  subst e
  rfl

@[simp] theorem ite_mem (c : Prop) [Decidable c] (s t : State) : (if c then s else t).mem = if c then s.mem else t.mem :=
  apply_ite State.mem c s t

@[simp] theorem wf_ite (c : Prop) [Decidable c] (m n : List Host.Cell) :
    Mem.wf (if c then m else n) ↔ (c → Mem.wf m) ∧ (¬c → Mem.wf n) := by
  split <;> simp [*]

@[simp] theorem foldl_mem {f : State → α → State} (hf : ∀ s x, (f s x).mem = s.mem) (xs : List α) (s : State) :
    (xs.foldl f s).mem = s.mem := by
  induction xs generalizing s with
  | nil => rfl
  | cons x xs ih => exact (ih _).trans (hf s x)

@[simp] theorem wf_foldl {f : State → α → State} (hf : ∀ s x, Mem.wf s.mem → Mem.wf (f s x).mem) (xs : List α) :
    ∀ {s}, Mem.wf s.mem → Mem.wf (xs.foldl f s).mem := by
  induction xs with
  | nil => exact fun h => h
  | cons x xs ih => exact fun h => ih (hf _ x h)

@[simp] theorem keeps_pure {a : α} : Keeps (pure a : M α) := fun _ h => h
@[simp] theorem keeps_throw {e : Stop} : Keeps (throw e : M α) := fun _ h => h
@[simp] theorem keeps_trap {e : Exc} : Keeps (M.trap e : M α) := fun _ h => h
@[simp] theorem keeps_wait : Keeps (M.wait : M α) := fun _ h => h
@[simp] theorem keeps_illegal {w : IWord} {r : Nat} : Keeps (M.illegal w r : M α) := fun _ h => h
@[simp] theorem keeps_me : Keeps M.me := fun _ h => h
@[simp] theorem keeps_modifyMe {f : Strand → Strand} : Keeps (M.modifyMe f) := fun _ h => h
@[simp] theorem keeps_done : Keeps M.done := fun _ h => h
@[simp] theorem keeps_free : Keeps M.free := fun _ h => h

theorem keeps_set {t : State} (h : Mem.wf t.mem) : Keeps (set t) := fun _ _ => h

theorem keeps_set_bind {t : State} {f : PUnit → M β} (h : Mem.wf t.mem) (hf : ∀ a, Keeps (f a)) : Keeps (set t >>= f) :=
  fun _ _ => hf ⟨⟩ t h

theorem keeps_modify {f : State → State} (hf : ∀ s, Mem.wf s.mem → Mem.wf (f s).mem) : Keeps (modify f) := hf

theorem Keeps.bind {m : M α} {f : α → M β} (hm : Keeps m) (hf : ∀ a, Keeps (f a)) : Keeps (m >>= f) := by
  intro s h
  have ht := hm s h
  rw [run_bind]
  generalize m.run.run s = x at ht
  rcases x with ⟨_ | a, t⟩
  · exact ht
  · exact hf a t ht

/-- A meaning that reads the state goes on with one in canonical form. -/
theorem keeps_get {f : State → M β} (hf : ∀ s, Mem.wf s.mem → Keeps (f s)) : Keeps (get >>= f) :=
  fun s h => hf s h s h

theorem Keeps.map {m : M α} (hm : Keeps m) {f : α → β} : Keeps (f <$> m) := by
  rw [← bind_pure_comp]
  exact hm.bind fun _ => keeps_pure

/-- A meaning that does something first where a condition holds. -/
theorem keeps_when {c : Prop} [Decidable c] {m : M PUnit} {f : PUnit → M β} (hm : Keeps m) (hf : ∀ a, Keeps (f a)) :
    Keeps (if c then m >>= f else f ⟨⟩) := by
  split
  · exact hm.bind hf
  · exact hf _

theorem keeps_if {c : Prop} [Decidable c] {m n : M α} (hm : Keeps m) (hn : Keeps n) : Keeps (if c then m else n) := by
  split
  · exact hm
  · exact hn

theorem keeps_tryCatch {m : M α} {f : Stop → M α} (hm : Keeps m) (hf : ∀ e, Keeps (f e)) : Keeps (tryCatch m f) := by
  intro s h
  have ht := hm s h
  change Mem.wf ((ExceptT.tryCatch m f) s).2.mem
  simp only [ExceptT.tryCatch, ExceptT.mk, bind, StateT.bind]
  change Mem.wf (m s).2.mem at ht
  rcases e : m s with ⟨a | a, t⟩
  · rw [e] at ht; exact hf a t ht
  · rw [e] at ht; exact ht

theorem keeps_forM {f : α → M PUnit} (hf : ∀ a, Keeps (f a)) : ∀ {xs : List α}, Keeps (xs.forM f)
  | [] => keeps_pure
  | _ :: _ => (hf _).bind fun _ => keeps_forM hf

theorem keeps_forIn {f : α → β → M (ForInStep β)} (hf : ∀ a b, Keeps (f a b)) {xs : List α} {b : β} :
    Keeps (forIn xs b f) := by
  induction xs generalizing b with
  | nil => exact keeps_pure
  | cons x xs ih =>
    rw [List.forIn_cons]
    refine (hf x b).bind fun r => ?_
    cases r with
    | done b => exact keeps_pure
    | yield b => exact ih

theorem keeps_filterM {f : α → M Bool} (hf : ∀ a, Keeps (f a)) {xs : List α} : Keeps (xs.filterM f) := by
  have loop : ∀ (xs ys : List α), Keeps (List.filterAuxM f xs ys) := by
    intro xs
    induction xs with
    | nil => exact fun _ => keeps_pure
    | cons x xs ih => exact fun ys => (hf x).bind fun _ => ih _
  exact (loop xs []).bind fun _ => keeps_pure

theorem keeps_mapM {f : α → M β} (hf : ∀ a, Keeps (f a)) {xs : List α} : Keeps (xs.mapM f) := by
  induction xs with
  | nil => simp
  | cons x xs ih =>
    rw [List.mapM_cons]
    exact (hf x).bind fun _ => ih.bind fun _ => keeps_pure

end

/-! ## Tables of the state (`Machine/Table`) -/

@[simp] theorem setMyCore_mem (s : State) (x) : (s.setMyCore x).mem = s.mem := by rfl

/-! ## Memory (`Machine/Memory`) -/

@[simp] theorem wf_writeByte {s : State} {a x} (h : Mem.wf s.mem) : Mem.wf (s.writeByte a x).mem := Laws.wf_writeByte a x h

@[simp] theorem wf_writeBytes {s : State} {a bs} (h : Mem.wf s.mem) : Mem.wf (s.writeBytes a bs).mem :=
  Laws.wf_writeBytes bs a h

@[simp] theorem wf_writeMem {s : State} {a n v} (h : Mem.wf s.mem) : Mem.wf (s.writeMem a n v).mem :=
  Laws.wf_writeMem a n v h

/-! ## How an instruction ends (`Machine/Ops`) -/

@[simp] theorem take_mem (s : State) (e epc) : (s.take e epc).mem = s.mem := by rfl
theorem canonical_raise {s : State} {e} (h : Mem.wf s.mem) : Canonical (raise e s) := .next h
theorem canonical_stall {s : State} (h : Mem.wf s.mem) : Canonical (stall s) := .next h

theorem canonical_issue {s : State} {reads writes k} (h : Mem.wf s.mem) (hk : Canonical (k s)) :
    Canonical (issue reads writes k s) := by
  refine canonical_if (canonical_stall h) ?_
  split
  · exact canonical_raise h
  · exact hk

theorem canonical_complete {s : State} {f} (h : Mem.wf s.mem) : Canonical (complete f s) := .next h

theorem canonical_runM {s : State} (h : Mem.wf s.mem) {m : M Unit} (hm : Keeps m) : Canonical (runM m s) := by
  have ht := hm s h
  unfold runM
  split <;> simp_all [raise, stall, State.take]

theorem keeps_attempt {α : Type} {m : M α} (hm : Keeps m) : Keeps (M.attempt m) :=
  keeps_tryCatch (hm.bind fun _ => keeps_pure) fun e => by cases e <;> simp

@[simp] theorem draw_mem (s : State) : s.draw.1.mem = s.mem := by rfl

/-! ## Integer forms (`Machine/Alu`) -/

theorem canonical_alu2 {s : State} {f d a b} (h : Mem.wf s.mem) : Canonical (alu2 f d a b s) :=
  canonical_issue h <| canonical_complete h

theorem canonical_alu1 {s : State} {f d a} (h : Mem.wf s.mem) : Canonical (alu1 f d a s) :=
  canonical_issue h <| canonical_complete h

theorem canonical_alu3 {s : State} {f d a b} (h : Mem.wf s.mem) : Canonical (alu3 f d a b s) :=
  canonical_issue h <| canonical_complete h

theorem canonical_aluLong {s : State} {f d a b} (h : Mem.wf s.mem) : Canonical (aluLong f d a b s) :=
  canonical_issue h <| canonical_complete h

/-! ## Operands (`Machine/Operands`) -/

theorem canonical_vissue {s : State} {w gs ws vs k} (h : Mem.wf s.mem) (hk : Canonical (k s)) :
    Canonical (vissue w gs ws vs k s) :=
  canonical_if (canonical_raise h) (canonical_if (canonical_stall h) (canonical_issue h hk))

/-! ## Branches (`Machine/Branch`) -/

theorem canonical_branchIf {s : State} {p a b o} (h : Mem.wf s.mem) : Canonical (branchIf p a b o s) :=
  canonical_issue h <| by simp [h]

/-! ## Page walks (`Machine/Xlate`) -/

@[simp] theorem wf_writePa {s : State} {pa n v} (h : Mem.wf s.mem) : Mem.wf (s.writePa pa n v).mem := by
  unfold State.writePa
  split <;> simp [h]

@[simp] theorem keeps_lag : Keeps M.lag := by
  refine keeps_get fun s hs => ?_
  split
  · exact keeps_pure
  · exact keeps_set_bind hs fun _ => keeps_pure

@[simp] theorem cacheLeaf_mem (s : State) (e) : (s.cacheLeaf e).mem = s.mem := by rfl

@[simp] theorem wf_setVerField {s : State} {p off n v} (h : Mem.wf s.mem) : Mem.wf (s.setVerField p off n v).mem := by
  simp [State.setVerField, h]

/-! ## Caches (`Machine/Cache`) -/

@[simp] theorem rimUse_mem (s : State) (line mark) : (s.rimUse line mark).mem = s.mem := by simp [State.rimUse]
@[simp] theorem fillL1_mem (s : State) (c line) : (s.fillL1 c line).mem = s.mem := by simp [State.fillL1]
@[simp] theorem fillRdc_mem (s : State) (c line) : (s.fillRdc c line).mem = s.mem := by simp [State.fillRdc]

@[simp] theorem writeBack_mem (s : State) (xs) : (s.writeBack xs).mem = s.mem := by
  induction xs generalizing s with
  | nil => rfl
  | cons x xs ih => simp [State.writeBack, ih]

@[simp] theorem trimSlice_mem (s : State) (c) : (s.trimSlice c).mem = s.mem := by simp [State.trimSlice]
@[simp] theorem shareLine_mem (s : State) (line) : (s.shareLine line).mem = s.mem := by rfl
@[simp] theorem fillSlice_mem (s : State) (c line mark) : (s.fillSlice c line mark).mem = s.mem := by simp [State.fillSlice]
@[simp] theorem fetchLine_mem (s : State) (c line mark) : (s.fetchLine c line mark).mem = s.mem := by simp [State.fetchLine]

@[simp] theorem readLine_mem (s : State) (c line nc mark) : (s.readLine c line nc mark).mem = s.mem := by
  simp [State.readLine]

@[simp] theorem readLines_mem (s : State) (c how key n) : (s.readLines c how key n).mem = s.mem := by simp [State.readLines]
@[simp] theorem useLines_mem (s : State) (how key n) : (s.useLines how key n).mem = s.mem := by simp [State.useLines]

@[simp] theorem wf_storeOwn {s : State} {c how cells} (h : Mem.wf s.mem) : Mem.wf (s.storeOwn c how cells).mem :=
  Laws.wf_storeOwn c how cells h

@[simp] theorem wf_loseCaches {s : State} {gone cluster} (h : Mem.wf s.mem) : Mem.wf (s.loseCaches gone cluster).mem :=
  Laws.wf_loseCaches gone cluster h

@[simp] theorem wf_flushLine {s : State} {kind line} (h : Mem.wf s.mem) : Mem.wf (s.flushLine kind line).mem :=
  Laws.wf_flushLine kind line h

@[simp] theorem prefLine_mem (s : State) (c line nc sole level mark) :
    (s.prefLine c line nc sole level mark).mem = s.mem := by
  unfold State.prefLine
  split
  · simp
  · split <;> simp

/-! ## Messages (`Machine/Net`) -/

@[simp] theorem mapPackets_mem (s : State) (f) : (s.mapPackets f).mem = s.mem := by rfl

@[simp] theorem chargeTo_mem (s : State) (c p flits) : (s.chargeTo c p flits).mem = s.mem := by
  unfold State.chargeTo
  split <;> rfl

@[simp] theorem drawVia_mem (s : State) (m) : (s.drawVia m).1.mem = s.mem := by
  unfold State.drawVia
  split
  · rfl
  · split <;> rfl

@[simp] theorem injectMsg_mem (s : State) (m) : (s.injectMsg m).1.mem = s.mem := by simp [State.injectMsg]

@[simp] theorem launch_mem (s : State) (m) : (s.launch m).1.mem = s.mem := by
  unfold State.launch
  dsimp only
  split <;> simp

@[simp] theorem post_mem (s : State) (m) : (s.post m).mem = s.mem := by simp [State.post]
@[simp] theorem postTraffic_mem (s : State) (m) : (s.postTraffic m).mem = s.mem := by simp [State.postTraffic]

@[simp] theorem injectOne_mem (s : State) (n) : (s.injectOne n).mem = s.mem := by
  unfold State.injectOne
  split <;> simp

@[simp] theorem injectWaiting_mem (s : State) : s.injectWaiting.mem = s.mem := by simp [State.injectWaiting]
@[simp] theorem sendBack_mem (s : State) (m flits cls) : (s.sendBack m flits cls).mem = s.mem := by simp [State.sendBack]

@[simp] theorem keeps_send {home dest body counted release bulk tag part origin} :
    Keeps (M.send home dest body counted release bulk tag part origin) :=
  keeps_get fun _ _ => keeps_when keeps_modifyMe fun _ => keeps_modify fun s h => by simp [h]

@[simp] theorem keeps_waitFor {α : Type} {key} : Keeps (M.waitFor key : M α) := by
  refine keeps_get fun _ _ => ?_
  split
  · exact keeps_modifyMe.bind fun _ => keeps_wait

theorem keeps_exchangeWith {dest out back waits} (hw : Keeps waits) : Keeps (M.exchangeWith dest out back waits) :=
  keeps_get fun s hs => keeps_if (keeps_when hw fun _ => keeps_set_bind (by simp [hs]) fun _ =>
    keeps_modifyMe.bind fun _ => keeps_modifyMe) keeps_modifyMe

@[simp] theorem keeps_exchange {key out back} : Keeps (M.exchange key out back) := keeps_exchangeWith keeps_waitFor
@[simp] theorem keeps_roomInUsc {n} : Keeps (M.roomInUsc n) := keeps_me.bind fun _ => keeps_if keeps_wait keeps_pure
@[simp] theorem keeps_slotCheck {addr} : Keeps (M.slotCheck addr) := keeps_get fun _ _ => keeps_if keeps_trap keeps_pure

/-! ## Barrier units (`Machine/Barrier`) -/

@[simp] theorem setBarrier_mem (s : State) (c b x) : (s.setBarrier c b x).mem = s.mem := by rfl
@[simp] theorem checkBarrier_mem (s : State) (c b) : (s.checkBarrier c b).mem = s.mem := by simp [State.checkBarrier]
@[simp] theorem arriveAt_mem (s : State) (c b n) : (s.arriveAt c b n).mem = s.mem := by simp [State.arriveAt]
@[simp] theorem subtractAt_mem (s : State) (c b n) : (s.subtractAt c b n).mem = s.mem := by simp [State.subtractAt]

@[simp] theorem expectAt_mem (s : State) (c b n arr) : (s.expectAt c b n arr).1.mem = s.mem := by
  unfold State.expectAt
  dsimp only
  split <;> simp

@[simp] theorem expectErr_mem (s : State) (c b n arr) : (s.expectErr c b n arr).mem = s.mem := by
  unfold State.expectErr
  split <;> simp [fst_mem ‹_›]

/-! ## Scalar floating forms (`Machine/Fpu`) -/

theorem canonical_finishFp {s : State} {fl draws write} (h : Mem.wf s.mem) : Canonical (finishFp fl draws write s) :=
  canonical_if (canonical_raise h) (canonical_complete h)

theorem canonical_fpuRound {s : State} {f mode raw d} (h : Mem.wf s.mem) : Canonical (fpuRound f mode raw d s) :=
  canonical_finishFp h

theorem canonical_fpu2 {s : State} {op d a b r p} (h : Mem.wf s.mem) : Canonical (fpu2 op d a b r p s) :=
  canonical_fpuRound h

theorem canonical_fpuPick {s : State} {op d a b p} (h : Mem.wf s.mem) : Canonical (fpuPick op d a b p s) :=
  canonical_finishFp h

theorem canonical_fpuCompare {s : State} {quiet rel d a b p} (h : Mem.wf s.mem) :
    Canonical (fpuCompare quiet rel d a b p s) :=
  canonical_issue h <| canonical_finishFp h

/-! ## Diversion and delivery (`Machine/Divert`) -/

@[simp] theorem wf_performOp {s : State} {op w key y expected} (h : Mem.wf s.mem) :
    Mem.wf (s.performOp op w key y expected).1.mem := by
  unfold State.performOp
  dsimp only
  split <;> simp [h]

@[simp] theorem wf_performReds {s : State} {op w items} (h : Mem.wf s.mem) : Mem.wf (s.performReds op w items).mem :=
  wf_foldl (fun s x hx => by simp [hx]) _ h

@[simp] theorem setSender_mem (s : State) (m t) : (s.setSender m t).mem = s.mem := by simp [State.setSender]

@[simp] theorem wf_owe {s : State} {m slot reg kind value poison} (h : Mem.wf s.mem) :
    Mem.wf (s.owe m slot reg kind value poison).mem := by
  unfold State.owe
  split
  · exact h
  · split
    · exact wf_writePa (wf_writePa h)
    · exact wf_writePa (wf_writePa (wf_writePa h))

@[simp] theorem wf_land {s : State} {m reg kind value poison} (h : Mem.wf s.mem) :
    Mem.wf (s.land m reg kind value poison).mem := by
  simp [State.land, h]

@[simp] theorem wf_answerLoad {s : State} {m size signed reg float raw bad addr} (h : Mem.wf s.mem) :
    Mem.wf (s.answerLoad m size signed reg float raw bad addr).mem := by
  simp [State.answerLoad, h]

@[simp] theorem wf_answerNothing {s : State} {m size signed reg float addr} (h : Mem.wf s.mem) :
    Mem.wf (s.answerNothing m size signed reg float addr).mem := by
  simp [State.answerNothing, h]

@[simp] theorem wf_answerNoAmo {s : State} {m reg addr} (h : Mem.wf s.mem) : Mem.wf (s.answerNoAmo m reg addr).mem := by
  simp [State.answerNoAmo, h]

@[simp] theorem answerVload_mem (s : State) (m x) : (s.answerVload m x).mem = s.mem := by simp [State.answerVload]

@[simp] theorem answerNoVload_mem (s : State) (m key size) : (s.answerNoVload m key size).mem = s.mem := by
  simp [State.answerNoVload]

@[simp] theorem answerExpect_mem (s : State) (m r) : (s.answerExpect m r).mem = s.mem := by
  unfold State.answerExpect
  dsimp only
  split
  · rfl
  · split <;> simp

@[simp] theorem forsake_mem (s : State) (dead) : (s.forsake dead).mem = s.mem := by rfl
@[simp] theorem acknowledge_mem (s : State) (m) : (s.acknowledge m).mem = s.mem := by simp [State.acknowledge]
@[simp] theorem orphan_mem (s : State) (c addr cid src op) : (s.orphan c addr cid src op).mem = s.mem := by rfl
@[simp] theorem orphanMsg_mem (s : State) (c m key) : (s.orphanMsg c m key).mem = s.mem := by rfl

@[simp] theorem wf_keepDivEntry {s : State} {c e} (h : Mem.wf s.mem) : Mem.wf (s.keepDivEntry c e).mem := by
  simp [State.keepDivEntry, h]

@[simp] theorem wf_appendRecords {s : State} {c e rs} (h : Mem.wf s.mem) : Mem.wf (s.appendRecords c e rs).mem := by
  induction rs generalizing s e with
  | nil => exact h
  | cons r rs ih =>
    unfold State.appendRecords
    refine ih (wf_keepDivEntry ?_)
    split <;> simp [h]

@[simp] theorem wf_divert {s : State} {c m} (h : Mem.wf s.mem) : Mem.wf (s.divert c m).1.mem := by
  unfold State.divert
  dsimp only
  split
  · simp [h]
  · split
    · split <;> simp [h]
    · simp [h]

@[simp] theorem barrierMsg_mem (s : State) (c m) : (s.barrierMsg c m).mem = s.mem := by
  unfold State.barrierMsg
  dsimp only
  split
  · rfl
  · split
    · simp
    · split
      · simp
      · simp
      · split
        · simp
        · split <;> simp [fst_mem ‹_›]
      · rfl

@[simp] theorem useHome_mem (s : State) (m) : (s.useHome m).mem = s.mem := by simp [State.useHome]

@[simp] theorem wf_performMsg {s : State} {m} (h : Mem.wf s.mem) : Mem.wf (s.performMsg m).mem := by
  unfold State.performMsg
  extract_lets +onlyGivenNames ok lost s
  have hlost : ∀ t k, (lost t k).mem = t.mem := by
    intro t k
    dsimp only [lost]
    split
    · rfl
    · exact orphanMsg_mem _ _ _ _
  have hs : Mem.wf s.mem := by simp [s, h]
  clear_value lost s
  split
  · have ht := fun cells => wf_foldl (fun _ (c : Nat × Byte) hx => wf_writeByte (a := c.1) (x := c.2) hx) cells hs
    split
    · rw [hlost]
      exact ht _
    · exact ht _
  · split <;> simp [hlost, hs]
  · split <;> simp [hlost, hs]
  · split <;> simp [hs]
  · split <;> simp [hs]
  · split <;> simp [hlost, hs]
  · exact hs
  · split <;> simp [hs]

@[simp] theorem answerDiverted_mem (s : State) (m) : (s.answerDiverted m).mem = s.mem := by
  unfold State.answerDiverted
  split <;> simp

@[simp] theorem wf_answerDiscarded {s : State} {m} (h : Mem.wf s.mem) : Mem.wf (s.answerDiscarded m).mem := by
  unfold State.answerDiscarded
  split <;> simp [h]

@[simp] theorem wf_arriveMsg {s : State} {m} (h : Mem.wf s.mem) : Mem.wf (s.arriveMsg m).1.mem := by
  unfold State.arriveMsg
  dsimp only
  split
  · simp [h]
  · split
    · simp [h]
    · split
      · simp [h]
      · split
        · exact h
        · split
          · exact h
          · split
            · have ht := wf_fst ‹_› (wf_divert h)
              split <;> simp [ht]
            · simp [wf_fst ‹_› (wf_divert h)]
            · exact wf_fst ‹_› (wf_divert h)

theorem wf_of_arriveMsg {s t : State} {m x} (e : s.arriveMsg m = (t, x)) (h : Mem.wf s.mem) : Mem.wf t.mem :=
  wf_fst e (wf_arriveMsg h)

@[simp] theorem wf_deliver {s : State} {i} (h : Mem.wf s.mem) : Mem.wf (s.deliver i).mem := by
  unfold State.deliver
  split
  · exact h
  · split
    · split <;> next e => exact (wf_of_arriveMsg e h :)
    · exact h

/-! ## Translation (`Machine/Translate`) -/

@[simp] theorem readHome_mem (s : State) (a key) : (s.readHome a key).mem = s.mem := by simp [State.readHome]
@[simp] theorem writeHome_mem (s : State) (a key) : (s.writeHome a key).mem = s.mem := by simp [State.writeHome]
@[simp] theorem keeps_walkOut {a va} : Keeps (M.walkOut a va) := keeps_modify fun s h => by simp [h]

@[simp] theorem keeps_contChoice {a va w} : Keeps (M.contChoice a va w) := by
  refine keeps_get fun _ _ => ?_
  split
  · exact keeps_pure
  · exact keeps_if (keeps_free.bind fun _ => keeps_if keeps_pure keeps_pure) keeps_pure

@[simp] theorem keeps_cachedWalk {a k va} : Keeps (M.cachedWalk a k va) := by
  refine keeps_get fun _ _ => keeps_if keeps_pure ?_
  split
  · exact keeps_walkOut.bind fun _ => keeps_contChoice
  · exact keeps_lag.bind fun _ => keeps_if keeps_pure (keeps_when keeps_walkOut fun _ => keeps_contChoice)

@[simp] theorem keeps_page {a k va extra} : Keeps (M.page a k va extra) := by
  refine keeps_cachedWalk.bind fun _ => ?_
  split
  · exact keeps_trap
  · exact keeps_when keeps_trap fun _ => keeps_if (keeps_get fun s hs => keeps_when (keeps_set <| by simp [hs]) fun _ =>
      (keeps_modify fun s h => by simp [h]).bind fun _ => keeps_pure) keeps_pure

@[simp] theorem keeps_pagePlace {a k va extra x} : Keeps (M.pagePlace a k va extra x) := by
  unfold M.pagePlace
  split
  refine keeps_get fun _ _ => ?_
  dsimp only
  split
  · split <;> simp
  · split
    · exact keeps_trap
    · split <;> simp

@[simp] theorem keeps_translate {a k va extra} : Keeps (M.translate a k va extra) := by
  unfold M.translate
  split
  · exact keeps_page.bind fun _ => keeps_pagePlace
  · refine keeps_when keeps_trap fun _ => keeps_page.bind fun _ => ?_
    split
    · exact keeps_if keeps_pure keeps_trap
  · exact keeps_trap

/-! ## Reads and writes (`Machine/Access`) -/

@[simp] theorem keeps_placeCheck {a k va n vector extra p} : Keeps (M.placeCheck a k va n vector extra p) := by
  unfold M.placeCheck
  split
  · exact keeps_when keeps_trap fun _ => keeps_pure
  · exact keeps_when keeps_trap fun _ => keeps_pure
  · exact keeps_pure

@[simp] theorem keeps_check {a k va n vector extra} : Keeps (M.check a k va n vector extra) :=
  keeps_when keeps_trap fun _ => keeps_if (keeps_get fun _ _ => keeps_when keeps_trap fun _ =>
    keeps_pure) (keeps_translate.bind fun _ => keeps_placeCheck)

@[simp] theorem keeps_askUnit {dest} : Keeps (M.askUnit dest) :=
  keeps_get fun _ _ => keeps_if (keeps_exchangeWith keeps_wait) keeps_pure

@[simp] theorem keeps_windowLoad {off} : Keeps (M.windowLoad off) :=
  keeps_get fun _ _ => keeps_get fun _ _ => keeps_when keeps_wait fun _ => keeps_if (keeps_askUnit.bind fun _ =>
    keeps_get fun _ _ => keeps_pure) (keeps_if (keeps_askUnit.bind fun _ => keeps_get fun _ _ =>
    keeps_when keeps_wait fun _ => keeps_if keeps_pure (keeps_when keeps_wait fun _ =>
    keeps_pure)) (keeps_askUnit.bind fun _ => keeps_get fun _ hs =>
    keeps_if keeps_pure (keeps_if keeps_free (keeps_when (keeps_set hs) fun _ => keeps_pure))))

@[simp] theorem putMail_mem (s : State) (c sender fromHost value) : (s.putMail c sender fromHost value).mem = s.mem := by
  rfl

@[simp] theorem keeps_signalWait : Keeps M.signalWait := keeps_get fun _ _ => keeps_if keeps_wait keeps_pure
@[simp] theorem keeps_fencePast : Keeps M.fencePast := keeps_get fun _ _ => keeps_if keeps_wait keeps_pure

@[simp] theorem keeps_windowStore {va off value} : Keeps (M.windowStore va off value) :=
  keeps_fencePast.bind fun _ => keeps_get fun s hs => keeps_when keeps_wait fun _ =>
    keeps_if (keeps_if (keeps_set hs) (keeps_signalWait.bind fun _ =>
    keeps_set hs)) (keeps_if (keeps_if keeps_send (keeps_if (keeps_signalWait.bind fun _ =>
    keeps_send) keeps_pure)) (keeps_if (keeps_modify fun s h => by simp [h]) (keeps_when keeps_wait fun _ =>
    keeps_if (keeps_set hs) keeps_trap)))

@[simp] theorem keeps_loadLines {how key n} : Keeps (M.loadLines how key n) :=
  keeps_get fun _ _ => (keeps_forM fun _ => keeps_exchange).bind fun _ => keeps_modify fun s h => by simp [h]

@[simp] theorem keeps_probe {c key n} : Keeps (M.probe c key n) :=
  keeps_get fun _ _ => keeps_when keeps_send fun _ => keeps_waitFor

@[simp] theorem keeps_read {p n} : Keeps (M.read p n) := by
  refine keeps_get fun s hs => ?_
  cases p with
  | mem key lossy how region => exact keeps_when keeps_waitFor fun _ => keeps_loadLines.bind fun _ => keeps_pure
  | window off => exact keeps_windowLoad.bind fun _ => keeps_pure
  | carve c off =>
    dsimp only
    split
    · exact keeps_pure
    · refine keeps_when keeps_waitFor fun _ => keeps_if keeps_pure <|
        keeps_if (keeps_if (keeps_exchange.bind fun _ => keeps_pure) (keeps_free.bind fun _ => keeps_pure)) <|
        keeps_when keeps_probe fun _ => ?_
      split
      · exact keeps_probe.bind fun _ => keeps_pure
      · exact keeps_set_bind (by simp [hs]) fun _ => keeps_free.bind fun _ => keeps_pure

@[simp] theorem wf_writeCells {s : State} {cells} (h : Mem.wf s.mem) : Mem.wf (s.writeCells cells).mem :=
  wf_foldl (fun s x hx => by simp [hx]) _ h

@[simp] theorem keeps_clearOf {cells} : Keeps (M.clearOf cells) := by
  refine keeps_fencePast.bind fun _ => keeps_get fun _ _ => ?_
  extract_lets last
  have hlast : ∀ r, Keeps (last r) := by
    intro r
    simp only [last]
    split
    · exact keeps_if keeps_waitFor keeps_pure
    · exact keeps_pure
  split
  · exact keeps_waitFor.bind hlast
  · exact hlast ()

@[simp] theorem keeps_takeLines {cells} : Keeps (M.takeLines cells) :=
  keeps_get fun _ _ => keeps_forM fun _ => keeps_exchange

@[simp] theorem keeps_putHere {how cells} : Keeps (M.putHere how cells) := keeps_modify fun s h => by simp [h]
@[simp] theorem keeps_note {x} : Keeps (M.note x) := keeps_modify fun s h => by simp [h]

@[simp] theorem keeps_slotted {home body elems settled indexed fault release trim} :
    Keeps (M.slotted home body elems settled indexed fault release trim) :=
  keeps_get fun _ _ => keeps_note.bind fun _ => keeps_modifyMe

@[simp] theorem keeps_store {va p n v} : Keeps (M.store va p n v) := by
  refine keeps_get fun _ _ => ?_
  split
  · exact keeps_windowStore.bind fun _ => keeps_done
  · split
    · exact keeps_clearOf.bind fun _ => keeps_takeLines.bind fun _ => keeps_putHere.bind fun _ => keeps_done
    · exact keeps_roomInUsc.bind fun _ => keeps_if (keeps_slotCheck.bind fun _ => keeps_slotted) (keeps_send.bind fun _ =>
        keeps_done)

/-! ## Vector floating forms (`Machine/Vflt`) -/

theorem canonical_finishVec {s : State} {xs draws write} (h : Mem.wf s.mem) : Canonical (finishVec xs draws write s) :=
  canonical_if (canonical_raise h) (canonical_complete h)

theorem canonical_finishVelems {s : State} {w d xs draws} (h : Mem.wf s.mem) : Canonical (finishVelems w d xs draws s) :=
  canonical_finishVec h

theorem canonical_vfltRound {s : State} {scalar op d a b k e} (h : Mem.wf s.mem) :
    Canonical (vfltRound scalar op d a b k e s) :=
  canonical_finishVelems h

theorem canonical_vfltExact {s : State} {scalar op d a b k e} (h : Mem.wf s.mem) :
    Canonical (vfltExact scalar op d a b k e s) :=
  canonical_finishVelems h

theorem canonical_vfltIssue {s : State} {word nf gs vs k} (h : Mem.wf s.mem) (hk : Canonical (k s)) :
    Canonical (vfltIssue word nf gs vs k s) :=
  canonical_vissue h <| canonical_if (canonical_raise h) hk

theorem canonical_vfscaleOp {s : State} {k d a m e} (h : Mem.wf s.mem) : Canonical (vfscaleOp k d a m e s) :=
  canonical_finishVelems h

/-! ## Masks (`Machine/Vmask`) -/

theorem canonical_vfcmpOp {s : State} {quiet rel d a b k e} (h : Mem.wf s.mem) :
    Canonical (vfcmpOp quiet rel d a b k e s) :=
  canonical_finishVec h

/-! ## Permutations (`Machine/Vperm`) -/

theorem canonical_vfredOp {s : State} {op d a b k e} (h : Mem.wf s.mem) : Canonical (vfredOp op d a b k e s) := by
  unfold vfredOp
  dsimp only
  split
  · exact canonical_complete h
  · split
    · exact canonical_raise h
    · exact canonical_complete h

/-! ## String forms (`Machine/Vdb`) -/

theorem keeps_attemptElem {α : Type} {stop elem addr} {m : M α} (hm : Keeps m) :
    Keeps (M.attemptElem stop elem addr m) := by
  refine keeps_modifyMe.bind fun _ => keeps_tryCatch (hm.bind fun _ => keeps_pure) fun e => ?_
  split
  · exact keeps_pure
  · exact keeps_if (keeps_me.bind fun _ => keeps_pure) keeps_throw

theorem keeps_timed {work} (hw : Keeps work) : Keeps (M.timed work) := by
  refine keeps_get fun _ _ => keeps_modifyMe.bind fun _ =>
    (keeps_tryCatch (hw.bind fun _ => keeps_pure) fun _ => keeps_pure).bind fun r => ?_
  split
  · exact keeps_modifyMe
  · exact keeps_modifyMe.bind fun _ => keeps_wait
  · exact keeps_modifyMe.bind fun _ => keeps_trap

@[simp] theorem keeps_textByte {text i elem} : Keeps (M.textByte text i elem) := by
  refine keeps_get fun _ _ => keeps_check.bind fun p => keeps_read.bind fun _ => ?_
  split
  · exact keeps_when keeps_trap fun _ => keeps_pure

@[simp] theorem keeps_stubByte {x i elem} : Keeps (M.stubByte x i elem) := keeps_if keeps_pure keeps_textByte

@[simp] theorem keeps_stubDiffer {x y elem} : ∀ {n i}, Keeps (M.stubDiffer x y elem n i) := by
  intro n
  induction n with
  | zero => exact keeps_pure
  | succ n ih => exact keeps_stubByte.bind fun _ => keeps_stubByte.bind fun _ => keeps_if ih keeps_pure

@[simp] theorem keeps_stubCompare {x y elem} : Keeps (M.stubCompare x y elem) := by
  refine keeps_stubDiffer.bind fun _ => ?_
  split <;> exact keeps_pure

@[simp] theorem keeps_stubBytes {x elem} : ∀ {n i}, Keeps (M.stubBytes x elem n i) := by
  intro n
  induction n with
  | zero => exact keeps_pure
  | succ n ih => exact keeps_stubByte.bind fun _ => ih.bind fun _ => keeps_pure

@[simp] theorem keeps_stubHash {x elem} : ∀ {n c w}, Keeps (M.stubHash x elem n c w) := by
  intro n
  induction n with
  | zero => exact keeps_pure
  | succ n ih => exact keeps_stubBytes.bind fun _ => ih

@[simp] theorem keeps_textBytes {text elem} : ∀ {n i}, Keeps (M.textBytes text elem n i) := by
  intro n
  induction n with
  | zero => exact keeps_pure
  | succ n ih => exact keeps_textByte.bind fun _ => ih.bind fun _ => keeps_pure

theorem keeps_stringWork {d a k stub stop} (hs : ∀ t i, Keeps (stub t i)) : Keeps (stringWork d a k stub stop) := by
  refine keeps_me.bind fun t => (keeps_mapM fun _ => (keeps_attemptElem <| hs _ _).bind fun _ =>
    keeps_pure).bind fun res => keeps_modifyMe.bind fun _ => ?_
  split
  · exact keeps_done
  · exact keeps_trap

@[simp] theorem keeps_vstrldWork {d a k stop} : Keeps (vstrldWork d a k stop) :=
  keeps_stringWork fun _ _ => keeps_textBytes.bind fun _ => keeps_pure

@[simp] theorem keeps_vstrcmpWork {d a b k stop} : Keeps (vstrcmpWork d a b k stop) :=
  keeps_stringWork fun _ _ => keeps_stubCompare

@[simp] theorem keeps_vstrhashWork {d a k stop} : Keeps (vstrhashWork d a k stop) :=
  keeps_stringWork fun _ _ => keeps_stubHash.bind fun _ => keeps_pure

/-! ## Vector memory forms (`Machine/Vmem`) -/

@[simp] theorem keeps_elemRead {va sz elem} : Keeps (M.elemRead va sz elem) := by
  refine keeps_get fun _ _ => keeps_check.bind fun p => keeps_read.bind fun _ => ?_
  split
  · exact keeps_when keeps_trap fun _ => keeps_pure

@[simp] theorem keeps_fieldsRead {sz elem xs} : Keeps (M.fieldsRead sz elem xs) := by
  induction xs with
  | nil => exact keeps_pure
  | cons x xs ih => exact keeps_elemRead.bind fun _ => ih.bind fun _ => keeps_pure

@[simp] theorem keeps_elemRoute {va sz elem v} : Keeps (M.elemRoute va sz elem v) :=
  keeps_get fun _ _ => keeps_check.bind fun _ => keeps_get fun _ _ => keeps_pure

@[simp] theorem keeps_fieldsRoute {sz elem xs} : Keeps (M.fieldsRoute sz elem xs) := by
  induction xs with
  | nil => exact keeps_pure
  | cons x xs ih => exact keeps_elemRoute.bind fun _ => ih.bind fun _ => keeps_pure

theorem keeps_orderedElems {α : Type} {stop addr} {act : Nat → M α} (ha : ∀ e, Keeps (act e)) :
    ∀ {es}, Keeps (M.orderedElems stop addr act es) := by
  intro es
  induction es with
  | nil => exact keeps_pure
  | cons e es ih =>
    unfold M.orderedElems
    refine (keeps_attemptElem (ha e)).bind fun r => ?_
    split
    · exact keeps_pure
    · exact ih.bind fun _ => keeps_pure

@[simp] theorem keeps_finish {a} : Keeps (M.finish a) := by
  unfold M.finish
  split
  · exact keeps_done
  · exact keeps_trap

@[simp] theorem keeps_orderedLoad {stop firstFault sz regs k e addr} :
    Keeps (orderedLoad stop firstFault sz regs k e addr) := by
  refine keeps_me.bind fun t => Keeps.bind ?_ fun _ => ?_
  · refine keeps_orderedElems ?_
    intro _
    exact keeps_fieldsRead
  · split
    · exact keeps_modifyMe.bind fun _ => keeps_finish

@[simp] theorem keeps_sendBatch {b} : Keeps (M.sendBatch b) := by
  unfold M.sendBatch
  split
  · exact keeps_putHere
  · exact keeps_get fun _ _ => keeps_send

@[simp] theorem keeps_slotBatch {x b} : Keeps (M.slotBatch x b) := by
  unfold M.slotBatch
  split
  · exact keeps_slotted
  · exact keeps_get fun _ _ => keeps_sendBatch.bind fun _ => keeps_note
  · exact keeps_sendBatch

@[simp] theorem keeps_storeBatches {first x bs} : Keeps (M.storeBatches first x bs) := by
  refine keeps_get fun _ _ => keeps_when keeps_slotCheck fun _ => keeps_clearOf.bind fun _ => keeps_takeLines.bind fun _ =>
    ?_
  split
  · split
    · exact (keeps_forM fun _ => keeps_slotBatch).bind fun _ => keeps_pure
    · exact keeps_when keeps_waitFor fun _ => (keeps_forM fun _ => keeps_slotBatch).bind fun _ => keeps_pure
  · split
    · exact (keeps_forM fun _ => keeps_sendBatch).bind fun _ => keeps_pure
    · exact keeps_when keeps_waitFor fun _ => (keeps_forM fun _ => keeps_sendBatch).bind fun _ => keeps_pure

theorem keeps_orderedStores {stop addr act} (ha : ∀ e, Keeps (act e)) :
    ∀ {es}, Keeps (M.orderedStores stop addr act es) := by
  intro es
  induction es with
  | nil => exact keeps_pure
  | cons e es ih =>
    unfold M.orderedStores
    refine (keeps_attemptElem (ha e)).bind fun r => ?_
    split
    · exact keeps_pure
    · split
      · exact keeps_pure
      · exact ih.bind fun _ => keeps_pure

theorem keeps_orderedStore {stop k e addr act} (ha : ∀ t e, Keeps (act t e)) : Keeps (orderedStore stop k e addr act) := by
  refine keeps_me.bind fun t => Keeps.bind ?_ fun _ => ?_
  · refine keeps_orderedStores ?_
    intro _
    exact ha _ _
  · split
    · split
      · refine (keeps_attemptElem keeps_storeBatches).bind fun _ => ?_
        split
        · exact keeps_when keeps_modifyMe fun _ => keeps_trap
        · exact keeps_pure
        · split
          · exact keeps_modifyMe
          · exact keeps_modifyMe.bind fun _ => keeps_finish

@[simp] theorem keeps_rangeRule {addr sz set} : Keeps (M.rangeRule addr sz set) := by
  refine keeps_get fun _ _ => ?_
  split
  · exact keeps_pure
  · exact keeps_if keeps_trap keeps_pure

theorem keeps_indexedElems {α : Type} {stop addr} {act : Nat → M α} (ha : ∀ e, Keeps (act e)) :
    ∀ {es}, Keeps (M.indexedElems stop addr act es) := by
  intro es
  induction es with
  | nil => exact keeps_pure
  | cons e es ih =>
    unfold M.indexedElems
    exact (keeps_attemptElem (ha e)).bind fun _ => ih.bind fun _ => keeps_pure

@[simp] theorem keeps_indexedLoad {stop sz d k e addr} : Keeps (indexedLoad stop sz d k e addr) := by
  refine keeps_me.bind fun t => keeps_rangeRule.bind fun _ => ?_
  split
  · refine Keeps.bind ?_ fun xs => ?_
    · refine keeps_indexedElems ?_
      intro _
      exact keeps_elemRead
    · exact keeps_modifyMe.bind fun _ => keeps_finish

theorem keeps_indexedFinish {stop n addr set bad vl send} (hs : Keeps send) :
    Keeps (indexedFinish stop n addr set bad vl send) := by
  refine (keeps_attemptElem hs).bind fun _ => ?_
  split
  · exact keeps_if (keeps_modifyMe.bind fun _ => keeps_me.bind fun _ => keeps_finish) keeps_trap
  · exact keeps_modifyMe
  · exact keeps_modifyMe.bind fun _ => keeps_finish

theorem keeps_indexedStore {stop sz n mask addr act} (ha : ∀ t e, Keeps (act t e)) :
    Keeps (indexedStore stop sz n mask addr act) := by
  refine keeps_me.bind fun t => keeps_rangeRule.bind fun _ => ?_
  split
  · refine Keeps.bind ?_ fun xs => ?_
    · refine keeps_indexedElems ?_
      intro _
      exact ha _ _
    · exact keeps_indexedFinish keeps_storeBatches

@[simp] theorem keeps_strideCheck {a s1 sz} : Keeps (M.strideCheck a s1 sz) :=
  keeps_me.bind fun _ => keeps_if keeps_trap keeps_pure

@[simp] theorem keeps_storeElem {v sz addr t j} : Keeps (storeElem v sz addr t j) :=
  keeps_fieldsRoute.bind fun _ => keeps_pure

@[simp] theorem keeps_vldWork {d a k e stop} : Keeps (vldWork d a k e stop) := by simp [vldWork]

@[simp] theorem keeps_vldsWork {d a s1 k e stop} : Keeps (vldsWork d a s1 k e stop) :=
  keeps_strideCheck.bind fun _ => keeps_orderedLoad

@[simp] theorem keeps_vldxWork {d a x k e stop} : Keeps (vldxWork d a x k e stop) := by simp [vldxWork]
@[simp] theorem keeps_vldsegWork {d a f k e stop} : Keeps (vldsegWork d a f k e stop) := by simp [vldsegWork]
@[simp] theorem keeps_vldffWork {d a k e stop} : Keeps (vldffWork d a k e stop) := by simp [vldffWork]
@[simp] theorem keeps_vstWork {d a k e stop} : Keeps (vstWork d a k e stop) := keeps_orderedStore fun _ _ => keeps_storeElem

@[simp] theorem keeps_vstsWork {d a s1 k e stop} : Keeps (vstsWork d a s1 k e stop) :=
  keeps_strideCheck.bind fun _ => keeps_orderedStore fun _ _ => keeps_storeElem

@[simp] theorem keeps_vstxWork {d a x k e stop} : Keeps (vstxWork d a x k e stop) :=
  keeps_me.bind fun _ => keeps_indexedStore fun _ _ => keeps_storeElem

@[simp] theorem keeps_vstsegWork {d a f k e stop} : Keeps (vstsegWork d a f k e stop) :=
  keeps_orderedStore fun _ _ => keeps_fieldsRoute.bind fun _ => keeps_pure

@[simp] theorem keeps_twinPlace {a va sz j} : Keeps (M.twinPlace a va sz j) := by
  unfold M.twinPlace
  extract_lets place
  have hplace : ∀ r, Keeps (place r) := by
    refine fun _ => keeps_page.bind fun x => ?_
    split
    · exact keeps_trap
    · split
      · exact keeps_trap
      · exact keeps_get fun _ _ => keeps_when keeps_trap fun _ => keeps_pagePlace.bind fun _ =>
          keeps_placeCheck.bind fun _ => keeps_pure
  exact keeps_if (keeps_check.map.bind fun _ => keeps_trap.bind hplace) (hplace ())

@[simp] theorem keeps_twinElem {v a sz t j} : Keeps (M.twinElem v a sz t j) := by
  refine keeps_get fun _ _ => keeps_twinPlace.bind fun _ => ?_
  split
  · refine keeps_get fun _ _ => (keeps_attempt keeps_elemRoute).bind fun _ => ?_
    split <;> exact keeps_pure

@[simp] theorem keeps_vpstWork {d a k e stop} : Keeps (vpstWork d a k e stop) :=
  keeps_orderedStore fun _ _ => keeps_twinElem

/-! ## Atomic operations (`Machine/Amo`) -/

@[simp] theorem keeps_releaseWait : Keeps M.releaseWait := keeps_get fun _ _ => keeps_if keeps_wait keeps_pure
@[simp] theorem keeps_acquireWait : Keeps M.acquireWait := keeps_get fun _ _ => keeps_if keeps_wait keeps_pure

@[simp] theorem keeps_amoHere {op w key va y expected d} : Keeps (M.amoHere op w key va y expected d) :=
  keeps_get fun _ hs => keeps_set_bind (wf_performOp hs) fun _ => keeps_modifyMe.bind fun _ => keeps_done

theorem canonical_amo {s : State} {op d a b r q w} (h : Mem.wf s.mem) : Canonical (amo op d a b r q w s) := by
  refine canonical_issue h <| canonical_runM h <| keeps_me.bind fun t => keeps_get fun _ h => keeps_check.bind fun p =>
    keeps_when keeps_releaseWait fun _ => keeps_when keeps_acquireWait fun _ => keeps_get fun _ _ => ?_
  cases p with
  | carve c off =>
    exact keeps_if (keeps_when keeps_wait fun _ => keeps_fencePast.bind fun _ => keeps_amoHere) <|
      keeps_send.bind fun _ => keeps_if keeps_modifyMe (keeps_modifyMe.bind fun _ => keeps_done)
  | mem key lossy how region =>
    exact keeps_when keeps_wait fun _ => keeps_fencePast.bind fun _ => keeps_exchange.bind fun _ =>
      (keeps_modify fun s h => by simp [h]).bind fun _ => keeps_amoHere
  | window off => exact keeps_trap

@[simp] theorem keeps_sendRed {va p op w value r} : Keeps (M.sendRed va p op w value r) := by
  refine keeps_get fun s _ => keeps_roomInUsc.bind fun _ => ?_
  cases p with
  | carve c off =>
    exact keeps_if (keeps_slotCheck.bind fun _ => keeps_slotted.bind fun _ => keeps_pure) (keeps_send.bind fun _ =>
      keeps_pure)
  | mem key lossy how region => exact keeps_send.bind fun _ => keeps_pure
  | window off => exact keeps_trap

theorem canonical_red {s : State} {op a b r w} (h : Mem.wf s.mem) : Canonical (red op a b r w s) :=
  canonical_issue h <| canonical_runM h <| keeps_me.bind fun _ => keeps_get fun _ _ => keeps_check.bind fun _ =>
    keeps_sendRed.bind fun _ => keeps_if keeps_done keeps_pure

@[simp] theorem keeps_redElem {w addr v t j} : Keeps (M.redElem w addr v t j) := by
  refine keeps_get fun _ _ => keeps_check.bind fun p => ?_
  split
  · exact keeps_pure
  · exact keeps_pure
  · exact keeps_trap

@[simp] theorem keeps_slotReds {op w r x b} : Keeps (M.slotReds op w r x b) :=
  keeps_get fun _ _ => keeps_if keeps_slotted (keeps_send.bind fun _ => keeps_note)

@[simp] theorem keeps_sendReds {op w r first x bs} : Keeps (M.sendReds op w r first x bs) := by
  refine keeps_get fun _ _ => keeps_when keeps_slotCheck fun _ => ?_
  split
  · split
    · exact (keeps_forM fun _ => keeps_slotReds).bind fun _ => keeps_pure
    · exact keeps_when keeps_waitFor fun _ => (keeps_forM fun _ => keeps_slotReds).bind fun _ => keeps_pure
  · split
    · exact (keeps_forM fun _ => keeps_send).bind fun _ => keeps_pure
    · exact keeps_when keeps_waitFor fun _ => (keeps_forM fun _ => keeps_send).bind fun _ => keeps_pure

@[simp] theorem keeps_vredmWork {d a b r ty stop} : Keeps (vredmWork d a b r ty stop) := by
  refine keeps_me.bind fun t => ?_
  split
  · refine keeps_rangeRule.bind fun _ => ?_
    split
    · refine Keeps.bind ?_ fun xs => ?_
      · refine keeps_indexedElems ?_
        intro _
        exact keeps_redElem
      · exact keeps_indexedFinish keeps_sendReds

/-! ## Bulk reads and writes (`Machine/Bulk`) -/

theorem canonical_unitIssue {s : State} {w reads writes k} (h : Mem.wf s.mem) (hk : Canonical (k s)) :
    Canonical (unitIssue w reads writes k s) :=
  canonical_if (canonical_raise h) (canonical_issue h hk)

@[simp] theorem keeps_bulkPlace {a k va n never extra covers} : Keeps (M.bulkPlace a k va n never extra covers) := by
  unfold M.bulkPlace
  split
  · exact keeps_get fun _ _ => keeps_when keeps_trap fun _ => keeps_pure
  · refine keeps_translate.bind fun p => ?_
    split
    · split
      · exact keeps_when keeps_trap fun _ => keeps_pure
    · exact keeps_pure
  · exact keeps_when keeps_trap fun _ => keeps_translate

@[simp] theorem askBulk_mem (s : State) (a dest n) : (s.askBulk a dest n).mem = s.mem := by simp [State.askBulk]
@[simp] theorem giveBulk_mem (s : State) (a dest n) : (s.giveBulk a dest n).mem = s.mem := by simp [State.giveBulk]
@[simp] theorem keeps_portOpen {a} : Keeps (M.portOpen a) := keeps_get fun _ _ => keeps_if keeps_wait keeps_pure

@[simp] theorem keeps_bulkRead {a p va n} : Keeps (M.bulkRead a p va n) := by
  refine keeps_get fun _ _ => ?_
  extract_lets finish
  have hfinish : ∀ {key bs}, Keeps (finish key bs) := by
    intro key bs
    simp only [finish]
    split
    · exact keeps_trap
    · exact keeps_pure
  cases p with
  | mem key lossy how region => exact (keeps_modify fun s h => by simp [h]).bind fun _ => hfinish
  | carve c off =>
    have hask : ∀ {key bs}, Keeps (if c ≠ a.core then (do modify fun s => s.askBulk a c n; finish key bs) else finish key bs) :=
      keeps_when (keeps_modify fun s h => by simp [h]) fun _ => hfinish
    exact keeps_when keeps_wait fun _ =>
      keeps_if (keeps_when keeps_wait fun _ => keeps_when keeps_trap fun _ => hask) hask
  | window off => exact keeps_trap

@[simp] theorem keeps_readBytes {a never xs} : Keeps (M.readBytes a never xs) := by
  induction xs with
  | nil => exact keeps_pure
  | cons x xs ih => exact keeps_bulkPlace.bind fun _ => keeps_bulkRead.bind fun _ => ih.bind fun _ => keeps_pure

@[simp] theorem prefPlace_mem (s : State) (a va) : (s.prefPlace a va).1.mem = s.mem := by
  unfold State.prefPlace
  split
  · rfl
  · split <;> rfl

@[simp] theorem prefOne_mem (s : State) (a how sole level line) : (s.prefOne a how sole level line).mem = s.mem := by
  simp [State.prefOne]

@[simp] theorem prefRange_mem (s : State) (a sole level fuel va n) :
    (s.prefRange a sole level fuel va n).1.mem = s.mem := by
  induction fuel generalizing s va n with
  | zero => rfl
  | succ fuel ih =>
    unfold State.prefRange
    split
    · rfl
    · split <;> simp [fst_mem ‹_›, ih]

@[simp] theorem keeps_sendFor {a sender prio home dest tag body} : Keeps (M.sendFor a sender prio home dest tag body) :=
  keeps_get fun s hs => keeps_set_bind (by simp [hs]) fun _ => keeps_pure

@[simp] theorem keeps_sendBytes {a sender prio xs} : Keeps (M.sendBytes a sender prio xs) := by
  induction xs with
  | nil => exact keeps_pure
  | cons x xs ih => exact keeps_get fun _ _ => keeps_sendFor.bind fun _ => ih.bind fun _ => keeps_pure

@[simp] theorem keeps_blockPlaces {a never bs off xs} : Keeps (M.blockPlaces a never bs off xs) := by
  induction xs generalizing off with
  | nil => exact keeps_pure
  | cons x xs ih => exact keeps_bulkPlace.bind fun _ => ih.bind fun _ => keeps_pure

@[simp] theorem keeps_bulkSend {a sender prio va bs} : Keeps (M.bulkSend a sender prio va bs) :=
  keeps_blockPlaces.bind fun _ => keeps_sendBytes

@[simp] theorem keeps_clearBytes {core key n} : Keeps (M.clearBytes core key n) :=
  keeps_get fun _ _ => keeps_if keeps_wait keeps_pure

@[simp] theorem keeps_putNow {a p bs} : Keeps (M.putNow a p bs) := by
  unfold M.putNow
  split
  · exact keeps_clearBytes.bind fun _ => (keeps_modify fun s h => by simp [h]).bind fun _ => keeps_modify fun s h =>
      by simp [h]
  · exact keeps_modify fun s h => by simp [h]

@[simp] theorem keeps_writeBytesNow {a va bs} : Keeps (M.writeBytesNow a va bs) :=
  keeps_blockPlaces.bind fun ps => keeps_forM fun _ => by simp

/-! ## Tiles (`Machine/Tile`) -/

@[simp] theorem keeps_areaCheck {area i} : Keeps (M.areaCheck area i) := keeps_if keeps_trap keeps_pure

@[simp] theorem keeps_areaRead {a area i off n} : Keeps (M.areaRead a area i off n) := by
  refine keeps_areaCheck.bind fun _ => Keeps.bind ?_ fun ps => ?_
  · refine keeps_mapM fun _ => ?_
    split
    · refine keeps_bulkPlace.bind fun p => ?_
      split
      · exact keeps_clearBytes.bind fun _ => keeps_bulkRead
      · exact keeps_bulkRead
  · exact keeps_pure

@[simp] theorem keeps_areaWrite {a area i off bs} : Keeps (M.areaWrite a area i off bs) :=
  keeps_areaCheck.bind fun _ => keeps_writeBytesNow

theorem keeps_asTileSave {α : Type} {slot fill i} {m : M α} (hm : Keeps m) : Keeps (M.asTileSave slot fill i m) := by
  refine (keeps_attempt hm).bind fun _ => ?_
  split
  · exact keeps_pure
  · exact keeps_trap

@[simp] theorem keeps_modifyTiles {core f} : Keeps (M.modifyTiles core f) := keeps_modify fun s h => by simp [h]

@[simp] theorem keeps_spill {core xs} : Keeps (M.spill core xs) := by
  induction xs with
  | nil => exact keeps_pure
  | cons x xs ih => exact keeps_get fun _ _ => keeps_if ((keeps_asTileSave keeps_areaWrite).bind fun _ =>
      keeps_modifyTiles.bind fun _ => ih) ih

@[simp] theorem keeps_claim : Keeps M.claim :=
  keeps_get fun _ _ => keeps_if (keeps_when keeps_spill fun _ => keeps_modifyTiles) keeps_pure

@[simp] theorem keeps_fillTile {a slot i} : Keeps (M.fillTile a slot i) :=
  keeps_get fun _ _ => keeps_if (keeps_areaRead.bind fun _ => keeps_modifyTiles) keeps_pure

@[simp] theorem keeps_readTile {i} : Keeps (M.readTile i) :=
  keeps_claim.bind fun _ => keeps_get fun _ _ => (keeps_asTileSave keeps_fillTile).bind fun _ => keeps_get fun _ _ =>
    keeps_pure

@[simp] theorem keeps_putTile {core i x} : Keeps (M.putTile core i x) := by simp [M.putTile]

@[simp] theorem keeps_tileOrder {i write} : Keeps (M.tileOrder i write) :=
  keeps_get fun _ _ => keeps_if keeps_wait keeps_pure

theorem canonical_execTzero {s : State} {d} (h : Mem.wf s.mem) : Canonical (execTzero d s) :=
  canonical_vissue h <| canonical_runM h <| keeps_tileOrder.bind fun _ => keeps_claim.bind fun _ => keeps_get fun _ _ =>
    keeps_putTile.bind fun _ => keeps_done

@[simp] theorem keeps_rowPlace {k va n j} : Keeps (M.rowPlace k va n j) := keeps_get fun _ _ => keeps_bulkPlace

@[simp] theorem keeps_rowLoad {base stride j} : Keeps (M.rowLoad base stride j) := by
  refine (keeps_mapM fun _ => ?_).bind fun _ => keeps_pure
  split
  refine keeps_rowPlace.bind fun p => ?_
  extract_lets read
  have hread : ∀ r, Keeps (read r) := by
    refine fun _ => keeps_read.bind fun _ => ?_
    split
    exact keeps_when keeps_trap fun _ => keeps_pure
  cases p with
  | window off => exact keeps_trap.bind hread
  | mem key lossy how region => exact hread ()
  | carve c off => exact hread ()

@[simp] theorem keeps_rowsLoad {base stride} : ∀ {n j}, Keeps (M.rowsLoad base stride n j) := by
  intro n
  induction n with
  | zero => exact keeps_pure
  | succ n ih =>
    intro j
    unfold M.rowsLoad
    refine (keeps_attempt keeps_rowLoad).bind fun r => ?_
    split
    · exact keeps_pure
    · exact ih.bind fun _ => keeps_pure

@[simp] theorem keeps_rowAlign {base stride} : Keeps (M.rowAlign base stride) := keeps_if keeps_trap keeps_pure

theorem canonical_execTld {s : State} {d a b n} (h : Mem.wf s.mem) : Canonical (execTld d a b n s) := by
  refine canonical_vissue h <| canonical_runM h <| keeps_me.bind fun t => keeps_rowAlign.bind fun _ =>
    keeps_tileOrder.bind fun _ => keeps_claim.bind fun _ => keeps_rowsLoad.bind fun _ => ?_
  split
  extract_lets whole last put
  have hlast : ∀ r, Keeps (last r) := by
    intro r
    simp only [last]
    split
    · exact keeps_trap
    · exact keeps_done
  have hput : ∀ old, Keeps (put old) := fun _ => keeps_get fun _ _ => keeps_when keeps_putTile hlast
  exact keeps_if (keeps_pure.bind hput) (keeps_readTile.bind hput)

@[simp] theorem keeps_rowPlaces {base stride j} : Keeps (M.rowPlaces base stride j) := by
  refine keeps_mapM fun _ => ?_
  split
  · refine keeps_rowPlace.bind fun p => ?_
    split
    · exact keeps_trap.bind fun _ => keeps_pure
    · exact keeps_pure

@[simp] theorem keeps_rowsPlaces {base stride} : ∀ {n j}, Keeps (M.rowsPlaces base stride n j) := by
  intro n
  induction n with
  | zero => exact keeps_pure
  | succ n ih =>
    intro j
    unfold M.rowsPlaces
    refine (keeps_attempt keeps_rowPlaces).bind fun r => ?_
    split
    · exact keeps_pure
    · exact ih.bind fun _ => keeps_pure

theorem canonical_execTst {s : State} {d a b n} (h : Mem.wf s.mem) : Canonical (execTst d a b n s) := by
  refine canonical_vissue h <| canonical_runM h <| keeps_me.bind fun t => keeps_rowAlign.bind fun _ =>
    keeps_tileOrder.bind fun _ => keeps_rowsPlaces.bind fun _ => ?_
  split
  · exact keeps_get fun _ _ => keeps_when keeps_slotCheck fun _ => keeps_readTile.bind fun x => keeps_get fun _ _ =>
      keeps_storeBatches.bind fun _ => keeps_if keeps_finish keeps_pure

theorem canonical_execTmovvt {s : State} {d a b} (h : Mem.wf s.mem) : Canonical (execTmovvt d a b s) :=
  canonical_vissue h <| canonical_runM h <| keeps_tileOrder.bind fun _ => keeps_readTile.bind fun _ =>
    keeps_me.bind fun _ => keeps_get fun _ _ => keeps_putTile.bind fun _ => keeps_done

theorem canonical_execTmovtv {s : State} {d a b} (h : Mem.wf s.mem) : Canonical (execTmovtv d a b s) :=
  canonical_vissue h <| canonical_runM h <| keeps_tileOrder.bind fun _ => keeps_readTile.bind fun _ =>
    keeps_modifyMe.bind fun _ => keeps_done

theorem canonical_execTopa {s : State} {d a b z} (h : Mem.wf s.mem) : Canonical (execTopa d a b z s) :=
  canonical_vissue h <| canonical_runM h <| keeps_tileOrder.bind fun _ => keeps_claim.bind fun _ =>
    keeps_if (keeps_pure.bind fun _ => keeps_me.bind fun _ => keeps_when keeps_trap fun _ => keeps_get fun _ _ =>
    keeps_putTile.bind fun _ => keeps_modifyMe.bind fun _ => keeps_done) (keeps_readTile.bind fun _ =>
    keeps_me.bind fun _ => keeps_when keeps_trap fun _ => keeps_get fun _ _ => keeps_putTile.bind fun _ =>
    keeps_modifyMe.bind fun _ => keeps_done)

theorem canonical_execTsave {s : State} {r} (h : Mem.wf s.mem) : Canonical (execTsave r s) :=
  canonical_vissue h <| canonical_runM h <| keeps_get fun _ _ => keeps_if ((keeps_forM fun _ =>
    keeps_tileOrder).bind fun _ => keeps_spill.bind fun _ => keeps_when keeps_modifyTiles fun _ => keeps_done) keeps_done

@[simp] theorem keeps_fillAll : Keeps M.fillAll := by
  refine keeps_get fun _ _ => (keeps_attempt <| keeps_forM fun _ => keeps_readTile.map).bind fun _ => ?_
  split
  · exact keeps_pure
  · exact keeps_modifyTiles.bind fun _ => keeps_trap

theorem canonical_execTrestore {s : State} (h : Mem.wf s.mem) : Canonical (execTrestore s) :=
  canonical_vissue h <| canonical_runM h <| (keeps_forM fun _ => keeps_tileOrder).bind fun _ => keeps_claim.bind fun _ =>
    keeps_fillAll.bind fun _ => keeps_done

/-! ## The mill's commands (`Machine/Mill`) -/

@[simp] theorem grantTo_mem (s : State) (c l) : (s.grantTo c l).mem = s.mem := by
  unfold State.grantTo
  dsimp only
  split <;> simp

@[simp] theorem leaseGrant_mem (s : State) (cl) : (s.leaseGrant cl).mem = s.mem := by
  unfold State.leaseGrant
  dsimp only
  split <;> simp

@[simp] theorem keeps_saveArea {base n} : Keeps (M.saveArea base n) := by
  refine keeps_when keeps_trap fun _ => keeps_mapM fun _ => ?_
  split
  · split
    · exact keeps_trap
    · exact keeps_trap
    · refine keeps_get fun _ _ => keeps_translate.bind fun _ => ?_
      split
      · exact keeps_pure
      · exact keeps_trap

theorem canonical_execMlease {s : State} {d a b w} (h : Mem.wf s.mem) : Canonical (execMlease d a b w s) :=
  canonical_unitIssue h <| canonical_runM h <| keeps_get fun s hs => keeps_if (keeps_modifyMe.bind fun _ =>
    keeps_done) (keeps_if (keeps_modifyMe.bind fun _ => keeps_done) (keeps_if (keeps_modifyMe.bind fun _ =>
    keeps_done) (keeps_saveArea.bind fun pages => keeps_get fun s hs =>
    keeps_if (keeps_if (keeps_set_bind (by simp [hs]) fun _ => keeps_modifyMe.bind fun _ =>
    keeps_done) (keeps_modifyMe.bind fun _ => keeps_done)) (keeps_set_bind (by simp [hs]) fun _ => keeps_modifyMe))))

@[simp] theorem keeps_lease {fn} : Keeps (M.lease fn) := by
  refine keeps_get fun _ _ => keeps_when keeps_wait fun _ => ?_
  split
  · exact keeps_pure
  · split <;> exact keeps_trap

@[simp] theorem keeps_modifyOwn {f} : Keeps (M.modifyOwn f) := keeps_modify fun s h => by simp [h]
@[simp] theorem keeps_enqueue3 {op memory} : Keeps (M.enqueue3 op memory) := keeps_get fun s hs => keeps_set <| by simp [hs]

@[simp] theorem keeps_release : Keeps M.release :=
  keeps_get fun _ _ => keeps_if (keeps_when keeps_wait fun _ => keeps_enqueue3.bind fun _ => keeps_modifyOwn) keeps_pure

theorem canonical_execMfmt {s : State} {a} (h : Mem.wf s.mem) : Canonical (execMfmt a s) :=
  canonical_unitIssue h <| canonical_runM h <| keeps_lease.bind fun _ => keeps_me.bind fun _ =>
    keeps_when keeps_illegal fun _ => keeps_enqueue3.bind fun _ => keeps_done

@[simp] theorem keeps_plantTag {p request eb} : Keeps (M.plantTag p request eb) := by
  refine keeps_if keeps_pure <| keeps_get fun _ _ => ?_
  dsimp only
  split
  · exact keeps_pure
  · refine keeps_when keeps_trap fun _ => ?_
    split
    · split <;> exact keeps_pure
    · exact keeps_pure

@[simp] theorem keeps_descWord {base i} : Keeps (M.descWord base i) := by
  refine keeps_get fun _ _ => keeps_check.bind fun p => keeps_read.bind fun _ => ?_
  split
  · exact keeps_when keeps_trap fun _ => keeps_pure

theorem canonical_execPlant {s : State} {a b t} (h : Mem.wf s.mem) : Canonical (execPlant a b t s) := by
  refine canonical_unitIssue h <| canonical_runM h <| keeps_lease.bind fun l => keeps_me.bind fun me =>
    keeps_when keeps_trap fun _ => keeps_when keeps_trap fun _ => keeps_descWord.bind fun src =>
    keeps_descWord.bind fun pitch => keeps_descWord.bind fun dims => keeps_descWord.bind fun aux => keeps_get fun _ _ =>
    keeps_when keeps_illegal fun _ => keeps_plantTag.bind fun _ => ?_
  split
  · exact keeps_if ((keeps_forM fun _ => keeps_tileOrder).bind fun _ => keeps_claim.bind fun _ =>
      keeps_enqueue3.bind fun _ => keeps_modifyOwn.bind fun _ => keeps_done) (keeps_enqueue3.bind fun _ =>
      keeps_modifyOwn.bind fun _ => keeps_done)

@[simp] theorem keeps_blocks {l gb fn} : Keeps (M.blocks l gb fn) := keeps_when keeps_trap fun _ => keeps_pure

@[simp] theorem keeps_versionCheck {l trays} : Keeps (M.versionCheck l trays) := by
  refine keeps_get fun _ _ => ?_
  split
  · exact keeps_pure
  · exact keeps_trap

@[simp] theorem keeps_mmaChecks {l d gb fn rowFits} : Keeps (M.mmaChecks l d gb fn rowFits) := by
  refine keeps_when keeps_trap fun _ => keeps_blocks.bind fun _ => ?_
  split
  · exact keeps_when keeps_trap fun _ => keeps_get fun _ _ => keeps_when keeps_trap fun _ => keeps_pure

theorem canonical_execMma {s : State} {d a b n z r} (h : Mem.wf s.mem) : Canonical (execMma d a b n z r s) := by
  refine canonical_unitIssue h <| canonical_runM h <| keeps_lease.bind fun l => keeps_get fun _ _ => keeps_me.bind fun _ =>
    keeps_mmaChecks.bind fun _ => ?_
  split
  · exact keeps_tileOrder.bind fun _ => keeps_readTile.map.bind fun _ => keeps_versionCheck.bind fun _ =>
      keeps_enqueue3.bind fun _ => keeps_done

@[simp] theorem keeps_rowsAligned {base pitch rows sz} : Keeps (M.rowsAligned base pitch rows sz) := by
  unfold M.rowsAligned
  split
  · exact keeps_trap
  · exact keeps_pure

theorem canonical_execMmas {s : State} {d a b n z r} (h : Mem.wf s.mem) : Canonical (execMmas d a b n z r s) := by
  refine canonical_unitIssue h <| canonical_runM h <| keeps_lease.bind fun l => keeps_me.bind fun t =>
    keeps_mmaChecks.bind fun _ => ?_
  split
  · exact keeps_versionCheck.bind fun _ => keeps_rowsAligned.bind fun _ => keeps_enqueue3.bind fun _ => keeps_done

theorem canonical_execMzero {s : State} {d} (h : Mem.wf s.mem) : Canonical (execMzero d s) :=
  canonical_unitIssue h <| canonical_runM h <| keeps_lease.bind fun _ => keeps_when keeps_trap fun _ =>
    keeps_enqueue3.bind fun _ => keeps_done

theorem canonical_execMdrain {s : State} {d a b r c k} (h : Mem.wf s.mem) : Canonical (execMdrain d a b r c k s) := by
  refine canonical_unitIssue h <| canonical_runM h <| keeps_lease.bind fun l => keeps_me.bind fun t =>
    keeps_when keeps_trap fun _ => keeps_blocks.bind fun _ => ?_
  split
  · refine keeps_get fun _ _ => ?_
    split
    · exact keeps_when keeps_trap fun _ => keeps_tileOrder.bind fun _ => keeps_claim.bind fun _ =>
        keeps_enqueue3.bind fun _ => keeps_modifyMe.bind fun _ => keeps_done
    · exact keeps_rowsAligned.bind fun _ => keeps_enqueue3.bind fun _ => keeps_modifyMe.bind fun _ => keeps_done

theorem canonical_execMchain {s : State} {d a b c} (h : Mem.wf s.mem) : Canonical (execMchain d a b c s) :=
  canonical_unitIssue h <| canonical_runM h <| keeps_me.bind fun _ => keeps_when keeps_wait fun _ =>
    keeps_lease.bind fun _ => keeps_me.bind fun _ => keeps_when keeps_trap fun _ => keeps_when keeps_trap fun _ =>
    keeps_enqueue3.bind fun _ => keeps_modifyMe.bind fun _ => keeps_done

/-! ## The mill at work (`Machine/MillRun`) -/

@[simp] theorem keeps_setCur {k} : Keeps (modify fun s => { s with cur := k }) := fun _ h => h

theorem keeps_asStrand {α : Type} {k} {m : M α} (hm : Keeps m) : Keeps (M.asStrand k m) := by
  refine keeps_get fun s _ => keeps_setCur.bind fun _ =>
    (keeps_tryCatch (hm.bind fun _ => keeps_pure) fun _ => keeps_pure).bind fun r => keeps_setCur.bind fun _ => ?_
  split
  · exact keeps_pure
  · exact keeps_throw

@[simp] theorem keeps_modifyLease {core f} : Keeps (M.modifyLease core f) := keeps_modify fun s h => by simp [h]
@[simp] theorem keeps_modifyHead {core f} : Keeps (M.modifyHead core f) := keeps_modify fun s h => by simp [h]

@[simp] theorem keeps_modifyIssuer {core c f} : Keeps (M.modifyIssuer core c f) :=
  keeps_if (keeps_modify fun s h => by simp [h]) keeps_pure

@[simp] theorem keeps_millFlags {core c fl} : Keeps (M.millFlags core c fl) := keeps_if keeps_modifyIssuer keeps_pure

@[simp] theorem keeps_queueTile {a slot i r n} : Keeps (M.queueTile a slot i r n) :=
  keeps_get fun _ _ => keeps_if (keeps_fillTile.bind fun _ => keeps_get fun _ _ => keeps_pure) keeps_areaRead

@[simp] theorem keeps_queueTilePut {a slot i r bs} : Keeps (M.queueTilePut a slot i r bs) :=
  keeps_get fun _ _ => keeps_if (keeps_fillTile.bind fun _ => keeps_get fun _ _ => keeps_putTile) keeps_areaWrite

@[simp] theorem keeps_areaBytes {l off n} : Keeps (M.areaBytes l off n) :=
  keeps_get fun _ _ => keeps_mapM fun _ => keeps_when keeps_trap fun _ => keeps_pure

@[simp] theorem keeps_areaPut {l off bs} : Keeps (M.areaPut l off bs) :=
  keeps_modify fun s h => wf_foldl (fun s x hx => by simp [hx]) _ h

@[simp] theorem keeps_readNeeded {a need off xs} : Keeps (M.readNeeded a need off xs) := by
  induction xs generalizing off with
  | nil => exact keeps_pure
  | cons x xs ih => exact keeps_if (keeps_readBytes.bind fun _ => ih.bind fun _ => keeps_pure) (keeps_pure.bind fun _ =>
      ih.bind fun _ => keeps_pure)

@[simp] theorem keeps_plantRow {l p fmt a src t row need} : Keeps (M.plantRow l p fmt a src t row need) := by
  unfold M.plantRow
  split
  · refine keeps_if keeps_pure ?_
    split
    · split
      · exact keeps_areaBytes.bind fun bs => keeps_areaPut.bind fun _ => keeps_pure
      · exact keeps_queueTile.bind fun bs => keeps_pure.bind fun bs => keeps_areaPut.bind fun _ => keeps_pure
      · exact keeps_readNeeded.bind fun bs => keeps_areaPut.bind fun _ => keeps_pure
    · split
      · exact keeps_areaBytes.bind fun bs => keeps_pure
      · exact keeps_queueTile.bind fun bs => keeps_pure.bind fun bs => keeps_pure
      · exact keeps_readNeeded.bind fun bs => keeps_pure

@[simp] theorem keeps_auxRow {l p a t i} : Keeps (M.auxRow l p a t i) := by
  unfold M.auxRow
  split
  · exact keeps_if keeps_pure (keeps_readBytes.bind fun bs => keeps_pure)

@[simp] theorem keeps_denseUnit {l p fmt a src t u} : Keeps (M.denseUnit l p fmt a src t u) :=
  (keeps_mapM fun _ => keeps_plantRow).bind fun _ => keeps_if (keeps_auxRow.bind fun _ =>
    keeps_pure) (keeps_pure.bind fun _ => keeps_pure)

@[simp] theorem keeps_sparseUnit {l p fmt a src t u} : Keeps (M.sparseUnit l p fmt a src t u) :=
  (keeps_mapM fun _ => keeps_if keeps_auxRow keeps_pure).bind fun _ => (keeps_mapM fun _ =>
    keeps_plantRow).bind fun _ => keeps_pure

@[simp] theorem keeps_plantUnit {core l p fmt a src t u} : Keeps (M.plantUnit core l p fmt a src t u) :=
  keeps_if (keeps_denseUnit.bind fun _ => keeps_modifyLease.bind fun _ => keeps_pure) (keeps_sparseUnit.bind fun _ =>
    keeps_modifyLease.bind fun _ => keeps_pure)

@[simp] theorem keeps_plantStep {core l c p} : Keeps (M.plantStep core l c p) :=
  keeps_get fun _ _ => keeps_plantUnit.bind fun _ => keeps_millFlags.bind fun _ => keeps_modifyHead.bind fun _ =>
    keeps_if (keeps_modifyLease.bind fun _ => keeps_pure) keeps_pure

@[simp] theorem keeps_replay {core r} : Keeps (M.replay core r) := by
  refine keeps_get fun _ _ => ?_
  split
  · exact keeps_pure
  · exact keeps_portOpen.bind fun _ => keeps_when keeps_modifyLease fun _ => keeps_forM fun _ =>
      keeps_if (keeps_modifyLease.bind fun _ => keeps_plantUnit.map) keeps_pure

@[simp] theorem keeps_areaFmt {l} : Keeps (M.areaFmt l) :=
  (keeps_areaBytes.bind fun _ => keeps_pure).bind fun _ => (keeps_areaBytes.bind fun _ => keeps_pure).bind fun _ =>
    (keeps_areaBytes.bind fun _ => keeps_pure).bind fun _ => (keeps_areaBytes.bind fun _ => keeps_pure).bind fun _ =>
    (keeps_areaBytes.bind fun _ => keeps_pure).bind fun _ => keeps_pure

@[simp] theorem keeps_replant {core} : Keeps (M.replant core) := by
  refine keeps_get fun _ _ => ?_
  split
  · exact keeps_pure
  · refine keeps_modifyLease.bind fun _ => (keeps_forM fun _ => keeps_replay).bind fun _ => ?_
    refine keeps_if ?_ keeps_modifyLease
    refine Keeps.bind ?_ fun vs => ?_
    · refine keeps_mapM fun _ => ?_
      split
      · exact keeps_areaBytes.bind fun _ => keeps_pure
    · exact keeps_areaFmt.bind fun fmt => keeps_modifyLease.bind fun _ => keeps_modifyLease

theorem keeps_mmaStep {core l c acc c0 nc rows neg za read} (hr : ∀ i n, Keeps (read i n)) :
    Keeps (M.mmaStep core l c acc c0 nc rows neg za read) := by
  refine (hr _ _).bind fun bs => ?_
  split
  · exact keeps_modifyLease.bind fun _ => keeps_millFlags.bind fun _ => keeps_modifyHead.bind fun _ => keeps_pure

@[simp] theorem giveToken_mem (s : State) (core slot part reg w) : (s.giveToken core slot part reg w).mem = s.mem := by
  simp [State.giveToken]

theorem keeps_drainStep {core l c acc c0 nc rows clr token write} (hw : ∀ i bs, Keeps (write i bs)) :
    Keeps (M.drainStep core l c acc c0 nc rows clr token write) := by
  refine keeps_if (keeps_when (keeps_modify fun s h => by simp [h]) fun _ => keeps_pure) ?_
  exact (hw _ _).bind fun _ => keeps_modifyLease.bind fun _ => keeps_millFlags.bind fun _ => keeps_modifyHead.bind fun _ =>
    keeps_pure

@[simp] theorem keeps_millStep {core l c} : Keeps (M.millStep core l c) := by
  refine keeps_get fun s _ => keeps_when keeps_portOpen fun _ => ?_
  split
  · exact (keeps_modify fun s h => by simp [h]).bind fun _ => keeps_pure
  · exact keeps_modifyLease.bind fun _ => keeps_pure
  · exact keeps_plantStep
  · exact keeps_mmaStep fun _ _ => keeps_queueTile
  · exact keeps_mmaStep fun _ _ => keeps_readBytes
  · exact keeps_modifyLease.bind fun _ => keeps_pure
  · exact keeps_drainStep fun _ _ => keeps_bulkSend
  · exact keeps_drainStep fun _ _ => keeps_queueTilePut.bind fun _ => keeps_pure
  · exact keeps_modifyIssuer.bind fun _ => keeps_modifyLease.bind fun _ => keeps_pure
  · refine keeps_if ?_ ?_
    · exact keeps_modifyLease.bind fun _ => keeps_millFlags.bind fun _ => keeps_modifyHead.bind fun _ => keeps_pure
    · exact keeps_get fun s _ => keeps_when keeps_wait fun _ => (keeps_modify fun s h => by simp [h]).bind fun _ =>
        keeps_pure

@[simp] theorem millFault_mem (s : State) (core slot fn j seq part dead e) :
    (s.millFault core slot fn j seq part dead e).mem = s.mem := by
  simp [State.millFault]

@[simp] theorem wf_runEngine {α : Type} {s : State} {m : M α} (hm : Keeps m) (h : Mem.wf s.mem) :
    Mem.wf (s.runEngine m).2.mem :=
  hm s h

@[simp] theorem wf_millPerform {s : State} {core} (h : Mem.wf s.mem) : Mem.wf (s.millPerform core).mem := by
  have hr : ∀ l : Lease, Mem.wf (s.runEngine (M.asStrand (core * 4 + l.slot) (M.replant core))).2.mem :=
    fun l => wf_runEngine (keeps_asStrand keeps_replant) h
  have hm : ∀ (l : Lease) (x : MillCmd), Mem.wf (s.runEngine (M.asStrand (core * 4 + x.slot) (M.millStep core l x))).2.mem
    = true :=
    fun l x => wf_runEngine (keeps_asStrand keeps_millStep) h
  unfold State.millPerform
  dsimp only
  split
  · exact h
  · split
    · exact h
    · split
      · split
        · exact wf_snd ‹_› (hr _)
        · exact h
        · have ht := wf_snd ‹_› (hr _)
          split <;> simp [ht]
      · split
        · exact h
        · split
          · exact h
          · split
            · exact h
            · simp [wf_snd ‹_› (hm _ _)]
            · exact wf_snd ‹_› (hm _ _)
            · simp [wf_snd ‹_› (hm _ _)]

@[simp] theorem wf_millDeparted {s : State} {core} (h : Mem.wf s.mem) : Mem.wf (s.millDeparted core).mem := by
  refine wf_foldl (fun s x hx => ?_) _ h
  split
  · exact hx
  · split <;> simp [hx]

@[simp] theorem keeps_displace {core} : Keeps (M.displace core) := by
  refine keeps_get fun _ _ => ?_
  split
  · exact keeps_pure
  · exact keeps_areaPut.bind fun _ => (keeps_forM fun _ => by simp).bind fun _ => keeps_modifyLease

@[simp] theorem wf_budgetExpiry {s : State} {core} (h : Mem.wf s.mem) : Mem.wf (s.budgetExpiry core).mem := by
  unfold State.budgetExpiry
  dsimp only
  split <;> simp [h]

@[simp] theorem mchainLanding_mem (s : State) (k reg) : (s.mchainLanding k reg).mem = s.mem := by
  unfold State.mchainLanding
  dsimp only
  split <;> rfl

/-! ## Copy queues and collectives (`Machine/Queue`) -/

@[simp] theorem keeps_enqueue {q e} : Keeps (M.enqueue q e) :=
  keeps_get fun s hs => keeps_set_bind (by simp [hs]) fun _ => keeps_modifyMe

theorem canonical_copyRequest {s : State} {w busy d a} (h : Mem.wf s.mem) : Canonical (copyRequest w busy d a s) :=
  canonical_unitIssue h <| canonical_runM h <| keeps_get fun _ _ => keeps_when keeps_illegal fun _ =>
    keeps_if (keeps_when keeps_wait fun _ => keeps_modifyMe.bind fun _ => keeps_done) (keeps_enqueue.bind fun _ =>
    keeps_done)

theorem canonical_execQfence {s : State} {m} (h : Mem.wf s.mem) : Canonical (execQfence m s) :=
  canonical_unitIssue h <| canonical_runM h <| keeps_get fun _ _ => keeps_when keeps_wait fun _ => keeps_done

theorem canonical_execGcast {s : State} {d a b} (h : Mem.wf s.mem) : Canonical (execGcast d a b s) :=
  canonical_unitIssue h <| canonical_runM h <| keeps_get fun _ _ => keeps_when keeps_illegal fun _ =>
    keeps_when keeps_wait fun _ => keeps_enqueue.bind fun _ => keeps_done

theorem canonical_execMcoll {s : State} {d a b r c} (h : Mem.wf s.mem) : Canonical (execMcoll d a b r c s) :=
  canonical_unitIssue h <| canonical_runM h <| keeps_lease.bind fun _ => keeps_get fun _ _ =>
    keeps_when keeps_trap fun _ => keeps_when keeps_trap fun _ => keeps_when keeps_illegal fun _ =>
    keeps_enqueue3.bind fun _ => keeps_modifyMe.bind fun _ => keeps_done

@[simp] theorem keeps_entryRead {core e parts} : Keeps (M.entryRead core e parts) := by simp [M.entryRead]

@[simp] theorem keeps_pieceData {core e p} : Keeps (M.pieceData core e p) := by
  unfold M.pieceData
  split
  · exact keeps_entryRead
  · exact keeps_pure
  · exact keeps_entryRead.bind fun bs => keeps_entryRead
  · exact keeps_pure
  · exact (keeps_modify fun s h => by simp [h]).bind fun _ => keeps_mapM fun _ => keeps_free.bind fun _ => keeps_pure

@[simp] theorem keeps_edgeBytes {core e vas} : Keeps (M.edgeBytes core e vas) := by
  refine keeps_mapM fun _ => ?_
  split
  · exact keeps_pieceData.bind fun _ => keeps_pure
  · exact keeps_pure

@[simp] theorem keeps_partEdges {core e p va n} : Keeps (M.partEdges core e p va n) := by
  unfold M.partEdges
  split
  · split
    · exact keeps_edgeBytes.bind fun before => keeps_edgeBytes.bind fun behind => keeps_pure
  · exact keeps_pure

@[simp] theorem keeps_homeRoom {part p va n} : Keeps (M.homeRoom part p va n) := by
  unfold M.homeRoom
  split
  · exact keeps_get fun _ _ => keeps_if keeps_trap keeps_pure
  · exact keeps_pure

@[simp] theorem keeps_partWrites {core e bs off xs} : Keeps (M.partWrites core e bs off xs) := by
  induction xs generalizing off with
  | nil => exact keeps_pure
  | cons x xs ih =>
    refine keeps_bulkPlace.bind fun _ => keeps_homeRoom.bind fun _ => keeps_partEdges.bind fun _ => ?_
    exact keeps_get (f := fun _ => _) fun _ _ => ih.bind fun _ => keeps_pure

@[simp] theorem keeps_parcels {core e ps} : Keeps (M.parcels core e ps) := by
  induction ps with
  | nil => exact keeps_pure
  | cons p ps ih =>
    unfold M.parcels
    refine keeps_pieceData.bind fun _ => ?_
    split
    · exact keeps_partWrites.bind fun _ => ih.bind fun _ => keeps_pure
    · exact keeps_pure.bind fun _ => ih.bind fun _ => keeps_pure

@[simp] theorem keeps_sendParcels {core e xs} : Keeps (M.sendParcels core e xs) := by
  induction xs generalizing e with
  | nil => exact keeps_pure
  | cons x xs ih => exact keeps_sendFor.bind fun _ => ih

@[simp] theorem keeps_entryAlign {xs} : Keeps (M.entryAlign xs) := by
  unfold M.entryAlign
  split
  · exact keeps_trap
  · exact keeps_pure

@[simp] theorem keeps_entryBegin {core e} : Keeps (M.entryBegin core e) := by
  refine keeps_if keeps_pure ?_
  split
  · exact keeps_when keeps_entryAlign fun _ => keeps_pure
  · exact keeps_when keeps_entryAlign fun _ => keeps_pure
  · exact keeps_when keeps_entryAlign fun _ => keeps_pure
  · exact keeps_if keeps_pure (keeps_entryAlign.bind fun _ => keeps_entryRead.bind fun _ => keeps_when keeps_trap fun _ =>
      keeps_entryAlign.bind fun _ => keeps_pure)
  · exact keeps_if keeps_pure (keeps_entryAlign.bind fun _ => keeps_entryRead.bind fun _ => keeps_when keeps_trap fun _ =>
      keeps_entryAlign.bind fun _ => keeps_pure)
  · exact keeps_pure

@[simp] theorem keeps_remoteCheck {e n} : Keeps (M.remoteCheck e n) :=
  keeps_if (keeps_when keeps_trap fun _ => keeps_when keeps_trap fun _ => keeps_get fun _ _ =>
    keeps_when keeps_trap fun _ => keeps_free.bind fun _ => keeps_if keeps_trap keeps_pure) keeps_pure

@[simp] theorem keeps_chunkStep {core e} : Keeps (M.chunkStep core e) := by
  refine keeps_portOpen.bind fun _ => keeps_entryBegin.bind fun e => ?_
  split
  · exact keeps_remoteCheck.bind fun _ => keeps_parcels.bind fun parcels => keeps_sendParcels.bind fun e =>
      (keeps_modify fun s h => by simp [h]).bind fun _ => keeps_pure

@[simp] theorem setHead_mem (s : State) (core n e) : (s.setHead core n e).mem = s.mem := by rfl

@[simp] theorem wf_logFault {s : State} {husk addr word cause source queue slot reg} (h : Mem.wf s.mem) :
    Mem.wf (s.logFault husk addr word cause source queue slot reg).mem := by
  unfold State.logFault
  dsimp only
  split
  · simp [h]
  · exact wf_writePa <| wf_foldl (fun s x hx => by simp [hx]) _ h

@[simp] theorem wf_noteFault {s : State} {core n e x word} (h : Mem.wf s.mem) :
    Mem.wf (s.noteFault core n e x word).mem := by
  unfold State.noteFault
  dsimp only
  split
  · simp [h]
  · split <;> simp [h]

@[simp] theorem wf_entryFault {s : State} {core n e x} (h : Mem.wf s.mem) : Mem.wf (s.entryFault core n e x).mem := by
  simp [State.entryFault, h]

@[simp] theorem settleEntry_mem (s : State) (core e) : (s.settleEntry core e).1.mem = s.mem := by
  unfold State.settleEntry
  generalize hx : (s, e) = x
  have hs : x.1.mem = s.mem := by rw [← hx]
  clear hx
  generalize e.dests = ds
  induction ds generalizing x with
  | nil => exact hs
  | cons d ds ih =>
    refine ih _ ?_
    dsimp only
    split <;> simp [hs]

@[simp] theorem settle_mem (s : State) (core n e) : (s.settle core n e).1.mem = s.mem := by simp [State.settle]

@[simp] theorem wf_writeChain {s : State} {hs} (h : Mem.wf s.mem) : Mem.wf (s.writeChain hs).mem := by
  induction hs generalizing s with
  | nil => exact h
  | cons x hs ih =>
    cases hs with
    | nil => exact wf_writePa h
    | cons y hs => exact ih (wf_writePa h)

@[simp] theorem wf_linkChain {s : State} {core} (h : Mem.wf s.mem) : Mem.wf (s.linkChain core).mem := by
  simp [State.linkChain, h]

@[simp] theorem wf_unlive {s : State} {core i} (h : Mem.wf s.mem) : Mem.wf (s.unlive core i).mem := by
  unfold State.unlive
  split <;> simp [h]

@[simp] theorem wf_completeEntry {s : State} {core n e status} (h : Mem.wf s.mem) :
    Mem.wf (s.completeEntry core n e status).mem := by
  simp [State.completeEntry, h]

@[simp] theorem wf_copyChunk {s : State} {core n} (h : Mem.wf s.mem) : Mem.wf (s.copyChunk core n).mem := by
  unfold State.copyChunk
  split
  · exact h
  · split
    · exact h
    · have hs : ∀ e, Mem.wf (s.settle core n e).1.mem := fun e => by simp [h]
      dsimp only
      split
      · split <;> simp [h]
      · split
        · exact hs _
        · split
          · simp [wf_snd ‹_› (wf_runEngine keeps_chunkStep (hs _))]
          · exact hs _
          · exact wf_entryFault (wf_snd ‹_› (wf_runEngine keeps_chunkStep (hs _)))

@[simp] theorem keeps_contribution {m} : Keeps (M.contribution m) := by
  refine keeps_portOpen.bind fun _ => ?_
  split
  · exact keeps_pure
  · exact keeps_entryRead

@[simp] theorem mapMember_mem (s : State) (m f) : (s.mapMember m f).mem = s.mem := by rfl
@[simp] theorem collFail_mem (s : State) (ms) : (s.collFail ms).mem = s.mem := by simp [State.collFail]

theorem keeps_tryMembers {α : Type} {f : Member → M α} (hf : ∀ m, Keeps (f m)) : ∀ {ms}, Keeps (M.tryMembers f ms) := by
  intro ms
  induction ms with
  | nil => exact keeps_pure
  | cons m ms ih =>
    unfold M.tryMembers
    refine (keeps_attempt (hf m)).bind fun r => ?_
    split
    · exact keeps_pure
    · refine ih.bind fun r => ?_
      split <;> exact keeps_pure

@[simp] theorem wf_collFault {s : State} {ms bad x} (h : Mem.wf s.mem) : Mem.wf (s.collFault ms bad x).mem := by
  simp [State.collFault, h]

@[simp] theorem keeps_collWrite {ms results} : Keeps (M.collWrite ms results) := by
  refine (keeps_tryMembers fun _ => keeps_partWrites.bind fun _ => keeps_pure).bind fun places => ?_
  split
  · exact keeps_pure
  · refine (keeps_forM fun _ => ?_).bind fun _ => keeps_pure
    split
    exact keeps_sendParcels.bind fun e => keeps_modify fun s h => by simp [h]

theorem wf_collPerform {s : State} {ms} (h : Mem.wf s.mem) {x} (e : s.collPerform ms = some x) : Mem.wf x.mem := by
  unfold State.collPerform at e
  split at e
  · cases e
    simp [h]
  · dsimp only at e
    split at e
    · cases e
    · cases e
      exact wf_collFault (wf_snd ‹_› (wf_runEngine (keeps_tryMembers fun _ => keeps_contribution) h))
    · have hc := wf_snd ‹_› (wf_runEngine (keeps_tryMembers fun _ => keeps_contribution) h)
      split at e
      · cases e
      · cases e
        exact wf_collFault (wf_snd ‹_› (wf_runEngine keeps_collWrite hc))
      · cases e
        exact wf_snd ‹_› (wf_runEngine keeps_collWrite hc)

theorem wf_collStep {s : State} {m} (h : Mem.wf s.mem) {x} (e : s.collStep m = some x) : Mem.wf x.mem := by
  unfold State.collStep at e
  split at e
  · split at e
    · cases e
      simp [h]
    · cases e
  · obtain ⟨ms, -, e⟩ := Option.bind_eq_some_iff.mp e
    split at e
    · exact wf_collPerform h e
    · cases e

@[simp] theorem wf_collectivePerform {s : State} {cl} (h : Mem.wf s.mem) : Mem.wf (s.collectivePerform cl).mem := by
  unfold State.collectivePerform
  cases e : (s.clusterColls cl).findSome? s.collStep with
  | none => exact h
  | some t =>
    obtain ⟨m, -, hm⟩ := List.exists_of_findSome?_eq_some e
    exact wf_collStep h hm

/-! ## Waits and fences (`Machine/Sync`) -/

theorem canonical_barIssue {s : State} {w reads writes k} (h : Mem.wf s.mem) (hk : Canonical (k s)) :
    Canonical (barIssue w reads writes k s) :=
  canonical_if (canonical_raise h) (canonical_issue h hk)

theorem canonical_execBinit {s : State} {a} (h : Mem.wf s.mem) : Canonical (execBinit a s) :=
  canonical_barIssue h <| canonical_runM h <| keeps_get fun s hs => keeps_when keeps_illegal fun _ =>
    keeps_set_bind (by simp [hs]) fun _ => keeps_done

theorem canonical_execBarr {s : State} {d a c} (h : Mem.wf s.mem) : Canonical (execBarr d a c s) :=
  canonical_barIssue h <| canonical_runM h <| keeps_signalWait.bind fun _ => keeps_fencePast.bind fun _ =>
    keeps_get fun _ _ => keeps_send.bind fun _ => keeps_modifyMe.bind fun _ => keeps_done

theorem canonical_execBexp {s : State} {d a r} (h : Mem.wf s.mem) : Canonical (execBexp d a r s) :=
  canonical_barIssue h <| canonical_runM h (keeps_if (keeps_signalWait.bind fun _ => keeps_fencePast.bind fun _ =>
    keeps_get fun _ _ => keeps_send.bind fun _ => keeps_modifyMe) (keeps_get fun _ _ => keeps_send.bind fun _ =>
    keeps_modifyMe))

@[simp] theorem keeps_bexpFinish {d a r} : Keeps (bexpFinish d a r) := by
  refine keeps_get fun _ _ => ?_
  split
  · exact keeps_modifyMe.bind fun _ => keeps_done
  · exact keeps_trap
  · exact keeps_trap

@[simp] theorem keeps_sleep {w} : Keeps (M.sleep w) := by simp [M.sleep]

@[simp] theorem keeps_bwaitLoop {d a} : Keeps (bwaitLoop d a) :=
  keeps_get fun _ _ => keeps_if keeps_sleep (keeps_acquireWait.bind fun _ => keeps_modifyMe.bind fun _ => keeps_done)

theorem canonical_execBtestCnt {s : State} {d a} (h : Mem.wf s.mem) : Canonical (execBtestCnt d a s) :=
  canonical_barIssue h <| canonical_runM h <| keeps_get fun _ _ => keeps_when keeps_wait fun _ =>
    keeps_askUnit.bind fun _ => keeps_when keeps_wait fun _ => keeps_modifyMe.bind fun _ => keeps_done

theorem canonical_execBtestFlg {s : State} {d a} (h : Mem.wf s.mem) : Canonical (execBtestFlg d a s) :=
  canonical_barIssue h <| canonical_runM h <| keeps_get fun _ _ => keeps_modifyMe.bind fun _ => keeps_done

@[simp] theorem keeps_defineDomain {w addr j members} : Keeps (M.defineDomain w addr j members) :=
  keeps_get fun s hs => keeps_when keeps_illegal fun _ => keeps_when keeps_trap fun _ =>
    keeps_set_bind (by simp [hs]) fun _ => keeps_done

theorem canonical_execBdomRect {s : State} {a j} (h : Mem.wf s.mem) : Canonical (execBdomRect a j s) := by
  refine canonical_barIssue h <| canonical_runM h <| keeps_me.bind fun _ => ?_
  dsimp only
  split
  · exact keeps_illegal
  · exact keeps_defineDomain

@[simp] theorem keeps_halfword {base i} : Keeps (M.halfword base i) := by
  refine keeps_get fun _ _ => keeps_check.bind fun p => keeps_read.bind fun _ => ?_
  split
  · exact keeps_when keeps_trap fun _ => keeps_pure

theorem canonical_execBdomList {s : State} {a j} (h : Mem.wf s.mem) : Canonical (execBdomList a j s) :=
  canonical_barIssue h <| canonical_runM h <| keeps_me.bind fun _ => keeps_halfword.bind fun _ =>
    keeps_when keeps_illegal fun _ => (keeps_mapM fun _ => keeps_halfword).bind fun _ => keeps_when keeps_illegal fun _ =>
    keeps_defineDomain

@[simp] theorem keeps_lineOf {mutex k ea} : Keeps (M.lineOf mutex k ea) := by
  refine keeps_when keeps_trap fun _ => keeps_get fun _ _ => keeps_translate.bind fun _ => ?_
  split
  · exact keeps_when keeps_trap fun _ => keeps_get fun _ _ => keeps_get fun _ _ => keeps_when keeps_wait fun _ => keeps_pure
  · exact keeps_trap

@[simp] theorem setLine_mem (s : State) (l w) : (s.setLine l w).mem = s.mem := by rfl
@[simp] theorem lineTraffic_mem (s : State) (l back) : (s.lineTraffic l back).mem = s.mem := by simp [State.lineTraffic]

@[simp] theorem keeps_evwaitLoop {d a} : Keeps (evwaitLoop d a) :=
  keeps_me.bind fun _ => keeps_lineOf.bind fun l => keeps_get fun _ h => keeps_me.bind fun _ =>
    keeps_if keeps_sleep (keeps_acquireWait.bind fun _ => (keeps_modify fun s h => by simp [h]).bind fun _ =>
    keeps_modifyMe.bind fun _ => keeps_done)

theorem canonical_execEvsig {s : State} {d a x} (h : Mem.wf s.mem) : Canonical (execEvsig d a x s) :=
  canonical_issue h <| canonical_runM h <| keeps_me.bind fun _ => keeps_lineOf.bind fun _ => keeps_signalWait.bind fun _ =>
    keeps_get fun _ _ => keeps_send.bind fun _ => keeps_done

@[simp] theorem keeps_evlockLoop {d a l t} : Keeps (evlockLoop d a l t) :=
  keeps_get fun s hs => keeps_if (keeps_acquireWait.bind fun _ => keeps_set_bind (by simp [hs]) fun _ =>
    keeps_modifyMe.bind fun _ => keeps_done) keeps_sleep

@[simp] theorem keeps_evlockStart {d a try_} : Keeps (evlockStart d a try_) :=
  keeps_me.bind fun _ => keeps_lineOf.bind fun l => keeps_me.bind fun _ => keeps_if keeps_evlockLoop (keeps_get fun s hs =>
    keeps_if (keeps_modifyMe.bind fun _ => keeps_done) (keeps_set_bind (by simp [hs]) fun _ => keeps_modifyMe.bind fun _ =>
    keeps_evlockLoop))

theorem canonical_execEvunlock {s : State} {a} (h : Mem.wf s.mem) : Canonical (execEvunlock a s) :=
  canonical_issue h <| canonical_runM h <| keeps_me.bind fun _ => keeps_lineOf.bind fun l => keeps_signalWait.bind fun _ =>
    keeps_get fun s hs => keeps_if (keeps_set_bind (by simp [hs]) fun _ => keeps_done) keeps_trap

@[simp] theorem keeps_waitPlace {va elem} : Keeps (M.waitPlace va elem) := by
  refine keeps_get fun _ _ => keeps_check.bind fun _ => ?_
  split
  · exact keeps_if keeps_pure keeps_trap
  · exact keeps_pure

@[simp] theorem keeps_waitvLoop {d a b k l c} : Keeps (waitvLoop d a b k l c) :=
  keeps_me.bind fun _ => (keeps_mapM fun _ => keeps_waitPlace.bind fun _ => keeps_pure).bind fun _ =>
    (keeps_filterM fun _ => keeps_read.bind fun _ => keeps_pure).bind fun _ => keeps_if (keeps_acquireWait.bind fun _ =>
    keeps_modifyMe.bind fun _ => keeps_done) keeps_sleep

@[simp] theorem keeps_fenceWait {sa rel acq c} : Keeps (M.fenceWait sa rel acq c) :=
  keeps_get fun _ _ => keeps_when keeps_wait fun _ => keeps_when keeps_wait fun _ => keeps_when keeps_modifyMe fun _ =>
    keeps_if keeps_wait keeps_pure

/-! ## Region versions (`Machine/Vers`) -/

theorem canonical_partIssue {s : State} {w reads writes k} (h : Mem.wf s.mem) (hk : ∀ p, Canonical (k p s)) :
    Canonical (partIssue w reads writes k s) := by
  unfold partIssue
  split
  · exact canonical_raise h
  · exact canonical_issue h <| hk _

@[simp] theorem wf_setSlotState {s : State} {p r i st} (h : Mem.wf s.mem) : Mem.wf (s.setSlotState p r i st).mem := by
  simp [State.setSlotState, h]

@[simp] theorem wf_retire {s : State} {p} (h : Mem.wf s.mem) : Mem.wf (s.retire p).mem :=
  wf_foldl (fun _ _ hx => wf_setSlotState hx) _ h

@[simp] theorem wf_dropCount {s : State} {p v} (h : Mem.wf s.mem) : Mem.wf (s.dropCount p v).mem := by
  unfold State.dropCount
  split <;> simp [h]

@[simp] theorem wf_releaseAdoption {s : State} {k} (h : Mem.wf s.mem) : Mem.wf (s.releaseAdoption k).mem := by
  unfold State.releaseAdoption
  dsimp only
  split
  · simp [wf_retire, wf_dropCount, h]
  · exact h

@[simp] theorem wf_tokbStep {s : State} {p k} (h : Mem.wf s.mem) : Mem.wf (s.tokbStep p k).1.mem := by
  unfold State.tokbStep
  dsimp only
  split
  · exact h
  · split
    · exact h
    · split
      · exact h
      · refine wf_retire ?_
        simp only [setStrand_mem, ite_mem, wf_ite]
        exact ⟨fun _ => wf_dropCount (wf_setVerField (wf_setVerField h)), fun _ => wf_setVerField (wf_setVerField h)⟩

@[simp] theorem keeps_verTable {p off n} : Keeps (M.verTable p off n) := by
  refine keeps_get fun _ _ => keeps_when keeps_wait fun _ => keeps_if ?_ keeps_pure
  split
  · exact keeps_pure
  · exact keeps_trap

@[simp] theorem keeps_verRegion {p r} : Keeps (M.verRegion p r) := by simp [M.verRegion]

@[simp] theorem keeps_verRetire {p} : Keeps (M.verRetire p) :=
  keeps_verTable.bind fun _ => keeps_forM fun _ => keeps_verRegion

@[simp] theorem keeps_askTable {p} : Keeps (M.askTable p) := by
  refine keeps_get fun _ _ => ?_
  split
  · exact keeps_pure
  · exact keeps_exchange

@[simp] theorem keeps_verLoad {p off} : Keeps (M.verLoad p off) := by
  refine keeps_get fun _ _ => ?_
  split
  · exact keeps_verTable
  · exact keeps_exchange.bind fun _ => keeps_verTable

theorem canonical_execTokb {s : State} {d} (h : Mem.wf s.mem) : Canonical (execTokb d s) := by
  refine canonical_partIssue h fun p => canonical_runM h <| keeps_get fun _ _ => keeps_when keeps_wait fun _ =>
    keeps_askTable.bind fun _ => keeps_verTable.bind fun _ => keeps_get fun _ _ => keeps_when keeps_verRetire fun _ =>
    keeps_get fun _ hs => ?_
  split
  next e => exact keeps_set_bind (wf_fst e (wf_tokbStep hs)) fun _ => keeps_modifyMe.bind fun _ => keeps_done

@[simp] theorem wf_verstageStep {s : State} {p r v} (h : Mem.wf s.mem) : Mem.wf (s.verstageStep p r v).1.mem := by
  unfold State.verstageStep
  dsimp only
  split
  · exact h
  · split
    · exact h
    · split
      · exact h
      · split <;> simp [h]

theorem canonical_execVerstage {s : State} {d a b} (h : Mem.wf s.mem) : Canonical (execVerstage d a b s) := by
  refine canonical_partIssue h fun p => canonical_runM h <| keeps_me.bind fun t => keeps_askTable.bind fun _ =>
    keeps_verRegion.bind fun _ => keeps_get fun _ _ => keeps_when keeps_verTable fun _ => keeps_get fun _ hs => ?_
  split
  next e => exact keeps_set_bind (wf_fst e (wf_verstageStep hs)) fun _ => keeps_modifyMe.bind fun _ => keeps_done

@[simp] theorem wf_verpubStep {s : State} {p v} (h : Mem.wf s.mem) : Mem.wf (s.verpubStep p v).1.mem := by
  unfold State.verpubStep
  dsimp only
  split
  · exact h
  · refine wf_retire (wf_setVerField (wf_setVerField (wf_foldl (fun s x hx => wf_setSlotState ?_) _ h)))
    split <;> simp [hx]

theorem canonical_execVerpub {s : State} {d a} (h : Mem.wf s.mem) : Canonical (execVerpub d a s) := by
  refine canonical_partIssue h fun p => canonical_runM h <| keeps_fenceWait.bind fun _ => keeps_get fun _ _ =>
    keeps_when keeps_wait fun _ => keeps_askTable.bind fun _ => keeps_verRetire.bind fun _ => keeps_get fun _ hs => ?_
  split
  next e => exact keeps_set_bind (wf_fst e (wf_verpubStep hs)) fun _ => keeps_modifyMe.bind fun _ => keeps_done

theorem canonical_execVerqCur {s : State} {d} (h : Mem.wf s.mem) : Canonical (execVerqCur d s) :=
  canonical_partIssue h fun _ => canonical_runM h <| keeps_verLoad.bind fun _ => keeps_get fun _ _ =>
    keeps_modifyMe.bind fun _ => keeps_done

theorem canonical_execVerqReg {s : State} {d a} (h : Mem.wf s.mem) : Canonical (execVerqReg d a s) :=
  canonical_partIssue h fun _ => canonical_runM h <| keeps_me.bind fun _ => keeps_verLoad.bind fun _ =>
    keeps_get fun _ _ => keeps_modifyMe.bind fun _ => keeps_done

theorem canonical_execVerqSlot {s : State} {d a} (h : Mem.wf s.mem) : Canonical (execVerqSlot d a s) :=
  canonical_partIssue h fun _ => canonical_runM h <| keeps_me.bind fun _ => (keeps_forM fun _ =>
    keeps_verLoad).bind fun _ => (keeps_forM fun _ => keeps_verLoad).bind fun _ => keeps_get fun _ _ =>
    keeps_modifyMe.bind fun _ => keeps_done

/-! ## The tier engine (`Machine/Tier`) -/

@[simp] theorem setRetention_mem (s : State) (p r x) : (s.setRetention p r x).mem = s.mem := by rfl
@[simp] theorem unpin_mem (s : State) (p r) : (s.unpin p r).mem = s.mem := by rfl

@[simp] theorem pinRange_mem (s : State) (p r base length ways) : (s.pinRange p r base length ways).1.mem = s.mem := by
  unfold State.pinRange
  split <;> rfl

@[simp] theorem evictRange_mem (s : State) (p r base length) : (s.evictRange p r base length).mem = s.mem := by
  simp [State.evictRange]

@[simp] theorem keeps_ttRequest {t p e} : Keeps (M.ttRequest t p e) :=
  keeps_readBytes.bind fun _ => keeps_get fun _ _ => keeps_pure

@[simp] theorem setTtEntry_mem (s : State) (p i e) : (s.setTtEntry p i e).mem = s.mem := by rfl

@[simp] theorem wf_ttLog {s : State} {p e x} (h : Mem.wf s.mem) : Mem.wf (s.ttLog p e x).mem := by
  unfold State.ttLog
  dsimp only
  split <;> simp [h]

@[simp] theorem ttFail_mem (s : State) (p i e x) : (s.ttFail p i e x).mem = s.mem := by rfl

@[simp] theorem keeps_ttBegin {t p i} : Keeps (M.ttBegin t p i) :=
  keeps_portOpen.bind fun _ => keeps_readBytes.bind fun _ => keeps_readBytes.bind fun _ =>
    keeps_when keeps_trap fun _ => keeps_if keeps_pure (keeps_ttRequest.bind fun _ => keeps_get fun _ _ =>
    keeps_when keeps_trap fun _ => keeps_pure)

@[simp] theorem wf_ttEntryBegin {s : State} {p i} (h : Mem.wf s.mem) : Mem.wf (s.ttEntryBegin p i).mem := by
  unfold State.ttEntryBegin
  dsimp only
  split
  · exact h
  · split
    · exact h
    · split
      · simp [wf_snd ‹_› (wf_runEngine keeps_ttBegin h)]
      · exact h
      · simp [wf_snd ‹_› (wf_runEngine keeps_ttBegin h)]

@[simp] theorem keeps_pieceSource {core q p} : Keeps (M.pieceSource core q p) := by
  unfold M.pieceSource
  split
  · refine keeps_mapM fun _ => ?_
    split
    · exact keeps_bulkPlace.bind fun _ => keeps_pure
  · refine keeps_entryRead.bind fun bs => keeps_mapM fun _ => ?_
    split
    · exact keeps_bulkPlace.bind fun _ => keeps_pure
  · exact keeps_pure

@[simp] theorem keeps_ttWhere {core action tier q} : Keeps (M.ttWhere core action tier q) := by
  refine keeps_get fun s hs => ?_
  dsimp only
  refine (keeps_forIn fun p _ => ?_).bind fun _ => keeps_set hs
  refine keeps_pieceSource.bind fun src => (keeps_mapM fun _ => keeps_bulkPlace.bind fun _ => keeps_pure).bind fun dst => ?_
  split <;> split
  · exact keeps_trap.bind fun _ => keeps_trap.bind fun _ => keeps_pure
  · exact keeps_trap.bind fun _ => keeps_pure
  · exact keeps_trap.bind fun _ => keeps_pure
  · exact keeps_pure

@[simp] theorem keeps_ttChunk {core action tier q} : Keeps (M.ttChunk core action tier q) :=
  keeps_entryBegin.bind fun _ => keeps_when keeps_ttWhere fun _ => keeps_chunkStep

@[simp] theorem wf_ttDeadline {s : State} {t p i e} (h : Mem.wf s.mem) : Mem.wf (s.ttDeadline t p i e).mem := by
  unfold State.ttDeadline
  dsimp only
  split <;> simp [h]

@[simp] theorem wf_ttFetch {s : State} {t p i e} (h : Mem.wf s.mem) : Mem.wf (s.ttFetch t p i e).mem := by
  simp [State.ttFetch, h]

@[simp] theorem wf_ttEntryComplete {s : State} {p i} (h : Mem.wf s.mem) : Mem.wf (s.ttEntryComplete p i).mem := by
  unfold State.ttEntryComplete
  dsimp only
  split
  · exact h
  · split
    · exact h
    · split
      · split
        · exact h
        · split
          · split
            · simp [h]
            · split <;> simp [h]
          · split
            · simp [wf_snd ‹_› (wf_runEngine keeps_ttChunk (by simp [h]))]
            · simp [h]
            · simp [wf_snd ‹_› (wf_runEngine keeps_ttChunk (by simp [h]))]
      · simp [h]

@[simp] theorem keeps_ttRead {a header} : Keeps (M.ttRead a header) := by
  refine keeps_readBytes.bind fun head => keeps_readBytes.bind fun bytes => keeps_if keeps_pure ?_
  dsimp only
  split
  · exact keeps_pure
  · split <;> exact keeps_pure

theorem canonical_execTtgo {s : State} {d a b} (h : Mem.wf s.mem) : Canonical (execTtgo d a b s) := by
  refine canonical_partIssue h fun p => canonical_runM h <| keeps_get fun s hs => keeps_when keeps_wait fun _ =>
    keeps_if (keeps_set_bind (by simp [hs]) fun _ => keeps_modifyMe.bind fun _ => keeps_done) <|
    keeps_when keeps_trap fun _ => keeps_ttRead.bind fun _ => ?_
  split
  · exact keeps_modifyMe.bind fun _ => keeps_done
  · exact (keeps_modify fun s h => by simp [h]).bind fun _ => keeps_modifyMe.bind fun _ => keeps_done

theorem canonical_execMark {s : State} {a w} (h : Mem.wf s.mem) : Canonical (execMark a w s) := by
  refine canonical_partIssue h fun p => canonical_runM h <| keeps_get fun s hs => keeps_if keeps_done <|
    keeps_set_bind (by simp [hs]) fun _ => keeps_when keeps_wait fun _ => ?_
  split
  · exact keeps_done
  · exact keeps_trap

/-! ## Seeds and nests (`Machine/Work`) -/

@[simp] theorem wf_setSeedQueue {s : State} {p q x} (h : Mem.wf s.mem) : Mem.wf (s.setSeedQueue p q x).mem := by
  simp [State.setSeedQueue, h]

theorem wf_takeBlock {s : State} {p} (h : Mem.wf s.mem) {x} (e : s.takeBlock p = some x) : Mem.wf x.1.mem := by
  unfold State.takeBlock at e
  dsimp only at e
  split at e
  · cases e
  · cases e
    exact wf_writePa h

@[simp] theorem wf_giveBlock {s : State} {p b} (h : Mem.wf s.mem) : Mem.wf (s.giveBlock p b).mem := by
  simp [State.giveBlock, h]

@[simp] theorem wf_countRefused {s : State} {p} (h : Mem.wf s.mem) : Mem.wf (s.countRefused p).mem := by
  simp [State.countRefused, h]

theorem wf_enqueueSeed {s : State} {p y} (h : Mem.wf s.mem) {t} (e : s.enqueueSeed p y = some t) : Mem.wf t.mem := by
  unfold State.enqueueSeed at e
  dsimp only at e
  split at e
  · cases e
    simp [h]
  · obtain ⟨y, hy, rfl⟩ := Option.map_eq_some_iff.mp e
    simp [wf_takeBlock h hy]

theorem wf_dequeueSeed {s : State} {p q} (h : Mem.wf s.mem) {x} (e : s.dequeueSeed p q = some x) : Mem.wf x.1.mem := by
  unfold State.dequeueSeed at e
  dsimp only at e
  split at e
  · cases e
  · cases e
    exact wf_foldl (fun _ _ hx => wf_giveBlock hx) _ (by simp [h])

@[simp] theorem wf_endStrand {s : State} {slot} (h : Mem.wf s.mem) : Mem.wf (s.endStrand slot).mem := by
  simp [State.endStrand, h]

@[simp] theorem wf_writeLossy {s : State} {lossy key n v} (h : Mem.wf s.mem) : Mem.wf (s.writeLossy lossy key n v).mem := by
  simp [State.writeLossy, h]

@[simp] theorem keeps_readRecord {va n} : Keeps (M.readRecord va n) := by
  refine keeps_get fun _ _ => keeps_check.bind fun p => keeps_read.bind fun _ => ?_
  split
  · exact keeps_when keeps_trap fun _ => keeps_pure

@[simp] theorem keeps_continue {p lossy key bytes} : Keeps (M.continue p lossy key bytes) := by
  refine keeps_get fun s hs => ?_
  split
  · exact keeps_set <| by simp [hs]
  · refine keeps_if (keeps_set <| by simp [hs]) ?_
    dsimp only
    split
    · exact keeps_set (wf_enqueueSeed hs ‹_›)
    · exact keeps_set <| by simp [hs]

@[simp] theorem keeps_decrement {p lossy key} : Keeps (M.decrement p lossy key) := by
  refine keeps_get fun s hs => keeps_if (keeps_set <| by simp [hs]) <| keeps_if ?_ (keeps_set <| by simp [hs])
  extract_lets cont n last proceed clear
  have hlast : ∀ r, Keeps (last r) := fun _ => keeps_if (keeps_modify fun _ h => h) keeps_pure
  have hproceed : ∀ r, Keeps (proceed r) := fun _ => keeps_when keeps_continue hlast
  have hclear : ∀ r, Keeps (clear r) := fun _ => (keeps_modify fun s h => by simp [h]).bind fun _ =>
    keeps_if (keeps_pure.bind hproceed) ((keeps_attempt keeps_readRecord).bind hproceed)
  exact keeps_if ((keeps_attempt keeps_readRecord).map.bind fun _ => keeps_set_bind hs hclear) (hclear ())

@[simp] theorem keeps_harvest {p h1} : Keeps (M.harvest p h1) := by
  refine keeps_when keeps_trap fun _ => keeps_when keeps_trap fun _ => keeps_get fun _ _ => keeps_check.bind fun _ => ?_
  split
  · exact keeps_get fun _ _ => keeps_when keeps_wait fun _ => keeps_when keeps_trap fun _ => keeps_decrement
  · exact keeps_trap

theorem canonical_execSeedput {s : State} {d a} (h : Mem.wf s.mem) : Canonical (execSeedput d a s) := by
  refine canonical_partIssue h fun p => canonical_runM h <| keeps_me.bind fun _ => keeps_readRecord.bind fun bs =>
    keeps_get fun s hs => ?_
  have hanswer : ∀ {t : State} {x : Nat}, Mem.wf t.mem →
      Keeps (do set (t.setMe (t.me.writeG d (BitVec.ofNat 64 x))); M.done) :=
    fun ht => keeps_set_bind (by simp [ht]) fun _ => keeps_done
  refine keeps_if (hanswer (by simp [hs])) ?_
  dsimp only
  split
  · exact hanswer (by simp [hs])
  · exact hanswer (wf_enqueueSeed hs ‹_›)

@[simp] theorem keeps_endWait : Keeps M.endWait := keeps_get fun _ _ => keeps_if keeps_wait keeps_pure

theorem wf_getD_enqueueSeed {s t : State} {p y} (hs : Mem.wf s.mem) (ht : Mem.wf t.mem) :
    Mem.wf ((s.enqueueSeed p y).getD t).mem := by
  cases e : s.enqueueSeed p y with
  | none => exact ht
  | some u => exact wf_enqueueSeed hs e

theorem canonical_execSeedyield {s : State} {d a} (h : Mem.wf s.mem) : Canonical (execSeedyield d a s) := by
  refine canonical_if (canonical_raise h) <| canonical_partIssue h fun p => canonical_runM h <| keeps_me.bind fun t =>
    keeps_when keeps_trap fun _ => keeps_endWait.bind fun _ => keeps_get fun s hs => ?_
  dsimp only
  split
  · exact keeps_set_bind (by simp [hs]) fun _ => keeps_modifyMe.bind fun _ => keeps_done
  · next e =>
    have ht := wf_enqueueSeed hs e
    refine keeps_release.bind fun _ => keeps_get fun s hs => keeps_set (wf_endStrand ?_)
    exact wf_getD_enqueueSeed hs ht

theorem canonical_execSeedend {s : State} (h : Mem.wf s.mem) : Canonical (execSeedend s) :=
  canonical_partIssue h fun p => canonical_runM h <| keeps_endWait.bind fun _ => keeps_me.bind fun t =>
    keeps_get fun _ _ => keeps_when keeps_wait fun _ => keeps_when keeps_harvest fun _ => keeps_release.bind fun _ =>
    keeps_modify fun s h => by simp [h]

theorem canonical_execNestgo {s : State} {d a} (h : Mem.wf s.mem) : Canonical (execNestgo d a s) :=
  canonical_partIssue h fun p => canonical_runM h <| keeps_me.bind fun _ => keeps_readRecord.bind fun bs =>
    keeps_get fun s hs => keeps_if (keeps_set_bind (by simp [hs]) fun _ =>
    keeps_done) (keeps_if (keeps_set_bind (by simp [hs]) fun _ => keeps_done) (keeps_set_bind (by simp [hs]) fun _ =>
    keeps_done))

theorem canonical_execSlotwait {s : State} {d n} (h : Mem.wf s.mem) : Canonical (execSlotwait d n s) := by
  refine canonical_unitIssue h ?_
  split
  · exact canonical_complete h
  · exact canonical_if (by simp [h]) (by simp [h])

@[simp] theorem ageContender_mem (s : State) (p x) : (s.ageContender p x).mem = s.mem := by
  unfold State.ageContender
  split <;> rfl

theorem wf_takeContender {s : State} {p y} (h : Mem.wf s.mem) {x} (e : s.takeContender p y = some x) : Mem.wf x.1.mem := by
  unfold State.takeContender at e
  split at e
  · exact wf_dequeueSeed h e
  · dsimp only at e
    split at e
    · cases e
    · split at e
      · cases e
      · cases e
        exact h

@[simp] theorem wf_dispatch {s : State} {k} (h : Mem.wf s.mem) : Mem.wf (s.dispatch k).mem := by
  unfold State.dispatch
  split
  · exact h
  · dsimp only
    split
    · exact h
    · split
      · exact h
      · have ht := wf_takeContender h ‹_›
        split
        · exact wf_tokbStep (by simp [ht])
        · simp [ht]

@[simp] theorem noteContenders_mem (s : State) : s.noteContenders.mem = s.mem := by rfl

/-! ## Pins, hints, flushes and the heap (`Machine/Memh`) -/

@[simp] theorem keeps_rangeCheck {base length} : Keeps (M.rangeCheck base length) := keeps_if keeps_trap keeps_pure

theorem canonical_execPin {s : State} {d a b w r} (h : Mem.wf s.mem) : Canonical (execPin d a b w r s) := by
  refine canonical_partIssue h fun p => canonical_runM h <| keeps_me.bind fun t => keeps_rangeCheck.bind fun _ =>
    keeps_get fun _ hs => ?_
  split
  next e => exact keeps_set_bind (by simp [fst_mem e, hs]) fun _ => keeps_modifyMe.bind fun _ => keeps_done

theorem canonical_execUnpin {s : State} {r} (h : Mem.wf s.mem) : Canonical (execUnpin r s) :=
  canonical_partIssue h fun p => canonical_runM h <| (keeps_modify fun s h => by simp [h]).bind fun _ => keeps_done

theorem canonical_execHintef {s : State} {a b r} (h : Mem.wf s.mem) : Canonical (execHintef a b r s) :=
  canonical_partIssue h fun p => canonical_runM h <| keeps_me.bind fun t => keeps_rangeCheck.bind fun _ =>
    (keeps_modify fun s h => by simp [h]).bind fun _ => keeps_done

@[simp] theorem keeps_flushPages {a kind fuel va n} : Keeps (M.flushPages a kind fuel va n) := by
  induction fuel generalizing va n with
  | zero => exact keeps_pure
  | succ fuel ih =>
    unfold M.flushPages
    refine keeps_if ?_ keeps_pure
    refine keeps_bulkPlace.bind fun p => ?_
    split
    · exact (keeps_modify fun s h => wf_foldl (fun _ _ hx => wf_flushLine hx) _ h).bind fun _ => ih
    · exact ih

theorem canonical_cflush {s : State} {kind a b} (h : Mem.wf s.mem) : Canonical (cflush kind a b s) :=
  canonical_issue h <| canonical_runM h <| keeps_me.bind fun _ => keeps_get fun _ _ => keeps_flushPages.bind fun _ =>
    keeps_done

@[simp] theorem keeps_heapPlace {k va} : Keeps (M.heapPlace k va) := by
  refine keeps_when keeps_trap fun _ => keeps_get fun _ _ => keeps_check.bind fun _ => ?_
  split
  · exact keeps_pure
  · exact keeps_trap

@[simp] theorem keeps_heapRead {va} : Keeps (M.heapRead va) := by
  refine keeps_heapPlace.bind fun _ => ?_
  split
  · exact keeps_get fun _ h => keeps_get fun _ h => keeps_when keeps_wait fun _ => (keeps_modify fun s h =>
      by simp [h]).bind fun _ => keeps_get fun _ _ => keeps_when keeps_trap fun _ => keeps_pure

@[simp] theorem keeps_heapWrite {p v} : Keeps (M.heapWrite p v) := keeps_modify fun s h => by simp [h]

@[simp] theorem keeps_allocFail {d code cls} : Keeps (M.allocFail d code cls) := by
  refine keeps_get fun s _ => ?_
  extract_lets base last rest va
  have hrest : ∀ r, Keeps (rest r) := fun _ => keeps_when keeps_trap fun _ => keeps_modifyMe.bind fun _ => keeps_done
  exact keeps_if (keeps_heapRead.bind fun _ => keeps_heapPlace.bind fun _ => keeps_heapWrite.bind hrest) (hrest ())

theorem canonical_execAlloc {s : State} {d a} (h : Mem.wf s.mem) : Canonical (execAlloc d a s) :=
  canonical_issue h <| canonical_runM h <| keeps_me.bind fun _ => keeps_get fun _ _ =>
    keeps_if keeps_allocFail (keeps_heapRead.bind fun _ => keeps_if keeps_allocFail (keeps_heapRead.bind fun _ =>
    keeps_heapPlace.bind fun _ => keeps_heapWrite.bind fun _ => keeps_modifyMe.bind fun _ => keeps_done))

theorem canonical_execFree {s : State} {a b} (h : Mem.wf s.mem) : Canonical (execFree a b s) :=
  canonical_issue h <| canonical_runM h <| keeps_me.bind fun _ => keeps_if keeps_done (keeps_when keeps_trap fun _ =>
    keeps_when keeps_trap fun _ => keeps_releaseWait.bind fun _ => keeps_get fun _ _ => keeps_get fun _ _ =>
    keeps_heapRead.bind fun _ => keeps_heapPlace.bind fun _ => keeps_heapPlace.bind fun _ =>
    keeps_heapWrite.bind fun _ => keeps_heapWrite.bind fun _ => keeps_done)

/-! ## Control registers (`Machine/Csr`) -/

@[simp] theorem writeHeapCsr_mem (s : State) (c n v) : (s.writeHeapCsr c n v).mem = s.mem := by simp [State.writeHeapCsr]
@[simp] theorem writeSlotCsr_mem (s : State) (c n v) : (s.writeSlotCsr c n v).mem = s.mem := by rfl

@[simp] theorem wf_clearRange {s : State} {lo n} (h : Mem.wf s.mem) : Mem.wf (s.clearRange lo n).mem :=
  Laws.wf_clearRange lo n h

@[simp] theorem wf_writeSpadways {s : State} {core v} (h : Mem.wf s.mem) : Mem.wf (s.writeSpadways core v).mem := by
  simp [State.writeSpadways, h]

@[simp] theorem writePrioceil_mem (s : State) (core v) : (s.writePrioceil core v).mem = s.mem := by
  simp [State.writePrioceil]

@[simp] theorem writeDivTable_mem (s : State) (core count v) : (s.writeDivTable core count v).mem = s.mem := by rfl
@[simp] theorem writeDbgctl_mem (s : State) (v) : (s.writeDbgctl v).mem = s.mem := by simp [State.writeDbgctl]

@[simp] theorem wf_csrWrite {s : State} {n v} (h : Mem.wf s.mem) : Mem.wf (s.csrWrite n v).mem := by
  unfold State.csrWrite
  split <;> simp [h]

/-! ## Fetch and the progress timer (`Machine/Fetch`) -/

@[simp] theorem keeps_wordAt {key} : Keeps (M.wordAt key) := by
  refine keeps_get fun _ h => keeps_when (keeps_modify fun s h => by simp [h]) fun _ => keeps_get fun _ _ =>
    keeps_if (keeps_free.bind fun _ => keeps_pure) ?_
  split
  · exact keeps_modifyMe.bind fun _ => keeps_pure
  · exact keeps_if keeps_pure (keeps_lag.bind fun _ => keeps_if keeps_pure (keeps_modifyMe.bind fun _ => keeps_pure))

@[simp] theorem keeps_fetch : Keeps M.fetch := by
  refine keeps_get fun _ _ => keeps_translate.bind fun _ => ?_
  split
  · exact keeps_wordAt
  · exact keeps_trap

@[simp] theorem restartSlotted_mem (s : State) (k) : (s.restartSlotted k).mem = s.mem := by
  unfold State.restartSlotted
  dsimp only
  split <;> simp

@[simp] theorem stopSlots_mem (s : State) (k) : (s.stopSlots k).1.mem = s.mem := by rfl

theorem keeps_vmemForm {w} {f : VmemForm} (e : vmemForm w = some f) {stop : Bool} : Keeps (f.work stop) := by
  unfold vmemForm at e
  dsimp only at e
  split at e
  · cases e; exact keeps_vldWork
  · cases e; exact keeps_vldsWork
  · cases e; exact keeps_vldxWork
  · cases e; exact keeps_vldsegWork
  · cases e; exact keeps_vldffWork
  · cases e; exact keeps_vstWork
  · cases e; exact keeps_vstsWork
  · cases e; exact keeps_vstxWork
  · cases e; exact keeps_vstsegWork
  · cases e; exact keeps_vpstWork
  · cases e; exact keeps_vstrldWork
  · cases e; exact keeps_vstrcmpWork
  · cases e; exact keeps_vstrhashWork
  · split at e
    · cases e; exact keeps_vredmWork
    · cases e
  · cases e

theorem wf_stopForm {s : State} (h : Mem.wf s.mem) {x} (e : s.stopForm = some x) : Mem.wf x.1.mem := by
  unfold State.stopForm at e
  have hf := keeps_fetch s h
  split at e
  · rename_i w s1 hw
    rw [hw] at hf
    split at e
    · cases e
    · rename_i f hform
      split at e
      · cases e
      · have ht := keeps_timed (keeps_vmemForm hform (stop := true)) s1 hf
        split at e
        · cases e
          exact wf_snd ‹_› ht
        · cases e
          exact wf_snd ‹_› ht
        · cases e
  · cases e

@[simp] theorem wf_progress {s : State} (h : Mem.wf s.mem) : Mem.wf s.progress.mem := by
  unfold State.progress
  split
  · simp [h]
  · split
    · simp [wf_stopForm h ‹_›]
    · exact wf_stopForm h ‹_›
    · simp [h]

/-! ## Context switches (`Machine/Switch`) -/

@[simp] theorem wf_putPart {s : State} {pa n v} (h : Mem.wf s.mem) : Mem.wf (s.putPart pa n v).mem := by
  unfold State.putPart
  split <;> simp [h]

@[simp] theorem wf_putPa {s : State} {pa n v} (h : Mem.wf s.mem) : Mem.wf (s.putPa pa n v).mem := by simp [State.putPa, h]

@[simp] theorem wf_copyRange {s : State} {src dst n} (h : Mem.wf s.mem) : Mem.wf (s.copyRange src dst n).mem :=
  wf_foldl (fun _ _ hx => wf_writeByte hx) _ (wf_clearRange h)

@[simp] theorem wf_saveCarve {s : State} {core pa ways} (h : Mem.wf s.mem) : Mem.wf (s.saveCarve core pa ways).mem := by
  refine wf_foldl (fun s x hx => ?_) _ h
  split <;> simp [hx]

@[simp] theorem wf_loadCarve {s : State} {core pa ways} (h : Mem.wf s.mem) : Mem.wf (s.loadCarve core pa ways).mem := by
  refine wf_foldl (fun s x hx => ?_) _ h
  split <;> simp [hx]

@[simp] theorem wf_clearPages {s : State} {pa n} (h : Mem.wf s.mem) : Mem.wf (s.clearPages pa n).mem := by
  refine wf_foldl (fun s x hx => ?_) _ h
  split <;> simp [hx]

@[simp] theorem wf_saveStrand {s : State} {img t tsavea place} (h : Mem.wf s.mem) :
    Mem.wf (s.saveStrand img t tsavea place).mem :=
  wf_foldl (fun s x hx => by simp [hx]) _ h

@[simp] theorem startSupervisor_mem (s : State) (core e) : (s.startSupervisor core e).mem = s.mem := by
  simp [State.startSupervisor]

@[simp] theorem wf_finishRead {s : State} {core n} (h : Mem.wf s.mem) : Mem.wf (s.finishRead core n).mem := by
  induction n generalizing s with
  | zero => exact h
  | succ n ih =>
    unfold State.finishRead
    dsimp only
    split
    · split
      · split
        · split
          · exact ih (wf_snd ‹_› (wf_runEngine (keeps_asStrand keeps_millStep) h))
          · exact h
        · exact h
      · exact h
    · exact h

@[simp] theorem wf_departLease {s : State} {core} (h : Mem.wf s.mem) : Mem.wf (s.departLease core).1.mem := by
  unfold State.departLease
  dsimp only
  split
  · simp [h]
  · split
    · simp [h]
    · split <;> simp [h]

@[simp] theorem wf_putBytes {s : State} {pa bs} (h : Mem.wf s.mem) : Mem.wf (s.putBytes pa bs).mem := by
  simp [State.putBytes, h]

@[simp] theorem wf_saveLease {s : State} {husk lease q3} (h : Mem.wf s.mem) : Mem.wf (s.saveLease husk lease q3).mem := by
  unfold State.saveLease
  split <;> simp [h]

@[simp] theorem wf_saveQueues {s : State} {husk qs} (h : Mem.wf s.mem) : Mem.wf (s.saveQueues husk qs).mem :=
  wf_foldl (fun s x hx => by simp [hx]) _ (wf_clearPages h)

@[simp] theorem wf_saveSpilled {s : State} {husk ms} (h : Mem.wf s.mem) : Mem.wf (s.saveSpilled husk ms).mem :=
  wf_foldl (fun s x hx => by simp [hx]) _ h

@[simp] theorem wf_saveHeader {s : State} {core live} (h : Mem.wf s.mem) : Mem.wf (s.saveHeader core live).mem :=
  wf_foldl (fun s x hx => by simp [hx]) _ (wf_foldl (fun s x hx => by simp [hx]) _ (wf_putPa <| wf_putPa <| wf_putPa h))

@[simp] theorem wf_saveBarriers {s : State} {core} (h : Mem.wf s.mem) : Mem.wf (s.saveBarriers core).mem := by
  refine wf_foldl (fun s x hx => ?_) _ (wf_foldl (fun s x hx => by simp [hx]) _ (wf_clearPages <| wf_clearPages h))
  split
  · exact wf_foldl (fun s x hx => by simp [hx]) _ hx

@[simp] theorem wf_stopWaiting {s : State} {k} (h : Mem.wf s.mem) : Mem.wf (s.stopWaiting k).mem := by
  unfold State.stopWaiting
  split
  · next e => exact (wf_stopForm (s := { s with cur := k }) h e :)
  · exact h

@[simp] theorem wf_stopHere {s : State} {k} (h : Mem.wf s.mem) : Mem.wf (s.stopHere k).mem := by
  unfold State.stopHere
  split <;> simp [h]

@[simp] theorem wf_stopStrand {s : State} {core i} (h : Mem.wf s.mem) : Mem.wf (s.stopStrand core i).mem := by
  unfold State.stopStrand
  split <;> simp [h]

@[simp] theorem wf_switchOut {s : State} {core} (h : Mem.wf s.mem) : Mem.wf (s.switchOut core).mem := by
  unfold State.switchOut
  extract_lets c cid
  split
  · exact h
  · split
    next s1 lease e1 =>
    have h1 : Mem.wf s1.mem := wf_fst e1 (wf_departLease (wf_foldl (fun _ _ hx => wf_stopStrand hx) _ h))
    clear_value cid c
    clear e1
    extract_lets c1 strands here live s2 s3 s4 s5 ways s6 mine spilled s7 d area _ tiles s8 s9 s10
    have h2 : Mem.wf s2.mem := wf_saveHeader h1
    clear_value s2
    have h3 : Mem.wf s3.mem := wf_saveBarriers h2
    clear_value s3
    have hput : ∀ p : State → Prop, (∀ {s pa n v}, p s → p (s.putPa pa n v)) → p s3 → p s4 :=
      fun p hp h => List.foldlRecOn _ _ h fun _ hs _ _ => hp hs
    have h4 : Mem.wf s4.mem := hput (fun t => Mem.wf t.mem) wf_putPa h3
    clear hput
    clear_value s4
    have h5 : Mem.wf s5.mem := wf_foldl (fun _ _ hx => wf_saveStrand hx) _ h4
    clear_value s5
    have h6 : Mem.wf s6.mem := wf_clearRange (wf_saveCarve h5)
    clear_value s6
    have h7 : Mem.wf s7.mem := wf_saveSpilled (wf_saveQueues (wf_saveLease h6))
    clear_value s7
    have h8 : Mem.wf s8.mem := h7
    clear_value s8
    have h9 : Mem.wf s9.mem := h8
    clear_value s9
    exact wf_linkChain (wf_foldl (fun _ _ hx => by dsimp only; split <;> exact hx) _ h9)

@[simp] theorem undivert_mem (s : State) (core part r) : (s.undivert core part r).1.mem = s.mem := by
  unfold State.undivert
  split <;> rfl

@[simp] theorem wf_replay {s : State} {core part r} (h : Mem.wf s.mem) : Mem.wf (s.replay core part r).mem := by
  unfold State.replay
  split
  · simp [fst_mem ‹_›, h]
  · next t m e =>
    have ht : Mem.wf t.mem := by simp [fst_mem e, h]
    split
    · dsimp only
      split <;> simp [ht]
    · simp [ht]

@[simp] theorem wf_replayAll {s : State} {core cid kind} (h : Mem.wf s.mem) : Mem.wf (s.replayAll core cid kind).mem :=
  wf_foldl (fun s x hx => by simp [hx]) _ h

@[simp] theorem loadHeap_mem (s : State) (part c valid) : (s.loadHeap part c valid).mem = s.mem := by simp [State.loadHeap]
@[simp] theorem joinGang_mem (s : State) (part k t) : (s.joinGang part k t).mem = s.mem := by simp [State.joinGang]
@[simp] theorem placeStrand_mem (s : State) (core i t) : (s.placeStrand core i t).mem = s.mem := by simp [State.placeStrand]

@[simp] theorem mapContextStrand_mem (s : State) (core i f) : (s.mapContextStrand core i f).mem = s.mem := by
  simp [State.mapContextStrand]

@[simp] theorem applyLog_mem (s : State) (core husk n) : (s.applyLog core husk n).mem = s.mem := by simp [State.applyLog]

@[simp] theorem wf_performHeld {s : State} {core} (h : Mem.wf s.mem) : Mem.wf (s.performHeld core).mem := by
  refine wf_foldl (fun s m hs => ?_) _ h
  split
  · exact wf_of_arriveMsg ‹_› hs
  · next e => exact (wf_of_arriveMsg e hs :)

@[simp] theorem wf_finishMerge {s : State} {core} (h : Mem.wf s.mem) : Mem.wf (s.finishMerge core).mem := by
  have hd : ∀ es : List DivEntry,
      Mem.wf (es.foldl (fun s (e : DivEntry) => s.keepDivEntry core { e with used := 0, full := false }) s).mem :=
    fun es => wf_foldl (fun _ _ hx => wf_keepDivEntry hx) es h
  unfold State.finishMerge
  rw [injectWaiting_mem]
  exact wf_performHeld (by simpa using hd _)

@[simp] theorem wf_switchIn {s : State} {core} (h : Mem.wf s.mem) : Mem.wf (s.switchIn core).mem := by
  unfold State.switchIn
  extract_lets c husk cid head part valid d csrs slots lease s1 s2 s3 _ s5 s6 ways s7 s8 s9 s10 _ s11 s12 log _ s13 x
  have h3 : Mem.wf s3.mem := by simp [s3, s2, s1, h]
  clear_value s3
  have h6 : Mem.wf s6.mem := wf_linkChain h3
  have h8 : Mem.wf s8.mem := by simp [s8, s7, h6]
  clear_value s8
  have h9 : Mem.wf s9.mem := wf_foldl (fun _ _ hx => by dsimp only; split <;> simp [hx]) _ h8
  have h12 : Mem.wf s12.mem := by simp [s12, s11, s10, h9]
  clear_value s12
  have h13 : Mem.wf s13.mem := h12
  clear_value s13
  split
  · split
    · exact h13
    · simp [h13]
  · exact wf_finishMerge h13

@[simp] theorem goIdle_mem (s : State) (core) : (s.goIdle core).mem = s.mem := by rfl

@[simp] theorem wf_spanSwitch {s : State} {core} (h : Mem.wf s.mem) : Mem.wf (s.spanSwitch core).mem := by
  simp [State.spanSwitch, h]

@[simp] theorem wf_endSupervisor {s : State} {core} (h : Mem.wf s.mem) : Mem.wf (s.endSupervisor core).mem := by
  unfold State.endSupervisor
  dsimp only
  split
  · exact h
  · split
    · exact wf_finishMerge h
    · exact h

/-! ## Boot (`Machine/Boot`) -/

@[simp] theorem wf_cleared (s : State) : Mem.wf s.cleared.mem := rfl

theorem wf_bootCells : Mem.wf bootCells := rfl

@[simp] theorem wf_osStart (s : State) : Mem.wf s.osStart.mem := wf_writePa <| wf_writePa wf_bootCells

@[simp] theorem wf_withMeas {s : State} {m} (h : Mem.wf s.mem) : Mem.wf (s.withMeas m).mem :=
  wf_foldl (fun _ _ hx => wf_writePa hx) _ h

@[simp] theorem wf_boot (s : State) : Mem.wf s.boot.mem := by
  unfold State.boot
  split
  split
  · simp only [wf_withMeas, wf_osStart]
  · exact wf_cleared s

/-! ## System forms (`Machine/Sys`) -/

theorem canonical_raiseAfter {s : State} {e} (h : Mem.wf s.mem) : Canonical (raiseAfter e s) := .next h

theorem canonical_execEcall {s : State} (h : Mem.wf s.mem) : Canonical (execEcall s) := by
  unfold execEcall
  split
  · exact canonical_raiseAfter h
  · exact canonical_raiseAfter h
  · exact canonical_raise h

theorem canonical_execEret {s : State} (h : Mem.wf s.mem) : Canonical (execEret s) := by
  unfold execEret
  split
  · exact canonical_raise h
  · exact canonical_if (canonical_raise h) (by simp [h])
  · exact canonical_if (by simp [h]) (by simp [h])

theorem canonical_csrOp {s : State} {w d a n write} (h : Mem.wf s.mem) : Canonical (csrOp w d a n write s) := by
  unfold csrOp
  split
  · exact canonical_raise h
  · refine canonical_issue h ?_
    rw [canonical_next]
    split <;> simp [h]

theorem canonical_tlbinv {s : State} {w a sc kind} (h : Mem.wf s.mem) : Canonical (tlbinv w a sc kind s) :=
  canonical_if (canonical_raise h) (canonical_issue h <| canonical_complete h)

@[simp] theorem tlbinvStep_mem (s : State) (i) : (s.tlbinvStep i).mem = s.mem := by
  unfold State.tlbinvStep
  split
  · rfl
  · split <;> simp

theorem canonical_execUnassignedInstructionWord {s : State} {w} (h : Mem.wf s.mem) :
    Canonical (execUnassignedInstructionWord w s) := by
  unfold execUnassignedInstructionWord
  split
  · exact canonical_raise h
  · exact .next h

/-! ## Network events (`Machine/EvNet`) -/

@[simp] theorem wf_acked {s : State} {m} (h : Mem.wf s.mem) : Mem.wf (s.acked m).mem := by
  unfold State.acked
  split
  · simp [h]
  · split <;> simp [h]

theorem canonical_execAcknowledgement {s : State} {i} (h : Mem.wf s.mem) : Canonical (execAcknowledgement i s) := by
  unfold execAcknowledgement
  split
  · exact .next h
  · simp [h]

@[simp] theorem wf_arrival {s : State} {kind i} (h : Mem.wf s.mem) : Mem.wf (s.arrival kind i).mem := by
  unfold State.arrival
  split <;> simp [h]

theorem canonical_execMessageRetry {s : State} {i} (h : Mem.wf s.mem) : Canonical (execMessageRetry i s) := by
  unfold execMessageRetry
  split
  · exact .next h
  · simp [h]

@[simp] theorem wf_onBehalf {s : State} {k work} (hw : Keeps work) (h : Mem.wf s.mem) : Mem.wf (s.onBehalf k work).mem := by
  have ht := hw { s with cur := k } h
  unfold State.onBehalf
  split <;> simp_all [State.take]

@[simp] theorem wf_wake {s : State} {k work} (hw : Keeps work) (h : Mem.wf s.mem) : Mem.wf (s.wake k work).mem := by
  have ht := hw { s with cur := k } h
  unfold State.wake
  split <;> simp_all

@[simp] theorem keeps_evlockAgain {d a ticket} : Keeps (evlockAgain d a ticket) :=
  keeps_me.bind fun _ => keeps_lineOf.bind fun _ => keeps_evlockLoop

@[simp] theorem slottedDone_mem (s : State) (k x) : (s.slottedDone k x).mem = s.mem := by simp [State.slottedDone]

theorem canonical_execSlottedInjection {s : State} {core} (h : Mem.wf s.mem) : Canonical (execSlottedInjection core s) := by
  unfold execSlottedInjection
  split
  · exact .next h
  · simp [h]

@[simp] theorem refillPort_mem (s : State) (c) : (s.refillPort c).mem = s.mem := by rfl

/-! ## Firmware (`Machine/EvFw`) -/

@[simp] theorem answerCall_mem (s : State) (k status) : (s.answerCall k status).mem = s.mem := by simp [State.answerCall]

@[simp] theorem wf_fwCall {s : State} {k n f} (hf : ∀ a b, Mem.wf (f a b s).1.mem) (h : Mem.wf s.mem) :
    Mem.wf (s.fwCall k n f).mem := by
  simp [State.fwCall, h, hf]

@[simp] theorem unknownCall_mem (s : State) (k) : (s.unknownCall k).mem = s.mem := by simp [State.unknownCall]
@[simp] theorem reshare_mem (s : State) (was) : (s.reshare was).mem = s.mem := by simp [State.reshare]

@[simp] theorem wf_fwCreate {s : State} {a b} (h : Mem.wf s.mem) : Mem.wf (fwCreate a b s).1.mem := by
  unfold fwCreate
  dsimp only
  split
  · exact h
  · split
    · exact h
    · split
      · exact h
      · split <;> simp [h]

@[simp] theorem wf_fwWeight {s : State} {a b} (h : Mem.wf s.mem) : Mem.wf (fwWeight a b s).1.mem := by
  unfold fwWeight
  dsimp only
  split <;> simp [h]

@[simp] theorem wf_fwDestroy {s : State} {a b} (h : Mem.wf s.mem) : Mem.wf (fwDestroy a b s).1.mem := by
  unfold fwDestroy
  dsimp only
  split
  · exact h
  · split <;> simp [h]

@[simp] theorem wf_loseClusters {s : State} {m} (h : Mem.wf s.mem) : Mem.wf (s.loseClusters m).mem :=
  wf_filter _ (wf_loseCaches h)

@[simp] theorem wf_gate {s : State} {m} (h : Mem.wf s.mem) : Mem.wf (s.gate m).mem := by simp [State.gate, h]

@[simp] theorem wf_fwPower {s : State} {a b} (h : Mem.wf s.mem) : Mem.wf (fwPower a b s).1.mem := by
  unfold fwPower
  dsimp only
  split
  · simp [h]
  · split
    · exact h
    · split
      · exact h
      · split <;> simp [h]
  · split
    · exact h
    · split <;> simp [h]
  · rfl
  · exact h

@[simp] theorem wf_fwGrant {s : State} {a b} (h : Mem.wf s.mem) : Mem.wf (fwGrant a b s).1.mem := by
  unfold fwGrant
  dsimp only
  split
  · exact h
  · split
    · exact h
    · split <;> simp [h]

@[simp] theorem wf_fwStart {s : State} {k a b} (h : Mem.wf s.mem) : Mem.wf (fwStart k a b s).1.mem := by
  unfold fwStart
  dsimp only
  split
  · exact h
  · split <;> simp [h]

/-! ## Host events (`Machine/EvHost`) -/

@[simp] theorem sendPort_mem (s : State) (p x) : (s.sendPort p x).mem = s.mem := by rfl
@[simp] theorem unsupported_mem (s : State) (p) : (s.unsupported p).mem = s.mem := by rfl

@[simp] theorem wf_posted {s : State} {w} {f : State → State} (hf : Mem.wf (f s).mem) (h : Mem.wf s.mem) :
    Mem.wf (s.posted w f).mem := by
  simp [State.posted, h, hf]

@[simp] theorem wf_refuseSeed {s : State} {p} (h : Mem.wf s.mem) : Mem.wf (s.refuseSeed p).mem := by
  simp [State.refuseSeed, h]

@[simp] theorem wf_seedWrite {s : State} {p offset bs} (h : Mem.wf s.mem) : Mem.wf (s.seedWrite p offset bs).mem := by
  unfold State.seedWrite
  split
  · exact h
  · split
    · exact wf_refuseSeed h
    · split
      · exact wf_refuseSeed h
      · simp [wf_enqueueSeed h ‹_›]

@[simp] theorem semTake_mem (s : State) (agent c) : (s.semTake agent c).mem = s.mem := by simp [State.semTake]

@[simp] theorem semLoad_mem (s : State) (agent c) : (s.semLoad agent c).mem = s.mem := by
  unfold State.semLoad
  split <;> simp

@[simp] theorem semStore_mem (s : State) (agent c value) : (s.semStore agent c value).mem = s.mem := by
  unfold State.semStore
  split
  · split <;> rfl
  · simp

@[simp] theorem mailStore_mem (s : State) (core sender value) : (s.mailStore core sender value).mem = s.mem := by
  unfold State.mailStore
  split
  · rfl
  · split <;> rfl

@[simp] theorem barRead_mem (s : State) (p o n) : (s.barRead p o n).mem = s.mem := by simp [State.barRead]

@[simp] theorem wf_barWrite {s : State} {p o bs} (h : Mem.wf s.mem) : Mem.wf (s.barWrite p o bs).mem := by
  simp [State.barWrite, h]

@[simp] theorem wf_barAccess {s : State} {p o a} (h : Mem.wf s.mem) : Mem.wf (s.barAccess p o a).mem := by
  unfold State.barAccess
  split <;> simp [h]

@[simp] theorem wf_windowMsg {s : State} {core body} (h : Mem.wf s.mem) : Mem.wf (s.windowMsg core body).mem := by
  unfold State.windowMsg
  dsimp only
  split <;> next e => exact (wf_of_arriveMsg e h :)

@[simp] theorem hostLines_mem (s : State) (keys out back) : (s.hostLines keys out back).mem = s.mem := by
  simp [State.hostLines]

@[simp] theorem wf_hdmWrite {s : State} {port offset bs} (h : Mem.wf s.mem) : Mem.wf (s.hdmWrite port offset bs).mem := by
  unfold State.hdmWrite
  split
  · simp [h]
  · refine wf_foldl (fun s x hs => ?_) _ (by simp [h])
    dsimp only
    split <;> simp [hs]

@[simp] theorem hdmRead_mem (s : State) (port offset n) : (s.hdmRead port offset n).mem = s.mem := by simp [State.hdmRead]

@[simp] theorem wf_hdmAccess {s : State} {port offset a} (h : Mem.wf s.mem) : Mem.wf (s.hdmAccess port offset a).mem := by
  unfold State.hdmAccess
  split <;> simp [h]

@[simp] theorem wf_performHost {s : State} {a} (h : Mem.wf s.mem) : Mem.wf (s.performHost a).mem := by
  unfold State.performHost
  split <;> simp [h]

@[simp] theorem wf_wakeUp {s : State} (h : Mem.wf s.mem) : Mem.wf s.wakeUp.mem := by
  unfold State.wakeUp
  split
  · exact h
  · exact wf_foldl (fun s x hx => by simp [hx]) _ h

@[simp] theorem respond_mem (s : State) (p ok next code body) : (s.respond p ok next code body).mem = s.mem := by
  simp [State.respond]

/-! ## Scheduled events (`Machine/EvSched`) -/

@[simp] theorem leaveInstruction_mem (s : State) (k) : (s.leaveInstruction k).mem = s.mem := by
  simp [State.leaveInstruction]

@[simp] theorem takeEvent_mem (s : State) (k e) : (s.takeEvent k e).mem = s.mem := by simp [State.takeEvent]

@[simp] theorem takeMillRow_mem (s : State) (core k h1) : (s.takeMillRow core k h1).mem = s.mem := by
  simp [State.takeMillRow]

@[simp] theorem takePending_mem (s : State) (core) : (s.takePending core).mem = s.mem := by
  unfold State.takePending
  dsimp only
  split
  · rfl
  · split
    · simp
    · split <;> simp

theorem canonical_execAsyncEventTake {s : State} {core} (h : Mem.wf s.mem) : Canonical (execAsyncEventTake core s) := by
  unfold execAsyncEventTake
  rw [canonical_next]
  split
  · split <;> simp [h]
  · exact h

@[simp] theorem debugHalt_mem (s : State) (k) : (s.debugHalt k).mem = s.mem := by simp [State.debugHalt]

@[simp] theorem wf_debug {s : State} {x} (h : Mem.wf s.mem) : Mem.wf (s.debug x).mem := by
  unfold State.debug
  split
  · simp [h]
  · simp [h]
  · simp [h]
  · simp [h]
  · simp [h]
  · simp [h]
  · split <;> simp [h]

@[simp] theorem wf_holdDies {s : State} (h : Mem.wf s.mem) : Mem.wf s.holdDies.mem := wf_filter _ (wf_loseCaches h)

/-! ## Scalar memory forms (`Machine/ScalarMem`) -/

theorem canonical_loadG {s : State} {n signed d a i} (h : Mem.wf s.mem) : Canonical (loadG n signed d a i s) := by
  refine canonical_issue h <| canonical_runM h <| keeps_get fun _ _ => keeps_check.bind fun p =>
    keeps_if (keeps_send.bind fun _ => keeps_modifyMe.bind fun _ => keeps_done) <| keeps_read.bind fun _ => ?_
  split
  · exact keeps_modifyMe.bind fun _ => keeps_done

theorem canonical_loadF {s : State} {n d a i} (h : Mem.wf s.mem) : Canonical (loadF n d a i s) := by
  refine canonical_issue h <| canonical_runM h <| keeps_get fun _ _ => keeps_check.bind fun p =>
    keeps_if (keeps_send.bind fun _ => keeps_modifyMe) <| keeps_read.bind fun _ => ?_
  split
  · exact keeps_when keeps_trap fun _ => keeps_modifyMe.bind fun _ => keeps_done

theorem canonical_storeValue {s : State} {n a i value} (h : Mem.wf s.mem) : Canonical (storeValue n a i value s) :=
  canonical_runM h <| keeps_get fun _ _ => keeps_check.bind fun _ => keeps_store

theorem canonical_storeG {s : State} {n d a i} (h : Mem.wf s.mem) : Canonical (storeG n d a i s) :=
  canonical_issue h <| canonical_storeValue h

theorem canonical_storeF {s : State} {n d a i} (h : Mem.wf s.mem) : Canonical (storeF n d a i s) :=
  canonical_issue h <| canonical_storeValue h

/-! ## Time and the choice of an action (`Machine/Sched`) -/

@[simp] theorem chosen_mem (s : State) : s.chosen.mem = s.mem := by
  unfold State.chosen
  split <;> rfl

@[simp] theorem passTime_mem (s : State) : s.passTime.mem = s.mem := by
  unfold State.passTime
  rw [noteContenders_mem, after_mem]

theorem canonical_map {f : State → State} {o : Out} (hf : ∀ t, Mem.wf t.mem → Mem.wf (f t).mem) (ho : Canonical o) :
    Canonical (o.map f) := by
  cases o with
  | next t => exact .next (hf t (ho.wf rfl))
  | fault r => exact canonical_fault r
  | refused r => exact canonical_refused r

/-! ## Dispatch (`Machine/Dispatch`) -/

/-- Every instruction and every event keeps memory in canonical form. -/
theorem canonical_exec (i : Instr) {s : State} (h : Mem.wf s.mem) : Canonical (exec i s) := by
  unfold exec
  cases i with
  | add | sub | and | or | xor | shl | shr | sar | mul | mulh | mulhz | min | max | slt | sltz | bfx | lea | addw =>
    exact canonical_alu2 h
  | div | divz | rem | remz => exact canonical_aluLong h
  | clz | ctz | popc | sext | zext | addi | andi | ori | xori | slti | shli | shri | sari | laddr => exact canonical_alu1 h
  | csel | bfi => exact canonical_alu3 h
  | fclass | fmvgf | fmvfg | rdtime | rdcyc | ldhi | adpc => exact canonical_issue h <| canonical_complete h
  | laddrNear => exact canonical_issue h <| canonical_if (canonical_raise h) (canonical_complete h)
  | bmany | bmall | bmnone | fsgn | diversionTableWrite | userReturn | loadDataReturn | longLatencyResult | supplySag
  | supplySagEnd => exact .next h
  | beq | bne | blt | bge | blo | bhs => exact canonical_branchIf h
  | jal => exact canonical_issue h <| by simp [h]
  | jalr => exact canonical_issue h <| canonical_if (canonical_raise h) (by simp [h])
  | lb | lh | lw | ld | lbz | lhz | lwz => exact canonical_loadG h
  | sb | sh | sw | sd => exact canonical_storeG h
  | flw | fld => exact canonical_loadF h
  | fsw | fsd => exact canonical_storeF h
  | fadd | fsub | fmul | fdiv => exact canonical_fpu2 h
  | fsqrt | fma | fcvt => exact canonical_fpuRound h
  | fmin | fmax => exact canonical_fpuPick h
  | feq | flt | fle => exact canonical_fpuCompare h
  | fcvti => exact canonical_issue h <| canonical_finishFp h
  | fcvtf => exact canonical_issue h <| canonical_fpuRound h
  | vadd | vaddScalar | vsub | vsubScalar | vmul | vmulScalar | vmulh | vmulhScalar | vmulhz | vmulhzScalar | vmin
  | vminScalar | vmax | vmaxScalar | vminz | vminzScalar | vmaxz | vmaxzScalar | vand | vandScalar | vor | vorScalar
  | vxor | vxorScalar | vshl | vshlScalar | vshr | vshrScalar | vsar | vsarScalar | vsadd | vsaddScalar | vssub
  | vssubScalar | vmacc | vmaccScalar | vdot4 | vdot4Scalar | vnarrow | vwiden | setvl | setvli | vcmpeq | vcmpne
  | vcmplt | vcmple | vcmplo | vcmpls | mand | mor | mxor | mandn | mpopc | mfirst | mtofirst | mbefore | mfromg | mtog
  | vslideup | vslidedn | vperm | vbfly | vzip | vunzip | vcompress | vexpand | viota | vmerge | vextr | vredsum
  | vredmax | vredmin | vscan | vhash | vpart | vconflict | vmatchb | vrand =>
    exact canonical_vissue h <| canonical_complete h
  | vfadd | vfaddScalar | vfsub | vfsubScalar | vfmul | vfmulScalar | vfdiv | vfdivScalar | vfma | vfmaScalar | vfms
  | vfmsScalar | vfnma | vfnmaScalar | vfsqrt => exact canonical_vissue h <| canonical_vfltRound h
  | vfmin | vfminScalar | vfmax | vfmaxScalar | vfsgn | vfsgnScalar | vfrcpe | vfrsqe =>
    exact canonical_vissue h <| canonical_vfltExact h
  | vfcvt => exact canonical_vfltIssue h <| canonical_finishVelems h
  | vfcvti | vfcvtf => exact canonical_vissue h <| canonical_finishVelems h
  | vfscale | vfscaleScalar => exact canonical_vissue h <| canonical_vfscaleOp h
  | vfmxq => exact canonical_vissue h <| canonical_if (canonical_raise h) (canonical_finishVec h)
  | vfcmpeq | vfcmplt | vfcmple => exact canonical_vissue h <| canonical_vfcmpOp h
  | vsplat => exact canonical_vissue h <| canonical_if (canonical_raise h) (canonical_complete h)
  | vfredsum | vfredmax => exact canonical_vissue h <| canonical_vfredOp h
  | vstrld | vstrcmp | vstrhash | vld | vlds | vldx | vldseg | vldff | vst | vsts | vstx | vstseg | vpst | vredm =>
    exact canonical_vissue h <| canonical_runM h <| keeps_timed (by simp)
  | tzero => exact canonical_execTzero h
  | tld => exact canonical_execTld h
  | tst => exact canonical_execTst h
  | tmovvt => exact canonical_execTmovvt h
  | tmovtv => exact canonical_execTmovtv h
  | topa => exact canonical_execTopa h
  | tsave => exact canonical_execTsave h
  | trestore => exact canonical_execTrestore h
  | mlease => exact canonical_execMlease h
  | mrelease => exact canonical_unitIssue h <| canonical_runM h <| keeps_release.bind fun _ => keeps_done
  | mfmt => exact canonical_execMfmt h
  | plant => exact canonical_execPlant h
  | mma => exact canonical_execMma h
  | mmas => exact canonical_execMmas h
  | mzero => exact canonical_execMzero h
  | mdrain => exact canonical_execMdrain h
  | mchain => exact canonical_execMchain h
  | mcoll => exact canonical_execMcoll h
  | mstat | qstatOcc | qstatFaddr | qstatFcause | prio => exact canonical_unitIssue h <| canonical_complete h
  | amoswap | amoadd | amoand | amoor | amoxor | amomin | amomax | amocas | amofadd => exact canonical_amo h
  | redadd | redmin | redmax | redfadd | redfmax => exact canonical_red h
  | binit => exact canonical_execBinit h
  | barr => exact canonical_execBarr h
  | bexp => exact canonical_execBexp h
  | bwait => exact canonical_barIssue h <| canonical_runM h keeps_bwaitLoop
  | btestCnt => exact canonical_execBtestCnt h
  | btestFlg => exact canonical_execBtestFlg h
  | bdomRect => exact canonical_execBdomRect h
  | bdomList => exact canonical_execBdomList h
  | evwait => exact canonical_issue h <| canonical_runM h keeps_evwaitLoop
  | evsig => exact canonical_execEvsig h
  | evlock => exact canonical_issue h <| canonical_runM h keeps_evlockStart
  | evunlock => exact canonical_execEvunlock h
  | waitv => exact canonical_vissue h <| canonical_runM h keeps_waitvLoop
  | cpq | cpqt => exact canonical_copyRequest h
  | qfence => exact canonical_execQfence h
  | gcast => exact canonical_execGcast h
  | fence => exact canonical_runM h <| keeps_fenceWait.bind fun _ => keeps_done
  | fencei => exact canonical_runM h <| keeps_fenceWait.bind fun _ => keeps_modifyMe.bind fun _ => keeps_done
  | seedput => exact canonical_execSeedput h
  | seedyield => exact canonical_execSeedyield h
  | seedend => exact canonical_execSeedend h
  | nestgo => exact canonical_execNestgo h
  | slotwait => exact canonical_execSlotwait h
  | tokb => exact canonical_execTokb h
  | verstage => exact canonical_execVerstage h
  | verpub => exact canonical_execVerpub h
  | verqCur => exact canonical_execVerqCur h
  | verqReg => exact canonical_execVerqReg h
  | verqSlot => exact canonical_execVerqSlot h
  | mark => exact canonical_execMark h
  | ttgo => exact canonical_execTtgo h
  | ttstatSt | ttstatEnt | ttstatFaddr => exact canonical_partIssue h fun p => canonical_complete h
  | pin => exact canonical_execPin h
  | unpin => exact canonical_execUnpin h
  | hintef => exact canonical_execHintef h
  | pref => exact canonical_issue h <| canonical_complete <| by simp [h]
  | cflushWb | cflushWbi => exact canonical_cflush h
  | cflushInv => exact canonical_if (canonical_raise h) (canonical_cflush h)
  | alloc => exact canonical_execAlloc h
  | free => exact canonical_execFree h
  | ecall => exact canonical_execEcall h
  | ebreak => exact canonical_if (by simp [h]) (canonical_raiseAfter h)
  | eret => exact canonical_execEret h
  | csrrd | csrwr | csrset | csrclr => exact canonical_csrOp h
  | tlbinvPage | tlbinvCid | tlbinvCtx | tlbinvAll => exact canonical_tlbinv h
  | spadwaysWrite | prioceilWrite | dbgctlWrite => simp [execSpadwaysWrite, execPrioceilWrite, execDbgctlWrite, h]
  | spanSwitch => simp [execSpanSwitch, h]
  | timer | debugHalt | tamper => simp [execTimer, execDebugHalt, execTamper, h]
  | asyncEventTake => exact canonical_execAsyncEventTake h
  | elementProgressTimer | shareRefill => exact canonical_if (by simp [h]) (.next h)
  | seedDispatch => simp [execSeedDispatch, h]
  | acknowledgement => exact canonical_execAcknowledgement h
  | remoteWriteArrival | heldRead | amoArrival | barrierArrival | expectation | byteSubtraction | phaseMessage
  | eventLineUpdate | loadMonitorWindow =>
    simp [execRemoteWriteArrival, execHeldRead, execAmoArrival, execBarrierArrival, execExpectation, execByteSubtraction,
      execPhaseMessage, execEventLineUpdate, execLoadMonitorWindow, h]
  | messageRetry => exact canonical_execMessageRetry h
  | bexpReply | bwaitWake | evwaitWake | evlockWake | waitvWake | slotwaitWake =>
    simp only [execBexpReply, execBwaitWake, execEvwaitWake, execEvlockWake, execWaitvWake, execSlotwaitWake]
    split
    · simp [h]
    · exact .next h
  | copyChunk | collectivePerform => simp [execCopyChunk, execCollectivePerform, h]
  | millCommandPerform | leaseGrant | budgetExpiry | mchainLanding =>
    simp [execMillCommandPerform, execLeaseGrant, execBudgetExpiry, execMchainLanding, h]
  | slottedInjection => exact canonical_execSlottedInjection h
  | ttEntryBegin | ttEntryComplete => simp [execTtEntryBegin, execTtEntryComplete, h]
  | semTake | semRelease | mailboxWrite | hostSeedWrite | barrierWindowArrive | barrierWindowExpect | eventLineInit
  | eventLineSignal | hostHdmWrite | hostLinkTraining | powerWake | getVersion | getCapabilities | negotiateAlgorithms
  | getDigests | getCertificate | challenge | getMeasurements | keyExchange | finish | endSession =>
    simp [execSemTake, execSemRelease, execMailboxWrite, execHostSeedWrite, execBarrierWindowArrive,
      execBarrierWindowExpect, execEventLineInit, execEventLineSignal, execHostHdmWrite, execHostLinkTraining,
      execPowerWake, execGetVersion, execGetCapabilities, execNegotiateAlgorithms, execGetDigests, execGetCertificate,
      execChallenge, execGetMeasurements, execKeyExchange, execFinish, execEndSession, h]
  | fwCreatePartition | fwSetShareWeight | fwDestroyPartition | fwSetPowerState | fwDebugGrant | fwStartChipletCore =>
    simp [execFwCreatePartition, execFwSetShareWeight, execFwDestroyPartition, execFwSetPowerState, execFwDebugGrant,
      execFwStartChipletCore, h]
  | reset => exact .next (wf_boot s)
  | unassignedInstructionWord => exact canonical_execUnassignedInstructionWord h
  | tlbinvComplete => simp [execTlbinvComplete, h]

/-! ## Running a strand and the step (`Machine/Sched`, `Machine/Step`) -/

theorem canonical_run {s : State} {k} (h : Mem.wf s.mem) : Canonical (s.run k) := by
  have hf := keeps_fetch { s with cur := k } h
  unfold State.run
  split
  · next w s1 e =>
    have hs1 := wf_snd e hf
    split
    · exact canonical_exec _ hs1
    · exact canonical_raise hs1
  · next e => exact canonical_raise (wf_snd e hf)
  · next e => exact canonical_stall (wf_snd e hf)

@[simp] theorem wf_retry {s : State} {k} (h : Mem.wf s.mem) : Mem.wf (s.retry k).mem := by
  have hready : Mem.wf (s.setStrand k { s.strandAt k with cond := .ready }).mem := h
  unfold State.retry
  dsimp only
  split
  · next s1 e =>
    have hs1 := (canonical_run hready).wf e
    split
    · exact hs1
    · exact h
  · exact h

@[simp] theorem aged_mem (s before : State) (k) : (s.aged before k).mem = s.mem := by
  unfold State.aged
  simp only [setCore_mem, ite_mem, setStrand_mem, ite_self]
  exact foldl_mem (fun t j => setStrand_mem t j _) _ _

theorem canonical_firmware {s : State} {k} (h : Mem.wf s.mem) : Canonical (s.firmware k) := by
  unfold State.firmware
  split
  case h_7 => exact .next (by simp [h])
  all_goals exact canonical_exec _ h

theorem canonical_perform {s : State} {a} (h : Mem.wf s.mem) : Canonical (s.perform a) := by
  cases a with
  | event i => exact canonical_exec i h
  | firmware k => exact canonical_firmware h
  | retry k => exact .next (wf_retry h)
  | issue k => exact canonical_map (fun _ ht => by simp [ht]) (canonical_run h)
  | idle => exact .next h

/-- A step chooses the next action, performs it and lets time pass: all three keep the form. -/
theorem canonical_step {s : State} (h : Mem.wf s.mem) : Canonical (step s) :=
  canonical_map (fun _ ht => by simp [ht]) (canonical_perform (by simp [h]))

/-- Settles O57: `step` is built from operations that write memory only through `Mem.write`, `Mem.cut` and `filter`,
and each of these keeps the canonical form. -/
theorem memoryForm : Obligations.MemoryForm := by
  intro s t h e
  exact (canonical_step h).wf e

end Sys2Proof.MemoryForm
end
